-- ==== Sys2Proof/Word.lean ====
section
/-! DEFINITION. Word.lean: the byte and the 64-bit word, and the plainest arithmetic on them. -/

namespace Sys2Proof

/-- A byte of generic memory (R3). -/
abbrev Byte := BitVec 8

/-- A 64-bit strand-register value (R110). -/
abbrev Word := BitVec 64

end Sys2Proof
end

