-- ==== Sys2Proof/Syntax.lean ====
section
/-! DEFINITION. Syntax.lean: the instructions and events of the opcode table (R51), one constructor a row. -/

namespace Sys2Proof

/-- Predicate mode, R37. -/
inductive PMode where
  | always | onTrue | onFalse
  deriving DecidableEq, Repr

/-- Rounding mode, R98. -/
inductive RMode where
  | rne | rz | rd | ru
  deriving DecidableEq, Repr

/-- Operand readings of MULH, R129. -/
inductive MulhK where
  | ss | uu | su
  deriving DecidableEq, Repr

/-- Conditions of CMPS and CMPU, R129. -/
inductive CmpC where
  | eq | ne | lt | le
  deriving DecidableEq, Repr

/-- Conditions of FCMP, R163. -/
inductive FCmpC where
  | eq | lt | le | un
  deriving DecidableEq, Repr

/-- Readings of SATI, R167. -/
inductive SatK where
  | ss | su | uu
  deriving DecidableEq, Repr

/-- Operation of SCANA, SEGSC and RTREE, R170. -/
inductive ScanOp where
  | add | max | min
  deriving DecidableEq, Repr

/-- Drain of MROW, R176. -/
inductive DrainK where
  | none | db | df
  deriving DecidableEq, Repr

/-- Operation of AMOG, R84. -/
inductive AmoOp where
  | add | swap | cas | max
  deriving DecidableEq, Repr

/-- Order of AMOG, R82. -/
inductive AmoOrd where
  | relaxed | acquire | release | both
  deriving DecidableEq, Repr

/-- Scopes, R65. -/
inductive Scope where
  | tile | region | die | package | domain
  deriving DecidableEq, Repr

/-- Forms of FENCE, R85. -/
inductive FenceK where
  | full | acq | rel
  deriving DecidableEq, Repr

/-- Stride forms of KSET, R138. -/
inductive KsetK where
  | plus | minus | zero | oper
  deriving DecidableEq, Repr

/-- Forms of TDEP, R261. -/
inductive TdepK where
  | e | go | w | q
  deriving DecidableEq, Repr

/-- Forms of CTXSV, R321. -/
inductive CtxsvK where
  | keep | free | die
  deriving DecidableEq, Repr

/-- Forms of TLBINV, R321. -/
inductive TlbK where
  | page | ctx | all
  deriving DecidableEq, Repr

/-- Forms of BRKR, R338. -/
inductive BrkrK where
  | addr | rsid | off
  deriving DecidableEq, Repr

/-- Format tags 0 to 15 (R89). -/
inductive Tag where
  | raw | i8 | i16 | i32 | i64 | f32 | bf16 | f16 | f8e4 | f8e5 | bfx8 | bfx6 | pred | idx | mark | poison
  deriving DecidableEq, Repr

/-- Target fields by kind (R26, R39). -/
inductive Tgt where
  | none
  | left (n : BitVec 7) | right (n : BitVec 7) | pred (n : BitVec 7) | third (n : BitVec 7)
  | reg (n : BitVec 5) | port (n : BitVec 7) | bus (n : BitVec 7)
  deriving DecidableEq, Repr

/-- Forms of LIT by xop: `.S`, `.Z`, `.H`, `.F` (R42). -/
inductive LitK where
  | s | z | h | f
  deriving DecidableEq, Repr

/-- Operations of LOOPN, codes 0x01 to 0x06 (R182). -/
inductive LoopOp where
  | copy | add | mul | mac | max | min
  deriving DecidableEq, Repr

/-- The fields of a LOOPN (R43). -/
structure LoopN where
  op : LoopOp
  tag : Tag
  nlev : BitVec 3
  /-- extent of level l, minus 1 -/
  ext : Vector (BitVec 16) 5
  /-- window indices of operands 0, 1, 2 -/
  win : Vector (BitVec 6) 3
  /-- stride m = 5a + l, signed, in lanes -/
  str : Vector (BitVec 9) 15
  deriving DecidableEq, Repr

/-- Who registers a wait: a node of a strand, or a stream generator (R253). -/
inductive WaiterRef where
  | node (k copy slot : Nat)
  | gen (d tile g : Nat)
  | entry (d e : Nat)
  deriving DecidableEq, Repr

/-- Who writes a register from outside (R6, R341). -/
inductive Writer where
  | beryl | jasper | host
  deriving DecidableEq, Repr

/-- Every row of the opcode table. The first 211 constructors are the instructions of R51; the others are the
events, each one whole step of the agent that its rule names. A strand is named by its key
256 × die + lead tile. -/
inductive Instr where
  | nop
  | exit (p : PMode) (n : BitVec 4)
  | exitc (p : PMode) (f : BitVec 4) (t : BitVec 4)
  | exiti (p : PMode)
  | callb (p : PMode) (r : BitVec 4) (c : BitVec 4)
  | retb (p : PMode)
  | nullw (p : PMode) (a : Tgt) (b : Tgt)
  | reads (p : PMode) (n : BitVec 5) (a : Tgt)
  | writes (p : PMode)
  | lit (p : PMode) (x : LitK) (v : BitVec 42) (a : Tgt)
  | movt (p : PMode) (a : Tgt) (b : Tgt)
  | enter (p : PMode) (i : BitVec 8)
  | leave (p : PMode)
  | trapi (p : PMode) (c : BitVec 6) (n : BitVec 4)
  | halts (p : PMode)
  | brks (p : PMode) (i : BitVec 6) (n : BitVec 4)
  | add (p : PMode) (a : Tgt) (b : Tgt)
  | sub (p : PMode) (a : Tgt) (b : Tgt)
  | mul (p : PMode) (a : Tgt) (b : Tgt)
  | mulh (p : PMode) (x : MulhK) (a : Tgt) (b : Tgt)
  | addi (p : PMode) (i : BitVec 10) (a : Tgt)
  | and (p : PMode) (a : Tgt) (b : Tgt)
  | or (p : PMode) (a : Tgt) (b : Tgt)
  | xor (p : PMode) (a : Tgt) (b : Tgt)
  | shl (p : PMode) (a : Tgt) (b : Tgt)
  | shr (p : PMode) (a : Tgt) (b : Tgt)
  | sra (p : PMode) (a : Tgt) (b : Tgt)
  | min (p : PMode) (u : Bool) (a : Tgt) (b : Tgt)
  | max (p : PMode) (u : Bool) (a : Tgt) (b : Tgt)
  | cmps (p : PMode) (c : CmpC) (a : Tgt) (b : Tgt)
  | cmpu (p : PMode) (c : CmpC) (a : Tgt) (b : Tgt)
  | sel (p : PMode) (a : Tgt) (b : Tgt)
  | divs (p : PMode) (r : Bool) (a : Tgt) (b : Tgt)
  | divu (p : PMode) (r : Bool) (a : Tgt) (b : Tgt)
  | abs (p : PMode) (a : Tgt) (b : Tgt)
  | neg (p : PMode) (a : Tgt) (b : Tgt)
  | clz (p : PMode) (a : Tgt) (b : Tgt)
  | popc (p : PMode) (a : Tgt) (b : Tgt)
  | exts (p : PMode) (n : BitVec 6) (a : Tgt)
  | extz (p : PMode) (n : BitVec 6) (a : Tgt)
  | addsat (p : PMode) (u : Bool) (a : Tgt) (b : Tgt)
  | subsat (p : PMode) (u : Bool) (a : Tgt) (b : Tgt)
  | lea (p : PMode) (k : BitVec 3) (a : Tgt)
  | idx (p : PMode) (a : Tgt) (b : Tgt)
  | last (p : PMode) (j : BitVec 3) (a : Tgt)
  | andn (p : PMode) (a : Tgt) (b : Tgt)
  | rotl (p : PMode) (a : Tgt) (b : Tgt)
  | bfx (p : PMode) (s : Bool) (n : BitVec 6) (a : Tgt)
  | fadd (p : PMode) (r : RMode) (a : Tgt) (b : Tgt)
  | fsub (p : PMode) (r : RMode) (a : Tgt) (b : Tgt)
  | fmul (p : PMode) (r : RMode) (a : Tgt) (b : Tgt)
  | fma (p : PMode) (r : RMode) (a : Tgt) (b : Tgt)
  | fmin (p : PMode) (n : Bool) (a : Tgt) (b : Tgt)
  | fmax (p : PMode) (n : Bool) (a : Tgt) (b : Tgt)
  | fcmp (p : PMode) (c : FCmpC) (a : Tgt) (b : Tgt)
  | fabs (p : PMode) (a : Tgt) (b : Tgt)
  | fneg (p : PMode) (a : Tgt) (b : Tgt)
  | frcp (p : PMode) (r : RMode) (a : Tgt) (b : Tgt)
  | fsqrt (p : PMode) (r : RMode) (a : Tgt) (b : Tgt)
  | frsq (p : PMode) (r : RMode) (a : Tgt) (b : Tgt)
  | fexp2 (p : PMode) (r : RMode) (a : Tgt) (b : Tgt)
  | flog2 (p : PMode) (r : RMode) (a : Tgt) (b : Tgt)
  | fscale (p : PMode) (r : RMode) (a : Tgt) (b : Tgt)
  | fclass (p : PMode) (a : Tgt) (b : Tgt)
  | cvt (p : PMode) (y : BitVec 2) (t : Tag) (a : Tgt)
  | cvtr (p : PMode) (m : RMode) (y : BitVec 2) (t : Tag) (a : Tgt)
  | cvti (p : PMode) (m : RMode) (y : BitVec 2) (t : Tag) (a : Tgt)
  | cvtf (p : PMode) (m : RMode) (y : BitVec 2) (t : Tag) (a : Tgt)
  | packb (p : PMode) (f : Bool) (j : BitVec 2) (k : BitVec 4) (a : Tgt)
  | unpackb (p : PMode) (j : BitVec 2) (a : Tgt)
  | retag (p : PMode) (t : Tag) (a : Tgt)
  | tagq (p : PMode) (a : Tgt)
  | sati (p : PMode) (s : SatK) (y : BitVec 2) (t : Tag) (a : Tgt)
  | rsum (p : PMode) (s : Bool) (a : Tgt) (b : Tgt)
  | rmax (p : PMode) (n : Bool) (a : Tgt) (b : Tgt)
  | rmin (p : PMode) (n : Bool) (a : Tgt) (b : Tgt)
  | rand (p : PMode) (n : BitVec 7) (a : Tgt)
  | ror (p : PMode) (n : BitVec 7) (a : Tgt)
  | scana (p : PMode) (x : ScanOp) (a : Tgt) (b : Tgt)
  | shuf (p : PMode) (a : Tgt) (b : Tgt)
  | bcastl (p : PMode) (j : BitVec 7) (a : Tgt)
  | slide (p : PMode) (d : BitVec 8) (a : Tgt)
  | maskl (p : PMode) (a : Tgt) (b : Tgt)
  | cntl (p : PMode) (a : Tgt) (b : Tgt)
  | firstl (p : PMode) (a : Tgt) (b : Tgt)
  | zip (p : PMode) (a : Tgt) (b : Tgt)
  | unzip (p : PMode) (a : Tgt) (b : Tgt)
  | segsc (p : PMode) (x : ScanOp) (a : Tgt) (b : Tgt)
  | rtree (p : PMode) (x : ScanOp) (a : Tgt) (b : Tgt)
  | mldb (p : PMode) (a : Tgt)
  | mclm (p : PMode) (n : BitVec 6) (a : Tgt)
  | mrel (p : PMode) (n : BitVec 6) (a : Tgt)
  | mrow (p : PMode) (x : DrainK) (g : Bool) (j : BitVec 3) (o : BitVec 5) (a : Tgt)
  | mrowt (p : PMode) (x : DrainK) (g : Bool) (j : BitVec 3) (o : BitVec 5) (a : Tgt)
  | macr (p : PMode) (n : BitVec 4) (r : BitVec 6) (a : Tgt)
  | manc (p : PMode) (n : BitVec 4) (r : BitVec 6) (a : Tgt)
  | mdrn (p : PMode) (y : BitVec 2) (t : Tag) (a : Tgt)
  | mdrk (p : PMode) (y : BitVec 2) (t : Tag) (a : Tgt)
  | mstat (p : PMode) (g : BitVec 3) (r : BitVec 6) (a : Tgt)
  | wrd (p : PMode) (w : BitVec 10) (a : Tgt)
  | wup (p : PMode) (w : BitVec 10) (a : Tgt)
  | wfl (p : PMode) (w : BitVec 10) (a : Tgt)
  | wsh (p : PMode) (w : BitVec 10) (a : Tgt)
  | wrdb (p : PMode) (w : BitVec 10) (a : Tgt)
  | wflb (p : PMode) (w : BitVec 10) (a : Tgt)
  | wext (p : PMode) (w : BitVec 10) (a : Tgt)
  | wfree (p : PMode) (w : BitVec 10) (a : Tgt)
  | wmark (p : PMode) (w : BitVec 10) (a : Tgt)
  | weos (p : PMode) (w : BitVec 10) (a : Tgt)
  | wopen (p : PMode) (w : BitVec 10) (a : Tgt)
  | wclose (p : PMode) (w : BitVec 10) (a : Tgt)
  | wsave (p : PMode) (w : BitVec 10) (a : Tgt)
  | wrest (p : PMode) (w : BitVec 10) (a : Tgt)
  | wlink (p : PMode) (w : BitVec 10) (a : Tgt)
  | wspl (p : PMode) (o : Bool) (w : BitVec 10) (a : Tgt)
  | ldg (p : PMode) (u : Bool) (t : Tag) (a : Tgt)
  | stg (p : PMode) (u : Bool) (t : Tag) (a : Tgt)
  | ldgv (p : PMode) (u : Bool) (t : Tag) (a : Tgt)
  | stgv (p : PMode) (u : Bool) (t : Tag) (a : Tgt)
  | ldk (p : PMode) (v : Bool) (t : Tag) (a : Tgt)
  | pref (p : PMode) (a : Tgt)
  | amog (p : PMode) (x : AmoOp) (d : AmoOrd) (s : Scope) (t : Tag) (a : Tgt)
  | fence (p : PMode) (x : FenceK) (s : Scope) (a : Tgt)
  | acq (p : PMode) (s : Scope) (t : Tag) (a : Tgt)
  | rel (p : PMode) (s : Scope) (t : Tag) (a : Tgt)
  | ctok (p : PMode) (a : Tgt) (b : Tgt)
  | mseq (p : PMode) (a : Tgt) (b : Tgt)
  | placeq (p : PMode) (a : Tgt)
  | mona (p : PMode) (t : Tag) (a : Tgt)
  | mwait (p : PMode) (a : Tgt)
  | kset (p : PMode) (x : KsetK) (g : Bool) (e : BitVec 9)
  | kchain (p : PMode) (n : BitVec 3)
  | kidx (p : PMode) (l : BitVec 2) (a : Tgt) (b : Tgt)
  | klast (p : PMode) (n : BitVec 3) (j : BitVec 3) (a : Tgt)
  | sgen (p : PMode) (g : BitVec 2) (w : BitVec 10) (a : Tgt)
  | sgrun (p : PMode) (g : BitVec 2) (w : BitVec 10) (a : Tgt)
  | psrc (p : PMode) (n : BitVec 7) (a : Tgt)
  | psnk (p : PMode) (j : BitVec 3) (n : BitVec 7) (a : Tgt)
  | loopn (x : LoopN)
  | bustx (p : PMode) (a : Tgt) (b : Tgt)
  | busrx (p : PMode) (i : BitVec 7) (a : Tgt)
  | ctlsnd (p : PMode) (c : BitVec 7)
  | ctlrcv (p : PMode) (c : BitVec 7) (a : Tgt)
  | cqapp (p : PMode) (c : BitVec 7) (a : Tgt)
  | cqtail (p : PMode) (c : BitVec 7) (a : Tgt)
  | cqseq (p : PMode) (c : BitVec 7) (a : Tgt)
  | cqwait (p : PMode) (c : BitVec 7) (a : Tgt)
  | evpop (p : PMode) (a : Tgt)
  | evpeek (p : PMode) (a : Tgt)
  | cqabrt (p : PMode) (c : BitVec 7) (a : Tgt)
  | clapp (p : PMode) (c : BitVec 4) (a : Tgt)
  | cltail (p : PMode) (c : BitVec 4) (a : Tgt)
  | clseq (p : PMode) (c : BitVec 4) (a : Tgt)
  | clwait (p : PMode) (c : BitVec 4) (a : Tgt)
  | clabrt (p : PMode) (c : BitVec 4) (a : Tgt)
  | gtinit (p : PMode) (t : BitVec 4) (a : Tgt)
  | gtroot (p : PMode) (t : BitVec 4) (a : Tgt)
  | gtdesc (p : PMode) (w : BitVec 6) (t : BitVec 4) (a : Tgt)
  | gtexp (p : PMode) (w : BitVec 6) (t : BitVec 4) (a : Tgt)
  | gtback (p : PMode) (w : BitVec 6) (t : BitVec 4) (a : Tgt)
  | gtvl (p : PMode) (w : BitVec 6) (t : BitVec 4) (a : Tgt)
  | gtread (p : PMode) (f : BitVec 6) (t : BitVec 4) (a : Tgt)
  | gtbest (p : PMode) (t : BitVec 4) (a : Tgt)
  | gtreroot (p : PMode) (t : BitVec 4) (a : Tgt)
  | gtfree (p : PMode) (t : BitVec 4) (a : Tgt)
  | gtstat (p : PMode) (i : BitVec 6) (t : BitVec 4) (a : Tgt)
  | gtparm (p : PMode) (q : BitVec 6) (t : BitVec 4) (a : Tgt)
  | tspawn (p : PMode) (c : Bool) (a : Tgt)
  | trange (p : PMode) (c : Bool) (a : Tgt)
  | tpop (p : PMode) (n : BitVec 4)
  | tidle (p : PMode)
  | tdone (p : PMode) (f : Bool) (a : Tgt)
  | tdep (p : PMode) (x : TdepK) (a : Tgt)
  | gjoin (p : PMode) (g : BitVec 8) (a : Tgt)
  | gleave (p : PMode) (g : BitVec 8) (a : Tgt)
  | gbar (p : PMode) (g : BitVec 8) (a : Tgt)
  | lkacq (p : PMode) (t : Bool) (a : Tgt)
  | lkrel (p : PMode) (a : Tgt)
  | qpush (p : PMode) (t : Bool) (a : Tgt)
  | qpop (p : PMode) (t : Bool) (a : Tgt) (b : Tgt)
  | wreg (p : PMode) (k : BitVec 4) (a : Tgt)
  | wdereg (p : PMode) (a : Tgt)
  | prio (p : PMode) (a : Tgt)
  | splins (p : PMode) (w : BitVec 10) (a : Tgt)
  | splrem (p : PMode) (w : BitVec 10) (a : Tgt)
  | splbnd (p : PMode) (w : BitVec 10) (a : Tgt)
  | splack (p : PMode) (c : BitVec 6)
  | stglnk (p : PMode) (n : BitVec 7) (a : Tgt)
  | stgst (p : PMode) (a : Tgt)
  | stgld (p : PMode) (a : Tgt)
  | splq (p : PMode) (c : Bool) (a : Tgt)
  | foldset (p : PMode) (e : BitVec 3) (a : Tgt)
  | ctxsv (p : PMode) (x : CtxsvK) (a : Tgt)
  | ctxrs (p : PMode) (a : Tgt)
  | tlbinv (p : PMode) (x : TlbK) (a : Tgt)
  | mapset (p : PMode) (l : BitVec 3) (a : Tgt)
  | prmt (p : PMode) (s : Bool) (c : BitVec 4) (r : BitVec 4) (a : Tgt)
  | rgnal (p : PMode) (a : Tgt)
  | rgnfr (p : PMode) (a : Tgt)
  | trapret (p : PMode) (s : Bool) (r : Bool)
  | csrrd (p : PMode) (c : BitVec 10) (a : Tgt)
  | csrwr (p : PMode) (c : BitVec 10) (a : Tgt)
  | injerr (p : PMode) (u : Bool) (k : BitVec 3) (a : Tgt)
  | selft (p : PMode) (a : Tgt)
  | scan (p : PMode) (a : Tgt)
  | elogrd (p : PMode) (e : Bool) (n : BitVec 6) (l : BitVec 3) (a : Tgt)
  | attest (p : PMode) (a : Tgt)
  | brkr (p : PMode) (x : BrkrK) (k : BitVec 2) (a : Tgt)
  | trcmk (p : PMode) (t : BitVec 8) (a : Tgt)
  | cycrd (p : PMode) (s : BitVec 4) (a : Tgt)
  | vchk (p : PMode) (v : Bool) (w : BitVec 10) (a : Tgt)
  | packageReset
  | contextOpen (c q : Nat) (priv super : Bool) (frames : List (Nat × Nat))
  | contextClose (c : Nat)
  | ldoor (c : Nat) (v : BitVec 32) (w : List (Nat × BitVec 8))
  | launchTake (c : Nat)
  | launchDispatch (c : Nat)
  | windowPreload (k : Nat)
  | launchCompletion (c j : Nat)
  | regionGrant (c : Nat)
  | blockLoad (k : Nat)
  | slotResultOffer (k copy slot : Nat)
  | controlBlockEnd (k : Nat)
  | fabricBlockComplete (k : Nat)
  | blockEdge (k : Nat)
  | strandEnd (k : Nat)
  | jasperEndStrand (k : Nat)
  | fabricReconfigure (k copy slot : Nat)
  | skipTokenPass (k copy slot : Nat)
  | windowReadWaitEnd (k copy slot : Nat)
  | windowFillWaitEnd (k copy slot : Nat)
  | channelFill (k w : Nat)
  | spillRingDrain (k w : Nat)
  | channelEndOfStream (k w : Nat)
  | writeApply (src dst : Nat)
  | readServe (src dst : Nat)
  | readResponse (d j : Nat)
  | progressBeat (src dst : Nat)
  | mwaitWake (k slot : Nat)
  | constantSegmentCopy (d c : Nat)
  | translationWalk (d j : Nat)
  | fltack (c seq st : Nat)
  | streamElementFill (d tile g : Nat)
  | sgrunAbsentPage (d tile g : Nat)
  | sgrunEntryReread (d tile g : Nat)
  | sgrunPostRetry (d tile g : Nat)
  | copyRecordCapture (k ch : Nat)
  | copyRow (k ch : Nat)
  | copyFillResume (k ch : Nat)
  | copyRecordComplete (k ch : Nat)
  | eventQueueResume (k ch : Nat)
  | collectiveStepStart (k ch : Nat)
  | readyNotice (d j : Nat)
  | collectiveDataArrival (d j : Nat)
  | abortNotice (d j : Nat)
  | peerSilent (k ch : Nat)
  | taskWindowReady (d e : Nat)
  | taskTake (k slot : Nat)
  | gangPhaseRelease (k slot : Nat)
  | lockGrant (k slot : Nat)
  | queueWaiterServe (d pa : Nat)
  | waitforRegister (w : WaiterRef)
  | waitforSweep
  | wfinj (c : Nat) (id : BitVec 16)
  | geodeDescent (k slot : Nat)
  | geodeExpandElement (k slot : Nat)
  | geodeBackupElement (k slot : Nat)
  | geodeVlElement (k slot : Nat)
  | lazyFree (d c t : Nat)
  | hostGrowth (d c t : Nat) (cap : Option Nat)
  | spliceHostResolve (k : Nat) (rewrite : Option (List (BitVec 8)))
  | savePoint (k : Nat)
  | saveComplete (k : Nat)
  | dbgctl (k : Nat) (v : BitVec 64)
  | strandHalt (k : Nat)
  | logRoomResume (k copy slot : Nat)
  | replayDivergence (c k reason : Nat)
  | pwrcap (w : BitVec 16)
  | retmap (d tile : Nat)
  | registerWrite (who : Writer) (csr c d : Nat) (v : BitVec 64)
  | writeAcknowledgement (d j : Nat)
  | linkRetry (d : Nat) (port : Bool) (n : Nat)
  | jasperRegeneration (d tile g : Nat) (present : Bool)
  deriving DecidableEq, Repr

/-- The events as the agenda of a package holds them (log 1): the same rows again, apart from the instructions, which
a node's firing brings about. -/
inductive Event where
  | packageReset
  | contextOpen (c q : Nat) (priv super : Bool) (frames : List (Nat × Nat))
  | contextClose (c : Nat)
  | ldoor (c : Nat) (v : BitVec 32) (w : List (Nat × BitVec 8))
  | launchTake (c : Nat)
  | launchDispatch (c : Nat)
  | windowPreload (k : Nat)
  | launchCompletion (c j : Nat)
  | regionGrant (c : Nat)
  | blockLoad (k : Nat)
  | slotResultOffer (k copy slot : Nat)
  | controlBlockEnd (k : Nat)
  | fabricBlockComplete (k : Nat)
  | blockEdge (k : Nat)
  | strandEnd (k : Nat)
  | jasperEndStrand (k : Nat)
  | fabricReconfigure (k copy slot : Nat)
  | skipTokenPass (k copy slot : Nat)
  | windowReadWaitEnd (k copy slot : Nat)
  | windowFillWaitEnd (k copy slot : Nat)
  | channelFill (k w : Nat)
  | spillRingDrain (k w : Nat)
  | channelEndOfStream (k w : Nat)
  | writeApply (src dst : Nat)
  | readServe (src dst : Nat)
  | readResponse (d j : Nat)
  | progressBeat (src dst : Nat)
  | mwaitWake (k slot : Nat)
  | constantSegmentCopy (d c : Nat)
  | translationWalk (d j : Nat)
  | fltack (c seq st : Nat)
  | streamElementFill (d tile g : Nat)
  | sgrunAbsentPage (d tile g : Nat)
  | sgrunEntryReread (d tile g : Nat)
  | sgrunPostRetry (d tile g : Nat)
  | copyRecordCapture (k ch : Nat)
  | copyRow (k ch : Nat)
  | copyFillResume (k ch : Nat)
  | copyRecordComplete (k ch : Nat)
  | eventQueueResume (k ch : Nat)
  | collectiveStepStart (k ch : Nat)
  | readyNotice (d j : Nat)
  | collectiveDataArrival (d j : Nat)
  | abortNotice (d j : Nat)
  | peerSilent (k ch : Nat)
  | taskWindowReady (d e : Nat)
  | taskTake (k slot : Nat)
  | gangPhaseRelease (k slot : Nat)
  | lockGrant (k slot : Nat)
  | queueWaiterServe (d pa : Nat)
  | waitforRegister (w : WaiterRef)
  | waitforSweep
  | wfinj (c : Nat) (id : BitVec 16)
  | geodeDescent (k slot : Nat)
  | geodeExpandElement (k slot : Nat)
  | geodeBackupElement (k slot : Nat)
  | geodeVlElement (k slot : Nat)
  | lazyFree (d c t : Nat)
  | hostGrowth (d c t : Nat) (cap : Option Nat)
  | spliceHostResolve (k : Nat) (rewrite : Option (List (BitVec 8)))
  | savePoint (k : Nat)
  | saveComplete (k : Nat)
  | dbgctl (k : Nat) (v : BitVec 64)
  | strandHalt (k : Nat)
  | logRoomResume (k copy slot : Nat)
  | replayDivergence (c k reason : Nat)
  | pwrcap (w : BitVec 16)
  | retmap (d tile : Nat)
  | registerWrite (who : Writer) (csr c d : Nat) (v : BitVec 64)
  | writeAcknowledgement (d j : Nat)
  | linkRetry (d : Nat) (port : Bool) (n : Nat)
  | jasperRegeneration (d tile g : Nat) (present : Bool)
  deriving DecidableEq, Repr

end Sys2Proof
end

