-- ==== Sys2Proof/WellFormed.lean ====
section
/-! DEFINITION. WellFormed.lean: which instructions have an encoding (R38, R39, R42, R44 and the entries' limits). -/

namespace Sys2Proof

/-- The float formats of conversions and LIT.F (R166, R42). -/
def Tag.isFloat : Tag → Bool
  | .f32 | .bf16 | .f16 | .f8e4 | .f8e5 => true
  | _ => false

/-- The integer formats (R129). -/
def Tag.isInt : Tag → Bool
  | .i8 | .i16 | .i32 | .i64 => true
  | _ => false

/-- The scalar set of generic accesses (R82). -/
def Tag.isScalarSet (t : Tag) : Bool := t.isInt || t.isFloat

/-- The vector set of generic accesses (R82). -/
def Tag.isVectorSet (t : Tag) : Bool := t == .raw || t.isScalarSet

/-- The sync set of generic accesses (R82). -/
def Tag.isSyncSet (t : Tag) : Bool := t == .i32 || t == .i64

/-- The drain tags of MDRN and MDRK (R176). -/
def Tag.drainOk (t : Tag) : Bool := t.isFloat || t == .i32

/-- New tags that RETAG admits at load (R169). -/
def Tag.retagOk : Tag → Bool
  | .mark | .poison | .idx | .bfx8 | .bfx6 => false
  | _ => true

/-- Element width of a tag in bits; 0 for MARK and POISON (R89). -/
def Tag.width : Tag → Nat
  | .raw => 1024 | .i8 => 8 | .i16 => 16 | .i32 => 32 | .i64 => 64 | .f32 => 32 | .bf16 => 16 | .f16 => 16
  | .f8e4 => 8 | .f8e5 => 8 | .bfx8 => 8 | .bfx6 => 6 | .pred => 1 | .idx => 64 | .mark => 0 | .poison => 0

/-- Tags of LIT.F (R42). -/
def Tag.litOk : Tag → Bool
  | .i8 | .i16 | .i32 | .f32 | .bf16 | .f16 | .f8e4 | .f8e5 => true
  | _ => false

/-- Tag of a number from 0 to 15 (R89). -/
def Tag.ofCode : Nat → Tag
  | 0 => .raw | 1 => .i8 | 2 => .i16 | 3 => .i32 | 4 => .i64 | 5 => .f32 | 6 => .bf16 | 7 => .f16 | 8 => .f8e4
  | 9 => .f8e5 | 10 => .bfx8 | 11 => .bfx6 | 12 => .pred | 13 => .idx | 14 => .mark | _ => .poison

/-- Number of a tag (R89). -/
def Tag.code : Tag → Nat
  | .raw => 0 | .i8 => 1 | .i16 => 2 | .i32 => 3 | .i64 => 4 | .f32 => 5 | .bf16 => 6 | .f16 => 7 | .f8e4 => 8
  | .f8e5 => 9 | .bfx8 => 10 | .bfx6 => 11 | .pred => 12 | .idx => 13 | .mark => 14 | .poison => 15

/-- Targets that NULLW admits (R122). -/
def Tgt.regOrNone : Tgt → Bool
  | .none | .reg _ => true
  | _ => false

/-- A target field that R39 admits whatever the block: register targets name s1 to s31. -/
def Tgt.wf : Tgt → Bool
  | .reg n => n.toNat != 0
  | _ => true

/-- The CSR numbers that some field map assigns (R58, R59, R118, R184, R229, R260, R321, R327, R332, R334, R341,
R347, R349, R352). -/
def csrAssigned (n : Nat) : Bool :=
  (0x140 ≤ n && n ≤ 0x142) || n == 0x148 || n == 0x149 || (0x150 ≤ n && n ≤ 0x156) || (0x160 ≤ n && n ≤ 0x164)
    || n == 0x170 || (0x180 ≤ n && n ≤ 0x187) || (0x190 ≤ n && n ≤ 0x196) || (0x1A0 ≤ n && n ≤ 0x1A9)
    || (0x1B0 ≤ n && n ≤ 0x1B8)

/-- LIT's limits: under `.F` the tag is in the list, bits [9:4] of the word are zero, and so are the literal's bits
above the format's width (R42). -/
def litOk (x : LitK) (v : BitVec 42) : Bool :=
  match x with
  | .f => v.toNat / 2 ^ 36 == 0 && (Tag.ofCode (v.toNat / 2 ^ 32 % 16)).litOk
            && v.toNat % 2 ^ 32 < 2 ^ (Tag.ofCode (v.toNat / 2 ^ 32 % 16)).width
  | _ => true

/-- Tags each LOOPN operation admits (R182). -/
def LoopOp.admits : LoopOp → Tag → Bool
  | .copy, t => t.isScalarSet
  | .mac, t => t == .f32 || t == .bf16 || t == .f16
  | _, t => t == .f32 || t == .bf16 || t == .f16 || t == .i32

/-- How many operands an operation uses (R182). -/
def LoopOp.operands : LoopOp → Nat
  | .copy => 2
  | _ => 3

/-- LOOPN's limits (R44, R182): level count 1 to 5, an admitted tag, zero extents and strides at the levels not used,
zero window index and strides of an operand not used. -/
def LoopN.wf (x : LoopN) : Bool :=
  1 ≤ x.nlev.toNat && x.nlev.toNat ≤ 5 && x.op.admits x.tag
    && (List.range 5).all (fun l => l < x.nlev.toNat || (x.ext.toList.getD l 0).toNat == 0)
    && (List.range 15).all (fun m => (m % 5 < x.nlev.toNat && m / 5 < x.op.operands) || (x.str.toList.getD m 0).toNat == 0)
    && (List.range 3).all (fun k => k < x.op.operands || (x.win.toList.getD k 0).toNat == 0)

/-- Well-formed instructions: those that some words encode. An event is no instruction and has no encoding. -/
def Instr.wf : Instr → Bool
  | .nop => true
  | .exit _ _ => true
  | .exitc _ _ _ => true
  | .exiti _ => true
  | .callb _ _ _ => true
  | .retb _ => true
  | .nullw _ a b => a.wf && b.wf && (a.regOrNone && b.regOrNone)
  | .reads _ _ a => a.wf
  | .writes _ => true
  | .lit _ x v a => a.wf && litOk x v
  | .movt _ a b => a.wf && b.wf
  | .enter _ _ => true
  | .leave _ => true
  | .trapi _ _ _ => true
  | .halts _ => true
  | .brks _ _ _ => true
  | .add _ a b => a.wf && b.wf
  | .sub _ a b => a.wf && b.wf
  | .mul _ a b => a.wf && b.wf
  | .mulh _ _ a b => a.wf && b.wf
  | .addi _ _ a => a.wf
  | .and _ a b => a.wf && b.wf
  | .or _ a b => a.wf && b.wf
  | .xor _ a b => a.wf && b.wf
  | .shl _ a b => a.wf && b.wf
  | .shr _ a b => a.wf && b.wf
  | .sra _ a b => a.wf && b.wf
  | .min _ _ a b => a.wf && b.wf
  | .max _ _ a b => a.wf && b.wf
  | .cmps _ _ a b => a.wf && b.wf
  | .cmpu _ _ a b => a.wf && b.wf
  | .sel _ a b => a.wf && b.wf
  | .divs _ _ a b => a.wf && b.wf
  | .divu _ _ a b => a.wf && b.wf
  | .abs _ a b => a.wf && b.wf
  | .neg _ a b => a.wf && b.wf
  | .clz _ a b => a.wf && b.wf
  | .popc _ a b => a.wf && b.wf
  | .exts _ _ a => a.wf
  | .extz _ _ a => a.wf
  | .addsat _ _ a b => a.wf && b.wf
  | .subsat _ _ a b => a.wf && b.wf
  | .lea _ _ a => a.wf
  | .idx _ a b => a.wf && b.wf
  | .last _ j a => a.wf && (j.toNat < 5)
  | .andn _ a b => a.wf && b.wf
  | .rotl _ a b => a.wf && b.wf
  | .bfx _ _ _ a => a.wf
  | .fadd _ _ a b => a.wf && b.wf
  | .fsub _ _ a b => a.wf && b.wf
  | .fmul _ _ a b => a.wf && b.wf
  | .fma _ _ a b => a.wf && b.wf
  | .fmin _ _ a b => a.wf && b.wf
  | .fmax _ _ a b => a.wf && b.wf
  | .fcmp _ _ a b => a.wf && b.wf
  | .fabs _ a b => a.wf && b.wf
  | .fneg _ a b => a.wf && b.wf
  | .frcp _ _ a b => a.wf && b.wf
  | .fsqrt _ _ a b => a.wf && b.wf
  | .frsq _ _ a b => a.wf && b.wf
  | .fexp2 _ _ a b => a.wf && b.wf
  | .flog2 _ _ a b => a.wf && b.wf
  | .fscale _ _ a b => a.wf && b.wf
  | .fclass _ a b => a.wf && b.wf
  | .cvt _ _ t a => a.wf && (t.isFloat)
  | .cvtr _ m _ t a => a.wf && (m != .rne && t.isFloat)
  | .cvti _ _ _ t a => a.wf && (t.isInt)
  | .cvtf _ _ _ t a => a.wf && (t.isFloat)
  | .packb _ _ _ k a => a.wf && (k.toNat != 0)
  | .unpackb _ _ a => a.wf
  | .retag _ t a => a.wf && (t.retagOk)
  | .tagq _ a => a.wf
  | .sati _ _ _ t a => a.wf && (t.isInt)
  | .rsum _ _ a b => a.wf && b.wf
  | .rmax _ _ a b => a.wf && b.wf
  | .rmin _ _ a b => a.wf && b.wf
  | .rand _ _ a => a.wf
  | .ror _ _ a => a.wf
  | .scana _ _ a b => a.wf && b.wf
  | .shuf _ a b => a.wf && b.wf
  | .bcastl _ _ a => a.wf
  | .slide _ _ a => a.wf
  | .maskl _ a b => a.wf && b.wf
  | .cntl _ a b => a.wf && b.wf
  | .firstl _ a b => a.wf && b.wf
  | .zip _ a b => a.wf && b.wf
  | .unzip _ a b => a.wf && b.wf
  | .segsc _ _ a b => a.wf && b.wf
  | .rtree _ _ a b => a.wf && b.wf
  | .mldb _ a => a.wf
  | .mclm _ n a => a.wf && (n.toNat != 0 && n.toNat <= 32)
  | .mrel _ n a => a.wf && (n.toNat != 0 && n.toNat <= 32)
  | .mrow _ _ _ j _ a => a.wf && (j.toNat < 5)
  | .mrowt _ _ _ j _ a => a.wf && (j.toNat < 5)
  | .macr _ n r a => a.wf && (r.toNat + n.toNat + 1 <= 64)
  | .manc _ n r a => a.wf && (r.toNat + n.toNat + 1 <= 64)
  | .mdrn _ _ t a => a.wf && (t.drainOk)
  | .mdrk _ _ t a => a.wf && (t.drainOk)
  | .mstat _ _ _ a => a.wf
  | .wrd _ _ a => a.wf
  | .wup _ _ a => a.wf
  | .wfl _ _ a => a.wf
  | .wsh _ _ a => a.wf
  | .wrdb _ _ a => a.wf
  | .wflb _ _ a => a.wf
  | .wext _ _ a => a.wf
  | .wfree _ _ a => a.wf
  | .wmark _ _ a => a.wf
  | .weos _ _ a => a.wf
  | .wopen _ _ a => a.wf
  | .wclose _ _ a => a.wf
  | .wsave _ _ a => a.wf
  | .wrest _ _ a => a.wf
  | .wlink _ _ a => a.wf
  | .wspl _ _ _ a => a.wf
  | .ldg _ _ t a => a.wf && (t.isScalarSet)
  | .stg _ _ t a => a.wf && (t.isScalarSet)
  | .ldgv _ _ t a => a.wf && (t.isVectorSet)
  | .stgv _ _ t a => a.wf && (t.isVectorSet)
  | .ldk _ v t a => a.wf && (if v then t.isVectorSet else t.isScalarSet)
  | .pref _ a => a.wf
  | .amog _ _ _ _ t a => a.wf && (t.isSyncSet)
  | .fence _ _ _ a => a.wf
  | .acq _ _ t a => a.wf && (t.isSyncSet)
  | .rel _ _ t a => a.wf && (t.isSyncSet)
  | .ctok _ a b => a.wf && b.wf
  | .mseq _ a b => a.wf && b.wf
  | .placeq _ a => a.wf
  | .mona _ t a => a.wf && (t.isSyncSet)
  | .mwait _ a => a.wf
  | .kset _ x _ e => (x != .oper || e.toNat == 0)
  | .kchain _ n => (n.toNat < 7)
  | .kidx _ _ a b => a.wf && b.wf
  | .klast _ n j a => a.wf && (j.toNat < 5 && n.toNat < 7)
  | .sgen _ _ _ a => a.wf
  | .sgrun _ _ _ a => a.wf
  | .psrc _ _ a => a.wf
  | .psnk _ j _ a => a.wf && (j.toNat < 5)
  | .loopn x => x.wf
  | .bustx _ a b => a.wf && b.wf
  | .busrx _ _ a => a.wf
  | .ctlsnd _ _ => true
  | .ctlrcv _ _ a => a.wf
  | .cqapp _ _ a => a.wf
  | .cqtail _ _ a => a.wf
  | .cqseq _ _ a => a.wf
  | .cqwait _ _ a => a.wf
  | .evpop _ a => a.wf
  | .evpeek _ a => a.wf
  | .cqabrt _ _ a => a.wf
  | .clapp _ _ a => a.wf
  | .cltail _ _ a => a.wf
  | .clseq _ _ a => a.wf
  | .clwait _ _ a => a.wf
  | .clabrt _ _ a => a.wf
  | .gtinit _ _ a => a.wf
  | .gtroot _ _ a => a.wf
  | .gtdesc _ _ _ a => a.wf
  | .gtexp _ _ _ a => a.wf
  | .gtback _ _ _ a => a.wf
  | .gtvl _ _ _ a => a.wf
  | .gtread _ f _ a => a.wf && (f.toNat <= 9)
  | .gtbest _ _ a => a.wf
  | .gtreroot _ _ a => a.wf
  | .gtfree _ _ a => a.wf
  | .gtstat _ i _ a => a.wf && (i.toNat <= 5)
  | .gtparm _ q _ a => a.wf && (q.toNat <= 3)
  | .tspawn _ _ a => a.wf
  | .trange _ _ a => a.wf
  | .tpop _ _ => true
  | .tidle _ => true
  | .tdone _ _ a => a.wf
  | .tdep _ _ a => a.wf
  | .gjoin _ _ a => a.wf
  | .gleave _ _ a => a.wf
  | .gbar _ _ a => a.wf
  | .lkacq _ _ a => a.wf
  | .lkrel _ a => a.wf
  | .qpush _ _ a => a.wf
  | .qpop _ _ a b => a.wf && b.wf
  | .wreg _ k a => a.wf && (k.toNat <= 9)
  | .wdereg _ a => a.wf
  | .prio _ a => a.wf
  | .splins _ _ a => a.wf
  | .splrem _ _ a => a.wf
  | .splbnd _ _ a => a.wf
  | .splack _ c => (c.toNat < 6 || 0x20 <= c.toNat)
  | .stglnk _ _ a => a.wf
  | .stgst _ a => a.wf
  | .stgld _ a => a.wf
  | .splq _ _ a => a.wf
  | .foldset _ _ a => a.wf
  | .ctxsv _ _ a => a.wf
  | .ctxrs _ a => a.wf
  | .tlbinv _ _ a => a.wf
  | .mapset _ l a => a.wf && (l.toNat != 7)
  | .prmt _ s c r a => a.wf && (!s || (c.toNat == 0 && r.toNat == 0))
  | .rgnal _ a => a.wf
  | .rgnfr _ a => a.wf
  | .trapret _ _ _ => true
  | .csrrd _ c a => a.wf && (csrAssigned c.toNat)
  | .csrwr _ c a => a.wf && (csrAssigned c.toNat)
  | .injerr _ _ _ a => a.wf
  | .selft _ a => a.wf
  | .scan _ a => a.wf
  | .elogrd _ _ _ l a => a.wf && (l.toNat < 4)
  | .attest _ a => a.wf
  | .brkr _ _ _ a => a.wf
  | .trcmk _ _ a => a.wf
  | .cycrd _ s a => a.wf && (s.toNat <= 12)
  | .vchk _ v w a => a.wf && (!v || w.toNat == 0)
  | .packageReset => false
  | .contextOpen _ _ _ _ _ => false
  | .contextClose _ => false
  | .ldoor _ _ _ => false
  | .launchTake _ => false
  | .launchDispatch _ => false
  | .windowPreload _ => false
  | .launchCompletion _ _ => false
  | .regionGrant _ => false
  | .blockLoad _ => false
  | .slotResultOffer _ _ _ => false
  | .controlBlockEnd _ => false
  | .fabricBlockComplete _ => false
  | .blockEdge _ => false
  | .strandEnd _ => false
  | .jasperEndStrand _ => false
  | .fabricReconfigure _ _ _ => false
  | .skipTokenPass _ _ _ => false
  | .windowReadWaitEnd _ _ _ => false
  | .windowFillWaitEnd _ _ _ => false
  | .channelFill _ _ => false
  | .spillRingDrain _ _ => false
  | .channelEndOfStream _ _ => false
  | .writeApply _ _ => false
  | .readServe _ _ => false
  | .readResponse _ _ => false
  | .progressBeat _ _ => false
  | .mwaitWake _ _ => false
  | .constantSegmentCopy _ _ => false
  | .translationWalk _ _ => false
  | .fltack _ _ _ => false
  | .streamElementFill _ _ _ => false
  | .sgrunAbsentPage _ _ _ => false
  | .sgrunEntryReread _ _ _ => false
  | .sgrunPostRetry _ _ _ => false
  | .copyRecordCapture _ _ => false
  | .copyRow _ _ => false
  | .copyFillResume _ _ => false
  | .copyRecordComplete _ _ => false
  | .eventQueueResume _ _ => false
  | .collectiveStepStart _ _ => false
  | .readyNotice _ _ => false
  | .collectiveDataArrival _ _ => false
  | .abortNotice _ _ => false
  | .peerSilent _ _ => false
  | .taskWindowReady _ _ => false
  | .taskTake _ _ => false
  | .gangPhaseRelease _ _ => false
  | .lockGrant _ _ => false
  | .queueWaiterServe _ _ => false
  | .waitforRegister _ => false
  | .waitforSweep => false
  | .wfinj _ _ => false
  | .geodeDescent _ _ => false
  | .geodeExpandElement _ _ => false
  | .geodeBackupElement _ _ => false
  | .geodeVlElement _ _ => false
  | .lazyFree _ _ _ => false
  | .hostGrowth _ _ _ _ => false
  | .spliceHostResolve _ _ => false
  | .savePoint _ => false
  | .saveComplete _ => false
  | .dbgctl _ _ => false
  | .strandHalt _ => false
  | .logRoomResume _ _ _ => false
  | .replayDivergence _ _ _ => false
  | .pwrcap _ => false
  | .retmap _ _ => false
  | .registerWrite _ _ _ _ _ => false
  | .writeAcknowledgement _ _ => false
  | .linkRetry _ _ _ => false
  | .jasperRegeneration _ _ _ _ => false

/-- The proposition that an instruction is well formed. -/
abbrev WellFormed (i : Instr) : Prop := i.wf = true

end Sys2Proof
end

