-- ==== Sys2Proof/Decode.lean ====
section
/-! DEFINITION. Decode.lean: from words to instructions and back (R37 to R44, R51, R53). -/

namespace Sys2Proof

/-- Why a word is no instruction, with the bit at which block load finds it (R50: bit 31 downwards). The check codes
of s31[15:8] are `Reject.code`. -/
inductive Reject where
  | reserved (bit : Nat)
  | pmode (bit : Nat)
  | operand (bit : Nat)
  | target (bit : Nat)
  | form (bit : Nat)
  | truncated
  deriving DecidableEq, Repr

/-- Check codes of R50. -/
def Reject.code : Reject → Nat
  | .reserved _ => 0x05
  | .pmode _ => 0x06
  | .operand _ => 0x07
  | .target _ => 0x08
  | .form _ => 0x0C
  | .truncated => 0x0C

/-- The bit at which the failure stands. -/
def Reject.bit : Reject → Nat
  | .reserved b => b
  | .pmode b => b
  | .operand b => b
  | .target b => b
  | .form b => b
  | .truncated => 0

/-- The answer of decoding one word. -/
abbrev Dec := Except Reject Instr

/-- The five fields of an instruction word (R37). -/
structure Fields where
  op : Nat
  p : Nat
  x : Nat
  a : Nat
  b : Nat
  deriving DecidableEq, Repr

/-- R37: opcode [31:24], pmode [23:22], xop [21:20], target A [19:10], target B or field [9:0]. -/
def Fields.ofWord (w : Nat) : Fields :=
  ⟨w / 2 ^ 24 % 256, w / 2 ^ 22 % 4, w / 2 ^ 20 % 4, w / 2 ^ 10 % 1024, w % 1024⟩

/-- The word of five fields (R37). -/
def Fields.toWord (f : Fields) : Nat :=
  f.op * 2 ^ 24 + f.p * 2 ^ 22 + f.x * 2 ^ 20 + f.a * 2 ^ 10 + f.b

/-- R37: pmode 11 is rejected. -/
def PMode.ofNat? : Nat → Option PMode
  | 0 => some .always
  | 1 => some .onTrue
  | 2 => some .onFalse
  | _ => none

/-- The rounding mode of an xop (R98). -/
def RMode.ofNat? : Nat → Option RMode
  | 0 => some .rne
  | 1 => some .rz
  | 2 => some .rd
  | 3 => some .ru
  | _ => none

/-- R129. -/
def MulhK.ofNat? : Nat → Option MulhK
  | 0 => some .ss
  | 1 => some .uu
  | 2 => some .su
  | _ => none

/-- R129. -/
def CmpC.ofNat? : Nat → Option CmpC
  | 0 => some .eq
  | 1 => some .ne
  | 2 => some .lt
  | 3 => some .le
  | _ => none

/-- R163. -/
def FCmpC.ofNat? : Nat → Option FCmpC
  | 0 => some .eq
  | 1 => some .lt
  | 2 => some .le
  | 3 => some .un
  | _ => none

/-- R167. -/
def SatK.ofNat? : Nat → Option SatK
  | 0 => some .ss
  | 1 => some .su
  | 2 => some .uu
  | _ => none

/-- R170. -/
def ScanOp.ofNat? : Nat → Option ScanOp
  | 0 => some .add
  | 1 => some .max
  | 2 => some .min
  | _ => none

/-- R176. -/
def DrainK.ofNat? : Nat → Option DrainK
  | 0 => some .none
  | 1 => some .db
  | 2 => some .df
  | _ => Option.none

/-- R84. -/
def AmoOp.ofNat? : Nat → Option AmoOp
  | 0 => some .add
  | 1 => some .swap
  | 2 => some .cas
  | 3 => some .max
  | _ => none

/-- R82. -/
def AmoOrd.ofNat? : Nat → Option AmoOrd
  | 0 => some .relaxed
  | 1 => some .acquire
  | 2 => some .release
  | 3 => some .both
  | _ => none

/-- R65: scope 5, 6 and 7 are rejected. -/
def Scope.ofNat? : Nat → Option Scope
  | 0 => some .tile
  | 1 => some .region
  | 2 => some .die
  | 3 => some .package
  | 4 => some .domain
  | _ => none

/-- R85. -/
def FenceK.ofNat? : Nat → Option FenceK
  | 0 => some .full
  | 1 => some .acq
  | 2 => some .rel
  | _ => none

/-- R138. -/
def KsetK.ofNat? : Nat → Option KsetK
  | 0 => some .plus
  | 1 => some .minus
  | 2 => some .zero
  | 3 => some .oper
  | _ => none

/-- R261. -/
def TdepK.ofNat? : Nat → Option TdepK
  | 0 => some .e
  | 1 => some .go
  | 2 => some .w
  | 3 => some .q
  | _ => none

/-- R321. -/
def CtxsvK.ofNat? : Nat → Option CtxsvK
  | 0 => some .keep
  | 1 => some .free
  | 2 => some .die
  | _ => none

/-- R321. -/
def TlbK.ofNat? : Nat → Option TlbK
  | 0 => some .page
  | 1 => some .ctx
  | 2 => some .all
  | _ => none

/-- R338. -/
def BrkrK.ofNat? : Nat → Option BrkrK
  | 0 => some .addr
  | 1 => some .rsid
  | 2 => some .off
  | _ => none

/-- R42. -/
def LitK.ofNat? : Nat → Option LitK
  | 0 => some .s
  | 1 => some .z
  | 2 => some .h
  | 3 => some .f
  | _ => none

/-- R182: codes 0x01 to 0x06; every other code is rejected (R44). -/
def LoopOp.ofNat? : Nat → Option LoopOp
  | 1 => some .copy
  | 2 => some .add
  | 3 => some .mul
  | 4 => some .mac
  | 5 => some .max
  | 6 => some .min
  | _ => none

/-- R39: kind in [9:7], index in [6:0]; kind none needs index 0, a register target s1 to s31. -/
def Tgt.ofNat? (n : Nat) : Option Tgt :=
  match n / 128 with
  | 0 => if n % 128 = 0 then some .none else Option.none
  | 1 => some (.left (BitVec.ofNat 7 (n % 128)))
  | 2 => some (.right (BitVec.ofNat 7 (n % 128)))
  | 3 => some (.pred (BitVec.ofNat 7 (n % 128)))
  | 4 => some (.third (BitVec.ofNat 7 (n % 128)))
  | 5 => if n % 128 = 0 then Option.none else if n % 128 < 32 then some (.reg (BitVec.ofNat 5 (n % 128))) else Option.none
  | 6 => some (.port (BitVec.ofNat 7 (n % 128)))
  | 7 => some (.bus (BitVec.ofNat 7 (n % 128)))
  | _ => Option.none

/-- Goes on where the check `c` holds. -/
def need {α : Type} (c : Bool) (r : Reject) (k : Except Reject α) : Except Reject α := if c then k else .error r

/-- Goes on with a value, where there is one. -/
def some? {α β : Type} (o : Option α) (r : Reject) (k : α → Except Reject β) : Except Reject β :=
  match o with
  | some v => k v
  | none => .error r

/-- The predicate mode. -/
def pm (f : Fields) (k : PMode → Dec) : Dec := some? (PMode.ofNat? f.p) (.pmode 23) k
/-- An xop that must be 00. -/
def x0 (f : Fields) (k : Dec) : Dec := need (f.x == 0) (.operand 21) k
/-- An xop of one bit; 10 and 11 are reserved. -/
def xb (f : Fields) (k : Bool → Dec) : Dec := need (f.x < 2) (.operand 21) (k (f.x == 1))
/-- An xop that is a number. -/
def xv (f : Fields) (k : BitVec 2 → Dec) : Dec := k (BitVec.ofNat 2 f.x)
/-- An xop with named values. -/
def xe {α : Type} (f : Fields) (o : Nat → Option α) (k : α → Dec) : Dec := some? (o f.x) (.operand 21) k
/-- Target A. -/
def ta (f : Fields) (k : Tgt → Dec) : Dec := some? (Tgt.ofNat? f.a) (.target 19) k
/-- No target A. R50's table has two codes a nonzero field may be taken for, 0x07 (must-be-zero bits) and 0x08 (a target
rejected); the model reports 0x08 (log 33). -/
def a0 (f : Fields) (k : Dec) : Dec := need (f.a == 0) (.target 19) k
/-- Target B. -/
def tb (f : Fields) (k : Tgt → Dec) : Dec := some? (Tgt.ofNat? f.b) (.target 9) k
/-- Must-be-zero bits hi to lo of the field. -/
def fz (f : Fields) (hi lo : Nat) (k : Dec) : Dec := need (f.b / 2 ^ lo % 2 ^ (hi + 1 - lo) == 0) (.operand hi) k
/-- A field of n bits from bit lo. -/
def fv (f : Fields) (n lo : Nat) (k : BitVec n → Dec) : Dec := k (BitVec.ofNat n (f.b / 2 ^ lo))
/-- A field of one bit. -/
def fb (f : Fields) (lo : Nat) (k : Bool → Dec) : Dec := k (f.b / 2 ^ lo % 2 == 1)
/-- A tag in [3:0]. -/
def ft (f : Fields) (k : Tag → Dec) : Dec := k (Tag.ofCode (f.b % 16))
/-- A field of n bits with named values. -/
def fe {α : Type} (f : Fields) (n lo : Nat) (o : Nat → Option α) (k : α → Dec) : Dec :=
  some? (o (f.b / 2 ^ lo % 2 ^ n)) (.operand (lo + n - 1)) k

/-- Group 0x0, control instructions of one word (R51). A NOP that is not all zeros is rejected at its highest bit set; the
model gives its pmode bits code 0x06 (log 33). -/
def decodeGroup0 (fs : Fields) : Dec :=
  match fs.op % 16 with
  | 0x0 => need (fs.p == 0) (.pmode 23) <| x0 fs <| a0 fs <| fz fs 9 0 <| .ok .nop
  | 0x1 => pm fs fun p => x0 fs <| a0 fs <| fz fs 9 4 <| fv fs 4 0 fun n => .ok (.exit p n)
  | 0x2 => pm fs fun p => x0 fs <| a0 fs <| fz fs 9 8 <| fv fs 4 4 fun f => fv fs 4 0 fun t => .ok (.exitc p f t)
  | 0x3 => pm fs fun p => x0 fs <| a0 fs <| fz fs 9 0 <| .ok (.exiti p)
  | 0x4 => pm fs fun p => x0 fs <| a0 fs <| fz fs 9 8 <| fv fs 4 4 fun r => fv fs 4 0 fun c => .ok (.callb p r c)
  | 0x5 => pm fs fun p => x0 fs <| a0 fs <| fz fs 9 0 <| .ok (.retb p)
  | 0x6 => pm fs fun p => x0 fs <| ta fs fun a => tb fs fun b => need (a.regOrNone) (.target 19) <| need (b.regOrNone) (.target 9) <| .ok (.nullw p a b)
  | 0x7 => pm fs fun p => x0 fs <| ta fs fun a => fz fs 9 5 <| fv fs 5 0 fun n => .ok (.reads p n a)
  | 0x8 => pm fs fun p => x0 fs <| a0 fs <| fz fs 9 0 <| .ok (.writes p)
  | 0xA => pm fs fun p => x0 fs <| ta fs fun a => tb fs fun b => .ok (.movt p a b)
  | 0xB => pm fs fun p => x0 fs <| a0 fs <| fz fs 9 8 <| fv fs 8 0 fun i => .ok (.enter p i)
  | 0xC => pm fs fun p => x0 fs <| a0 fs <| fz fs 9 0 <| .ok (.leave p)
  | 0xD => pm fs fun p => x0 fs <| a0 fs <| fv fs 6 4 fun c => fv fs 4 0 fun n => .ok (.trapi p c n)
  | 0xE => pm fs fun p => x0 fs <| a0 fs <| fz fs 9 0 <| .ok (.halts p)
  | 0xF => pm fs fun p => x0 fs <| a0 fs <| fv fs 6 4 fun i => fv fs 4 0 fun n => .ok (.brks p i n)
  | _ => .error (.reserved 31)

/-- Group 0x1, integer instructions of one word (R51). -/
def decodeGroup1 (fs : Fields) : Dec :=
  match fs.op % 16 with
  | 0x0 => pm fs fun p => x0 fs <| ta fs fun a => tb fs fun b => .ok (.add p a b)
  | 0x1 => pm fs fun p => x0 fs <| ta fs fun a => tb fs fun b => .ok (.sub p a b)
  | 0x2 => pm fs fun p => x0 fs <| ta fs fun a => tb fs fun b => .ok (.mul p a b)
  | 0x3 => pm fs fun p => xe fs MulhK.ofNat? fun x => ta fs fun a => tb fs fun b => .ok (.mulh p x a b)
  | 0x4 => pm fs fun p => x0 fs <| ta fs fun a => fv fs 10 0 fun i => .ok (.addi p i a)
  | 0x5 => pm fs fun p => x0 fs <| ta fs fun a => tb fs fun b => .ok (.and p a b)
  | 0x6 => pm fs fun p => x0 fs <| ta fs fun a => tb fs fun b => .ok (.or p a b)
  | 0x7 => pm fs fun p => x0 fs <| ta fs fun a => tb fs fun b => .ok (.xor p a b)
  | 0x8 => pm fs fun p => x0 fs <| ta fs fun a => tb fs fun b => .ok (.shl p a b)
  | 0x9 => pm fs fun p => x0 fs <| ta fs fun a => tb fs fun b => .ok (.shr p a b)
  | 0xA => pm fs fun p => x0 fs <| ta fs fun a => tb fs fun b => .ok (.sra p a b)
  | 0xB => pm fs fun p => xb fs fun u => ta fs fun a => tb fs fun b => .ok (.min p u a b)
  | 0xC => pm fs fun p => xb fs fun u => ta fs fun a => tb fs fun b => .ok (.max p u a b)
  | 0xD => pm fs fun p => xe fs CmpC.ofNat? fun c => ta fs fun a => tb fs fun b => .ok (.cmps p c a b)
  | 0xE => pm fs fun p => xe fs CmpC.ofNat? fun c => ta fs fun a => tb fs fun b => .ok (.cmpu p c a b)
  | 0xF => pm fs fun p => x0 fs <| ta fs fun a => tb fs fun b => .ok (.sel p a b)
  | _ => .error (.reserved 31)

/-- Group 0x2, integer, second instructions of one word (R51). -/
def decodeGroup2 (fs : Fields) : Dec :=
  match fs.op % 16 with
  | 0x0 => pm fs fun p => xb fs fun r => ta fs fun a => tb fs fun b => .ok (.divs p r a b)
  | 0x1 => pm fs fun p => xb fs fun r => ta fs fun a => tb fs fun b => .ok (.divu p r a b)
  | 0x2 => pm fs fun p => x0 fs <| ta fs fun a => tb fs fun b => .ok (.abs p a b)
  | 0x3 => pm fs fun p => x0 fs <| ta fs fun a => tb fs fun b => .ok (.neg p a b)
  | 0x4 => pm fs fun p => x0 fs <| ta fs fun a => tb fs fun b => .ok (.clz p a b)
  | 0x5 => pm fs fun p => x0 fs <| ta fs fun a => tb fs fun b => .ok (.popc p a b)
  | 0x6 => pm fs fun p => x0 fs <| ta fs fun a => fz fs 9 6 <| fv fs 6 0 fun n => .ok (.exts p n a)
  | 0x7 => pm fs fun p => x0 fs <| ta fs fun a => fz fs 9 6 <| fv fs 6 0 fun n => .ok (.extz p n a)
  | 0x8 => pm fs fun p => xb fs fun u => ta fs fun a => tb fs fun b => .ok (.addsat p u a b)
  | 0x9 => pm fs fun p => xb fs fun u => ta fs fun a => tb fs fun b => .ok (.subsat p u a b)
  | 0xA => pm fs fun p => x0 fs <| ta fs fun a => fz fs 9 3 <| fv fs 3 0 fun k => .ok (.lea p k a)
  | 0xB => pm fs fun p => x0 fs <| ta fs fun a => tb fs fun b => .ok (.idx p a b)
  | 0xC => pm fs fun p => x0 fs <| ta fs fun a => fz fs 9 3 <| fv fs 3 0 fun j => need (j.toNat < 5) (.operand 9) <| .ok (.last p j a)
  | 0xD => pm fs fun p => x0 fs <| ta fs fun a => tb fs fun b => .ok (.andn p a b)
  | 0xE => pm fs fun p => x0 fs <| ta fs fun a => tb fs fun b => .ok (.rotl p a b)
  | 0xF => pm fs fun p => xb fs fun s => ta fs fun a => fz fs 9 6 <| fv fs 6 0 fun n => .ok (.bfx p s n a)
  | _ => .error (.reserved 31)

/-- Group 0x3, float instructions of one word (R51). -/
def decodeGroup3 (fs : Fields) : Dec :=
  match fs.op % 16 with
  | 0x0 => pm fs fun p => xe fs RMode.ofNat? fun r => ta fs fun a => tb fs fun b => .ok (.fadd p r a b)
  | 0x1 => pm fs fun p => xe fs RMode.ofNat? fun r => ta fs fun a => tb fs fun b => .ok (.fsub p r a b)
  | 0x2 => pm fs fun p => xe fs RMode.ofNat? fun r => ta fs fun a => tb fs fun b => .ok (.fmul p r a b)
  | 0x3 => pm fs fun p => xe fs RMode.ofNat? fun r => ta fs fun a => tb fs fun b => .ok (.fma p r a b)
  | 0x4 => pm fs fun p => xb fs fun n => ta fs fun a => tb fs fun b => .ok (.fmin p n a b)
  | 0x5 => pm fs fun p => xb fs fun n => ta fs fun a => tb fs fun b => .ok (.fmax p n a b)
  | 0x6 => pm fs fun p => xe fs FCmpC.ofNat? fun c => ta fs fun a => tb fs fun b => .ok (.fcmp p c a b)
  | 0x7 => pm fs fun p => x0 fs <| ta fs fun a => tb fs fun b => .ok (.fabs p a b)
  | 0x8 => pm fs fun p => x0 fs <| ta fs fun a => tb fs fun b => .ok (.fneg p a b)
  | 0x9 => pm fs fun p => xe fs RMode.ofNat? fun r => ta fs fun a => tb fs fun b => .ok (.frcp p r a b)
  | 0xA => pm fs fun p => xe fs RMode.ofNat? fun r => ta fs fun a => tb fs fun b => .ok (.fsqrt p r a b)
  | 0xB => pm fs fun p => xe fs RMode.ofNat? fun r => ta fs fun a => tb fs fun b => .ok (.frsq p r a b)
  | 0xC => pm fs fun p => xe fs RMode.ofNat? fun r => ta fs fun a => tb fs fun b => .ok (.fexp2 p r a b)
  | 0xD => pm fs fun p => xe fs RMode.ofNat? fun r => ta fs fun a => tb fs fun b => .ok (.flog2 p r a b)
  | 0xE => pm fs fun p => xe fs RMode.ofNat? fun r => ta fs fun a => tb fs fun b => .ok (.fscale p r a b)
  | 0xF => pm fs fun p => x0 fs <| ta fs fun a => tb fs fun b => .ok (.fclass p a b)
  | _ => .error (.reserved 31)

/-- Group 0x4, convert instructions of one word (R51). -/
def decodeGroup4 (fs : Fields) : Dec :=
  match fs.op % 16 with
  | 0x0 => pm fs fun p => x0 fs <| ta fs fun a => fz fs 9 6 <| fv fs 2 4 fun y => ft fs fun t => need (t.isFloat) (.operand 9) <| .ok (.cvt p y t a)
  | 0x1 => pm fs fun p => xe fs RMode.ofNat? fun m => need (m != .rne) (.operand 21) <| ta fs fun a => fz fs 9 6 <| fv fs 2 4 fun y => ft fs fun t => need (t.isFloat) (.operand 9) <| .ok (.cvtr p m y t a)
  | 0x2 => pm fs fun p => xe fs RMode.ofNat? fun m => ta fs fun a => fz fs 9 6 <| fv fs 2 4 fun y => ft fs fun t => need (t.isInt) (.operand 9) <| .ok (.cvti p m y t a)
  | 0x3 => pm fs fun p => xe fs RMode.ofNat? fun m => ta fs fun a => fz fs 9 6 <| fv fs 2 4 fun y => ft fs fun t => need (t.isFloat) (.operand 9) <| .ok (.cvtf p m y t a)
  | 0x4 => pm fs fun p => xb fs fun f => ta fs fun a => fz fs 9 6 <| fv fs 2 4 fun j => fv fs 4 0 fun k => need (k.toNat != 0) (.operand 9) <| .ok (.packb p f j k a)
  | 0x5 => pm fs fun p => x0 fs <| ta fs fun a => fz fs 9 6 <| fz fs 3 0 <| fv fs 2 4 fun j => .ok (.unpackb p j a)
  | 0x6 => pm fs fun p => x0 fs <| ta fs fun a => fz fs 9 4 <| ft fs fun t => need (t.retagOk) (.operand 9) <| .ok (.retag p t a)
  | 0x7 => pm fs fun p => x0 fs <| ta fs fun a => fz fs 9 0 <| .ok (.tagq p a)
  | 0x8 => pm fs fun p => xe fs SatK.ofNat? fun s => ta fs fun a => fz fs 9 6 <| fv fs 2 4 fun y => ft fs fun t => need (t.isInt) (.operand 9) <| .ok (.sati p s y t a)
  | _ => .error (.reserved 31)

/-- Group 0x5, lane instructions of one word (R51). -/
def decodeGroup5 (fs : Fields) : Dec :=
  match fs.op % 16 with
  | 0x0 => pm fs fun p => xb fs fun s => ta fs fun a => tb fs fun b => .ok (.rsum p s a b)
  | 0x1 => pm fs fun p => xb fs fun n => ta fs fun a => tb fs fun b => .ok (.rmax p n a b)
  | 0x2 => pm fs fun p => xb fs fun n => ta fs fun a => tb fs fun b => .ok (.rmin p n a b)
  | 0x3 => pm fs fun p => x0 fs <| ta fs fun a => fz fs 9 7 <| fv fs 7 0 fun n => .ok (.rand p n a)
  | 0x4 => pm fs fun p => x0 fs <| ta fs fun a => fz fs 9 7 <| fv fs 7 0 fun n => .ok (.ror p n a)
  | 0x5 => pm fs fun p => xe fs ScanOp.ofNat? fun x => ta fs fun a => tb fs fun b => .ok (.scana p x a b)
  | 0x6 => pm fs fun p => x0 fs <| ta fs fun a => tb fs fun b => .ok (.shuf p a b)
  | 0x7 => pm fs fun p => x0 fs <| ta fs fun a => fz fs 9 7 <| fv fs 7 0 fun j => .ok (.bcastl p j a)
  | 0x8 => pm fs fun p => x0 fs <| ta fs fun a => fz fs 9 8 <| fv fs 8 0 fun d => .ok (.slide p d a)
  | 0x9 => pm fs fun p => x0 fs <| ta fs fun a => tb fs fun b => .ok (.maskl p a b)
  | 0xA => pm fs fun p => x0 fs <| ta fs fun a => tb fs fun b => .ok (.cntl p a b)
  | 0xB => pm fs fun p => x0 fs <| ta fs fun a => tb fs fun b => .ok (.firstl p a b)
  | 0xC => pm fs fun p => x0 fs <| ta fs fun a => tb fs fun b => .ok (.zip p a b)
  | 0xD => pm fs fun p => x0 fs <| ta fs fun a => tb fs fun b => .ok (.unzip p a b)
  | 0xE => pm fs fun p => xe fs ScanOp.ofNat? fun x => ta fs fun a => tb fs fun b => .ok (.segsc p x a b)
  | 0xF => pm fs fun p => xe fs ScanOp.ofNat? fun x => ta fs fun a => tb fs fun b => .ok (.rtree p x a b)
  | _ => .error (.reserved 31)

/-- Group 0x6, matrix instructions of one word (R51). -/
def decodeGroup6 (fs : Fields) : Dec :=
  match fs.op % 16 with
  | 0x0 => pm fs fun p => x0 fs <| ta fs fun a => fz fs 9 0 <| .ok (.mldb p a)
  | 0x1 => pm fs fun p => x0 fs <| ta fs fun a => fz fs 9 6 <| fv fs 6 0 fun n => need (n.toNat != 0 && n.toNat <= 32) (.operand 9) <| .ok (.mclm p n a)
  | 0x2 => pm fs fun p => x0 fs <| ta fs fun a => fz fs 9 6 <| fv fs 6 0 fun n => need (n.toNat != 0 && n.toNat <= 32) (.operand 9) <| .ok (.mrel p n a)
  | 0x3 => pm fs fun p => xe fs DrainK.ofNat? fun x => ta fs fun a => fz fs 9 9 <| fb fs 8 fun g => fv fs 3 5 fun j => fv fs 5 0 fun o => need (j.toNat < 5) (.operand 9) <| .ok (.mrow p x g j o a)
  | 0x4 => pm fs fun p => xe fs DrainK.ofNat? fun x => ta fs fun a => fz fs 9 9 <| fb fs 8 fun g => fv fs 3 5 fun j => fv fs 5 0 fun o => need (j.toNat < 5) (.operand 9) <| .ok (.mrowt p x g j o a)
  | 0x5 => pm fs fun p => x0 fs <| ta fs fun a => fv fs 4 6 fun n => fv fs 6 0 fun r => need (r.toNat + n.toNat + 1 <= 64) (.operand 9) <| .ok (.macr p n r a)
  | 0x6 => pm fs fun p => x0 fs <| ta fs fun a => fv fs 4 6 fun n => fv fs 6 0 fun r => need (r.toNat + n.toNat + 1 <= 64) (.operand 9) <| .ok (.manc p n r a)
  | 0x7 => pm fs fun p => x0 fs <| ta fs fun a => fz fs 9 6 <| fv fs 2 4 fun y => ft fs fun t => need (t.drainOk) (.operand 9) <| .ok (.mdrn p y t a)
  | 0x8 => pm fs fun p => x0 fs <| ta fs fun a => fz fs 9 6 <| fv fs 2 4 fun y => ft fs fun t => need (t.drainOk) (.operand 9) <| .ok (.mdrk p y t a)
  | 0x9 => pm fs fun p => x0 fs <| ta fs fun a => fz fs 9 9 <| fv fs 3 6 fun g => fv fs 6 0 fun r => .ok (.mstat p g r a)
  | _ => .error (.reserved 31)

/-- Group 0x7, window instructions of one word (R51). -/
def decodeGroup7 (fs : Fields) : Dec :=
  match fs.op % 16 with
  | 0x0 => pm fs fun p => x0 fs <| ta fs fun a => fv fs 10 0 fun w => .ok (.wrd p w a)
  | 0x1 => pm fs fun p => x0 fs <| ta fs fun a => fv fs 10 0 fun w => .ok (.wup p w a)
  | 0x2 => pm fs fun p => x0 fs <| ta fs fun a => fv fs 10 0 fun w => .ok (.wfl p w a)
  | 0x3 => pm fs fun p => x0 fs <| ta fs fun a => fv fs 10 0 fun w => .ok (.wsh p w a)
  | 0x4 => pm fs fun p => x0 fs <| ta fs fun a => fv fs 10 0 fun w => .ok (.wrdb p w a)
  | 0x5 => pm fs fun p => x0 fs <| ta fs fun a => fv fs 10 0 fun w => .ok (.wflb p w a)
  | 0x6 => pm fs fun p => x0 fs <| ta fs fun a => fv fs 10 0 fun w => .ok (.wext p w a)
  | 0x7 => pm fs fun p => x0 fs <| ta fs fun a => fv fs 10 0 fun w => .ok (.wfree p w a)
  | 0x8 => pm fs fun p => x0 fs <| ta fs fun a => fv fs 10 0 fun w => .ok (.wmark p w a)
  | 0x9 => pm fs fun p => x0 fs <| ta fs fun a => fv fs 10 0 fun w => .ok (.weos p w a)
  | 0xA => pm fs fun p => x0 fs <| ta fs fun a => fv fs 10 0 fun w => .ok (.wopen p w a)
  | 0xB => pm fs fun p => x0 fs <| ta fs fun a => fv fs 10 0 fun w => .ok (.wclose p w a)
  | 0xC => pm fs fun p => x0 fs <| ta fs fun a => fv fs 10 0 fun w => .ok (.wsave p w a)
  | 0xD => pm fs fun p => x0 fs <| ta fs fun a => fv fs 10 0 fun w => .ok (.wrest p w a)
  | 0xE => pm fs fun p => x0 fs <| ta fs fun a => fv fs 10 0 fun w => .ok (.wlink p w a)
  | 0xF => pm fs fun p => xb fs fun o => ta fs fun a => fv fs 10 0 fun w => .ok (.wspl p o w a)
  | _ => .error (.reserved 31)

/-- Group 0x8, memory instructions of one word (R51). -/
def decodeGroup8 (fs : Fields) : Dec :=
  match fs.op % 16 with
  | 0x0 => pm fs fun p => xb fs fun u => ta fs fun a => fz fs 9 4 <| ft fs fun t => need (t.isScalarSet) (.operand 9) <| .ok (.ldg p u t a)
  | 0x1 => pm fs fun p => xb fs fun u => ta fs fun a => fz fs 9 4 <| ft fs fun t => need (t.isScalarSet) (.operand 9) <| .ok (.stg p u t a)
  | 0x2 => pm fs fun p => xb fs fun u => ta fs fun a => fz fs 9 4 <| ft fs fun t => need (t.isVectorSet) (.operand 9) <| .ok (.ldgv p u t a)
  | 0x3 => pm fs fun p => xb fs fun u => ta fs fun a => fz fs 9 4 <| ft fs fun t => need (t.isVectorSet) (.operand 9) <| .ok (.stgv p u t a)
  | 0x4 => pm fs fun p => xb fs fun v => ta fs fun a => fz fs 9 4 <| ft fs fun t => need (if v then t.isVectorSet else t.isScalarSet) (.operand 9) <| .ok (.ldk p v t a)
  | 0x5 => pm fs fun p => x0 fs <| ta fs fun a => fz fs 9 0 <| .ok (.pref p a)
  | 0x6 => pm fs fun p => xe fs AmoOp.ofNat? fun x => ta fs fun a => fz fs 9 9 <| fe fs 2 7 AmoOrd.ofNat? fun d => fe fs 3 4 Scope.ofNat? fun s => ft fs fun t => need (t.isSyncSet) (.operand 9) <| .ok (.amog p x d s t a)
  | 0x7 => pm fs fun p => xe fs FenceK.ofNat? fun x => ta fs fun a => fz fs 9 7 <| fz fs 3 0 <| fe fs 3 4 Scope.ofNat? fun s => .ok (.fence p x s a)
  | 0x8 => pm fs fun p => x0 fs <| ta fs fun a => fz fs 9 7 <| fe fs 3 4 Scope.ofNat? fun s => ft fs fun t => need (t.isSyncSet) (.operand 9) <| .ok (.acq p s t a)
  | 0x9 => pm fs fun p => x0 fs <| ta fs fun a => fz fs 9 7 <| fe fs 3 4 Scope.ofNat? fun s => ft fs fun t => need (t.isSyncSet) (.operand 9) <| .ok (.rel p s t a)
  | 0xA => pm fs fun p => x0 fs <| ta fs fun a => tb fs fun b => .ok (.ctok p a b)
  | 0xB => pm fs fun p => x0 fs <| ta fs fun a => tb fs fun b => .ok (.mseq p a b)
  | 0xC => pm fs fun p => x0 fs <| ta fs fun a => fz fs 9 0 <| .ok (.placeq p a)
  | 0xD => pm fs fun p => x0 fs <| ta fs fun a => fz fs 9 4 <| ft fs fun t => need (t.isSyncSet) (.operand 9) <| .ok (.mona p t a)
  | 0xE => pm fs fun p => x0 fs <| ta fs fun a => fz fs 9 0 <| .ok (.mwait p a)
  | _ => .error (.reserved 31)

/-- Group 0x9, chain, port and stream instructions of one word (R51). -/
def decodeGroup9 (fs : Fields) : Dec :=
  match fs.op % 16 with
  | 0x0 => pm fs fun p => xe fs KsetK.ofNat? fun x => a0 fs <| fb fs 9 fun g => fv fs 9 0 fun e => need (x != .oper || e.toNat == 0) (.operand 9) <| .ok (.kset p x g e)
  | 0x1 => pm fs fun p => x0 fs <| a0 fs <| fz fs 9 3 <| fv fs 3 0 fun n => need (n.toNat < 7) (.operand 9) <| .ok (.kchain p n)
  | 0x2 => pm fs fun p => xv fs fun l => ta fs fun a => tb fs fun b => .ok (.kidx p l a b)
  | 0x3 => pm fs fun p => x0 fs <| ta fs fun a => fz fs 9 6 <| fv fs 3 3 fun n => fv fs 3 0 fun j => need (j.toNat < 5 && n.toNat < 7) (.operand 9) <| .ok (.klast p n j a)
  | 0x4 => pm fs fun p => xv fs fun g => ta fs fun a => fv fs 10 0 fun w => .ok (.sgen p g w a)
  | 0x5 => pm fs fun p => xv fs fun g => ta fs fun a => fv fs 10 0 fun w => .ok (.sgrun p g w a)
  | 0x6 => pm fs fun p => x0 fs <| ta fs fun a => fz fs 9 7 <| fv fs 7 0 fun n => .ok (.psrc p n a)
  | 0x7 => pm fs fun p => x0 fs <| ta fs fun a => fv fs 3 7 fun j => fv fs 7 0 fun n => need (j.toNat < 5) (.operand 9) <| .ok (.psnk p j n a)
  | 0x9 => pm fs fun p => x0 fs <| ta fs fun a => tb fs fun b => .ok (.bustx p a b)
  | 0xA => pm fs fun p => x0 fs <| ta fs fun a => fz fs 9 7 <| fv fs 7 0 fun i => .ok (.busrx p i a)
  | 0xB => pm fs fun p => x0 fs <| a0 fs <| fz fs 9 7 <| fv fs 7 0 fun c => .ok (.ctlsnd p c)
  | 0xC => pm fs fun p => x0 fs <| ta fs fun a => fz fs 9 7 <| fv fs 7 0 fun c => .ok (.ctlrcv p c a)
  | _ => .error (.reserved 31)

/-- Group 0xA, copy and collective engine instructions of one word (R51). -/
def decodeGroupA (fs : Fields) : Dec :=
  match fs.op % 16 with
  | 0x0 => pm fs fun p => x0 fs <| ta fs fun a => fz fs 9 7 <| fv fs 7 0 fun c => .ok (.cqapp p c a)
  | 0x1 => pm fs fun p => x0 fs <| ta fs fun a => fz fs 9 7 <| fv fs 7 0 fun c => .ok (.cqtail p c a)
  | 0x2 => pm fs fun p => x0 fs <| ta fs fun a => fz fs 9 7 <| fv fs 7 0 fun c => .ok (.cqseq p c a)
  | 0x3 => pm fs fun p => x0 fs <| ta fs fun a => fz fs 9 7 <| fv fs 7 0 fun c => .ok (.cqwait p c a)
  | 0x4 => pm fs fun p => x0 fs <| ta fs fun a => fz fs 9 0 <| .ok (.evpop p a)
  | 0x5 => pm fs fun p => x0 fs <| ta fs fun a => fz fs 9 0 <| .ok (.evpeek p a)
  | 0x6 => pm fs fun p => x0 fs <| ta fs fun a => fz fs 9 7 <| fv fs 7 0 fun c => .ok (.cqabrt p c a)
  | 0x7 => pm fs fun p => x0 fs <| ta fs fun a => fz fs 9 4 <| fv fs 4 0 fun c => .ok (.clapp p c a)
  | 0x8 => pm fs fun p => x0 fs <| ta fs fun a => fz fs 9 4 <| fv fs 4 0 fun c => .ok (.cltail p c a)
  | 0x9 => pm fs fun p => x0 fs <| ta fs fun a => fz fs 9 4 <| fv fs 4 0 fun c => .ok (.clseq p c a)
  | 0xA => pm fs fun p => x0 fs <| ta fs fun a => fz fs 9 4 <| fv fs 4 0 fun c => .ok (.clwait p c a)
  | 0xB => pm fs fun p => x0 fs <| ta fs fun a => fz fs 9 4 <| fv fs 4 0 fun c => .ok (.clabrt p c a)
  | _ => .error (.reserved 31)

/-- Group 0xB, Geode instructions of one word (R51). -/
def decodeGroupB (fs : Fields) : Dec :=
  match fs.op % 16 with
  | 0x0 => pm fs fun p => x0 fs <| ta fs fun a => fz fs 9 4 <| fv fs 4 0 fun t => .ok (.gtinit p t a)
  | 0x1 => pm fs fun p => x0 fs <| ta fs fun a => fz fs 9 4 <| fv fs 4 0 fun t => .ok (.gtroot p t a)
  | 0x2 => pm fs fun p => x0 fs <| ta fs fun a => fv fs 6 4 fun w => fv fs 4 0 fun t => .ok (.gtdesc p w t a)
  | 0x3 => pm fs fun p => x0 fs <| ta fs fun a => fv fs 6 4 fun w => fv fs 4 0 fun t => .ok (.gtexp p w t a)
  | 0x4 => pm fs fun p => x0 fs <| ta fs fun a => fv fs 6 4 fun w => fv fs 4 0 fun t => .ok (.gtback p w t a)
  | 0x5 => pm fs fun p => x0 fs <| ta fs fun a => fv fs 6 4 fun w => fv fs 4 0 fun t => .ok (.gtvl p w t a)
  | 0x6 => pm fs fun p => x0 fs <| ta fs fun a => fv fs 6 4 fun f => fv fs 4 0 fun t => need (f.toNat <= 9) (.operand 9) <| .ok (.gtread p f t a)
  | 0x7 => pm fs fun p => x0 fs <| ta fs fun a => fz fs 9 4 <| fv fs 4 0 fun t => .ok (.gtbest p t a)
  | 0x8 => pm fs fun p => x0 fs <| ta fs fun a => fz fs 9 4 <| fv fs 4 0 fun t => .ok (.gtreroot p t a)
  | 0x9 => pm fs fun p => x0 fs <| ta fs fun a => fz fs 9 4 <| fv fs 4 0 fun t => .ok (.gtfree p t a)
  | 0xA => pm fs fun p => x0 fs <| ta fs fun a => fv fs 6 4 fun i => fv fs 4 0 fun t => need (i.toNat <= 5) (.operand 9) <| .ok (.gtstat p i t a)
  | 0xB => pm fs fun p => x0 fs <| ta fs fun a => fv fs 6 4 fun q => fv fs 4 0 fun t => need (q.toNat <= 3) (.operand 9) <| .ok (.gtparm p q t a)
  | _ => .error (.reserved 31)

/-- Group 0xC, task instructions of one word (R51). -/
def decodeGroupC (fs : Fields) : Dec :=
  match fs.op % 16 with
  | 0x0 => pm fs fun p => xb fs fun c => ta fs fun a => fz fs 9 0 <| .ok (.tspawn p c a)
  | 0x1 => pm fs fun p => xb fs fun c => ta fs fun a => fz fs 9 0 <| .ok (.trange p c a)
  | 0x2 => pm fs fun p => x0 fs <| a0 fs <| fz fs 9 4 <| fv fs 4 0 fun n => .ok (.tpop p n)
  | 0x3 => pm fs fun p => x0 fs <| a0 fs <| fz fs 9 0 <| .ok (.tidle p)
  | 0x4 => pm fs fun p => xb fs fun f => ta fs fun a => fz fs 9 0 <| .ok (.tdone p f a)
  | 0x5 => pm fs fun p => xe fs TdepK.ofNat? fun x => ta fs fun a => fz fs 9 0 <| .ok (.tdep p x a)
  | 0x6 => pm fs fun p => x0 fs <| ta fs fun a => fz fs 9 8 <| fv fs 8 0 fun g => .ok (.gjoin p g a)
  | 0x7 => pm fs fun p => x0 fs <| ta fs fun a => fz fs 9 8 <| fv fs 8 0 fun g => .ok (.gleave p g a)
  | 0x8 => pm fs fun p => x0 fs <| ta fs fun a => fz fs 9 8 <| fv fs 8 0 fun g => .ok (.gbar p g a)
  | 0x9 => pm fs fun p => xb fs fun t => ta fs fun a => fz fs 9 0 <| .ok (.lkacq p t a)
  | 0xA => pm fs fun p => x0 fs <| ta fs fun a => fz fs 9 0 <| .ok (.lkrel p a)
  | 0xB => pm fs fun p => xb fs fun t => ta fs fun a => fz fs 9 0 <| .ok (.qpush p t a)
  | 0xC => pm fs fun p => xb fs fun t => ta fs fun a => tb fs fun b => .ok (.qpop p t a b)
  | 0xD => pm fs fun p => x0 fs <| ta fs fun a => fz fs 9 4 <| fv fs 4 0 fun k => need (k.toNat <= 9) (.operand 9) <| .ok (.wreg p k a)
  | 0xE => pm fs fun p => x0 fs <| ta fs fun a => fz fs 9 0 <| .ok (.wdereg p a)
  | 0xF => pm fs fun p => x0 fs <| ta fs fun a => fz fs 9 0 <| .ok (.prio p a)
  | _ => .error (.reserved 31)

/-- Group 0xD, splice instructions of one word (R51). -/
def decodeGroupD (fs : Fields) : Dec :=
  match fs.op % 16 with
  | 0x0 => pm fs fun p => x0 fs <| ta fs fun a => fv fs 10 0 fun w => .ok (.splins p w a)
  | 0x1 => pm fs fun p => x0 fs <| ta fs fun a => fv fs 10 0 fun w => .ok (.splrem p w a)
  | 0x2 => pm fs fun p => x0 fs <| ta fs fun a => fv fs 10 0 fun w => .ok (.splbnd p w a)
  | 0x3 => pm fs fun p => x0 fs <| a0 fs <| fz fs 9 6 <| fv fs 6 0 fun c => need (c.toNat < 6 || 0x20 <= c.toNat) (.operand 9) <| .ok (.splack p c)
  | 0x4 => pm fs fun p => x0 fs <| ta fs fun a => fz fs 9 7 <| fv fs 7 0 fun n => .ok (.stglnk p n a)
  | 0x5 => pm fs fun p => x0 fs <| ta fs fun a => fz fs 9 0 <| .ok (.stgst p a)
  | 0x6 => pm fs fun p => x0 fs <| ta fs fun a => fz fs 9 0 <| .ok (.stgld p a)
  | 0x7 => pm fs fun p => xb fs fun c => ta fs fun a => fz fs 9 0 <| .ok (.splq p c a)
  | 0x8 => pm fs fun p => x0 fs <| ta fs fun a => fz fs 9 3 <| fv fs 3 0 fun e => .ok (.foldset p e a)
  | _ => .error (.reserved 31)

/-- Group 0xE, system and fleet instructions of one word (R51). -/
def decodeGroupE (fs : Fields) : Dec :=
  match fs.op % 16 with
  | 0x0 => pm fs fun p => xe fs CtxsvK.ofNat? fun x => ta fs fun a => fz fs 9 0 <| .ok (.ctxsv p x a)
  | 0x1 => pm fs fun p => x0 fs <| ta fs fun a => fz fs 9 0 <| .ok (.ctxrs p a)
  | 0x2 => pm fs fun p => xe fs TlbK.ofNat? fun x => ta fs fun a => fz fs 9 0 <| .ok (.tlbinv p x a)
  | 0x3 => pm fs fun p => x0 fs <| ta fs fun a => fz fs 9 3 <| fv fs 3 0 fun l => need (l.toNat != 7) (.operand 9) <| .ok (.mapset p l a)
  | 0x4 => pm fs fun p => xb fs fun s => ta fs fun a => fz fs 9 8 <| fv fs 4 4 fun c => fv fs 4 0 fun r => need (!s || (c.toNat == 0 && r.toNat == 0)) (.operand 9) <| .ok (.prmt p s c r a)
  | 0x5 => pm fs fun p => x0 fs <| ta fs fun a => fz fs 9 0 <| .ok (.rgnal p a)
  | 0x6 => pm fs fun p => x0 fs <| ta fs fun a => fz fs 9 0 <| .ok (.rgnfr p a)
  | 0x7 => pm fs fun p => xb fs fun s => a0 fs <| fz fs 9 1 <| fb fs 0 fun r => .ok (.trapret p s r)
  | 0x8 => pm fs fun p => x0 fs <| ta fs fun a => fv fs 10 0 fun c => need (csrAssigned c.toNat) (.operand 9) <| .ok (.csrrd p c a)
  | 0x9 => pm fs fun p => x0 fs <| ta fs fun a => fv fs 10 0 fun c => need (csrAssigned c.toNat) (.operand 9) <| .ok (.csrwr p c a)
  | 0xA => pm fs fun p => xb fs fun u => ta fs fun a => fz fs 9 3 <| fv fs 3 0 fun k => .ok (.injerr p u k a)
  | 0xB => pm fs fun p => x0 fs <| ta fs fun a => fz fs 9 0 <| .ok (.selft p a)
  | 0xC => pm fs fun p => x0 fs <| ta fs fun a => fz fs 9 0 <| .ok (.scan p a)
  | 0xD => pm fs fun p => xb fs fun e => ta fs fun a => fz fs 9 9 <| fv fs 6 3 fun n => fv fs 3 0 fun l => need (l.toNat < 4) (.operand 9) <| .ok (.elogrd p e n l a)
  | 0xE => pm fs fun p => x0 fs <| ta fs fun a => fz fs 9 0 <| .ok (.attest p a)
  | _ => .error (.reserved 31)

/-- Group 0xF, debug instructions of one word (R51). -/
def decodeGroupF (fs : Fields) : Dec :=
  match fs.op % 16 with
  | 0x0 => pm fs fun p => xe fs BrkrK.ofNat? fun x => ta fs fun a => fz fs 9 2 <| fv fs 2 0 fun k => .ok (.brkr p x k a)
  | 0x1 => pm fs fun p => x0 fs <| ta fs fun a => fz fs 9 8 <| fv fs 8 0 fun t => .ok (.trcmk p t a)
  | 0x2 => pm fs fun p => x0 fs <| ta fs fun a => fz fs 9 4 <| fv fs 4 0 fun s => need (s.toNat <= 12) (.operand 9) <| .ok (.cycrd p s a)
  | 0x3 => pm fs fun p => xb fs fun v => ta fs fun a => fv fs 10 0 fun w => need (!v || w.toNat == 0) (.operand 9) <| .ok (.vchk p v w a)
  | _ => .error (.reserved 31)

/-- One word that is neither LIT nor LOOPN. -/
def decodeFields (f : Fields) : Dec :=
  match f.op / 16 with
  | 0x0 => decodeGroup0 f
  | 0x1 => decodeGroup1 f
  | 0x2 => decodeGroup2 f
  | 0x3 => decodeGroup3 f
  | 0x4 => decodeGroup4 f
  | 0x5 => decodeGroup5 f
  | 0x6 => decodeGroup6 f
  | 0x7 => decodeGroup7 f
  | 0x8 => decodeGroup8 f
  | 0x9 => decodeGroup9 f
  | 0xA => decodeGroupA f
  | 0xB => decodeGroupB f
  | 0xC => decodeGroupC f
  | 0xD => decodeGroupD f
  | 0xE => decodeGroupE f
  | 0xF => decodeGroupF f
  | _ => .error (.reserved 31)

/-- LIT: the word w0 and the literal word w1 (R42). -/
def decodeLit (f : Fields) (w1 : Nat) : Dec :=
  pm f fun p => xe f LitK.ofNat? fun x => ta f fun a =>
    need (litOk x (BitVec.ofNat 42 (f.b * 2 ^ 32 + w1))) (.form 9) <|
      .ok (.lit p x (BitVec.ofNat 42 (f.b * 2 ^ 32 + w1)) a)

/-- A LIT whose literal word lies past the block's last slot: what its own word fails at first, else the form (R42, R50). -/
def decodeLitCut {α : Type} (f : Fields) : Except Reject α :=
  match pm f fun p => xe f LitK.ofNat? fun x => ta f fun a => .ok (.lit p x 0 a) with
  | .error r => .error r
  | .ok _ => .error .truncated

/-- LOOPN: the 256-bit value L (R43). -/
def decodeLoopN (l : Nat) : Dec :=
  some? (LoopOp.ofNat? (l / 2 ^ 16 % 256)) (.form 23) fun op =>
    let x : LoopN :=
      { op := op
        tag := Tag.ofCode (l / 2 ^ 12 % 16)
        nlev := BitVec.ofNat 3 (l / 2 ^ 9)
        ext := Vector.ofFn fun i => BitVec.ofNat 16 (l / 2 ^ (32 + 16 * i.val))
        win := Vector.ofFn fun i => BitVec.ofNat 6 (l / 2 ^ (112 + 6 * i.val))
        str := Vector.ofFn fun i =>
          if i.val = 0 then BitVec.ofNat 9 l else BitVec.ofNat 9 (l / 2 ^ (130 + 9 * (i.val - 1))) }
    need x.wf (.form 15) (.ok (.loopn x))

/-- The number that words stand for, the first word lowest. -/
def wordsNat : List (BitVec 32) → Nat
  | [] => 0
  | w :: ws => w.toNat + 2 ^ 32 * wordsNat ws

/-- The instruction that starts a list of words, and the words after it. -/
def decodeWords (ws : List (BitVec 32)) : Except Reject (Instr × List (BitVec 32)) :=
  match ws with
  | [] => .error .truncated
  | w :: rest =>
    let f := Fields.ofWord w.toNat
    if f.op = 0x09 then
      match rest with
      | [] => decodeLitCut f
      | w1 :: rest' => (decodeLit f w1.toNat).map fun i => (i, rest')
    else if f.op = 0x98 then
      if rest.length < 7 then .error .truncated
      else (decodeLoopN (wordsNat (ws.take 8))).map fun i => (i, rest.drop 7)
    else (decodeFields f).map fun i => (i, rest)

/-- Little-endian words of a list of bytes; bytes that fill no word are left out (R3). -/
def wordsOfBytes : List Byte → List (BitVec 32)
  | b0 :: b1 :: b2 :: b3 :: rest =>
    BitVec.ofNat 32 (b0.toNat + 2 ^ 8 * b1.toNat + 2 ^ 16 * b2.toNat + 2 ^ 24 * b3.toNat) :: wordsOfBytes rest
  | _ => []

/-- The n little-endian bytes of a number (R3). -/
def leBytes : Nat → Nat → List Byte
  | 0, _ => []
  | n + 1, v => BitVec.ofNat 8 v :: leBytes n (v / 256)

/-- The number that little-endian bytes stand for (R3). -/
def leNat : List Byte → Nat
  | [] => 0
  | b :: bs => b.toNat + 256 * leNat bs

/-- The instruction at the start of a list of bytes: total on any bytes, refusing by name. -/
def decode (bs : List Byte) : Except Reject Instr := (decodeWords (wordsOfBytes bs)).map (·.1)

/-- The instruction at slot n of a block's words; a continuation slot reads as data there. -/
def decodeSlot (ws : List (BitVec 32)) (n : Nat) : Except Reject Instr := (decodeWords (ws.drop n)).map (·.1)

/-- How many slots the word at a slot occupies (R25). -/
def slotLen (w : BitVec 32) : Nat :=
  if w.toNat / 2 ^ 24 = 0x09 then 2 else if w.toNat / 2 ^ 24 = 0x98 then 8 else 1

/-- What the decoder gives for an instruction whose bits are w, numbered from the first word's bit 0; bits above
nbits are 0, up to the eight words of LOOPN. -/
def decodeTableWord (nbits w : Nat) : Option Instr :=
  match decode (leBytes 32 (w % 2 ^ nbits)) with
  | .ok i => some i
  | .error _ => none

/-- Code of a predicate mode (R37). -/
def PMode.toNat : PMode → Nat
  | .always => 0 | .onTrue => 1 | .onFalse => 2
/-- Code of a rounding mode (R98). -/
def RMode.toNat : RMode → Nat
  | .rne => 0 | .rz => 1 | .rd => 2 | .ru => 3
/-- R129. -/
def MulhK.toNat : MulhK → Nat
  | .ss => 0 | .uu => 1 | .su => 2
/-- R129. -/
def CmpC.toNat : CmpC → Nat
  | .eq => 0 | .ne => 1 | .lt => 2 | .le => 3
/-- R163. -/
def FCmpC.toNat : FCmpC → Nat
  | .eq => 0 | .lt => 1 | .le => 2 | .un => 3
/-- R167. -/
def SatK.toNat : SatK → Nat
  | .ss => 0 | .su => 1 | .uu => 2
/-- R170. -/
def ScanOp.toNat : ScanOp → Nat
  | .add => 0 | .max => 1 | .min => 2
/-- R176. -/
def DrainK.toNat : DrainK → Nat
  | .none => 0 | .db => 1 | .df => 2
/-- R84. -/
def AmoOp.toNat : AmoOp → Nat
  | .add => 0 | .swap => 1 | .cas => 2 | .max => 3
/-- R82. -/
def AmoOrd.toNat : AmoOrd → Nat
  | .relaxed => 0 | .acquire => 1 | .release => 2 | .both => 3
/-- R65. -/
def Scope.toNat : Scope → Nat
  | .tile => 0 | .region => 1 | .die => 2 | .package => 3 | .domain => 4
/-- R85. -/
def FenceK.toNat : FenceK → Nat
  | .full => 0 | .acq => 1 | .rel => 2
/-- R138. -/
def KsetK.toNat : KsetK → Nat
  | .plus => 0 | .minus => 1 | .zero => 2 | .oper => 3
/-- R261. -/
def TdepK.toNat : TdepK → Nat
  | .e => 0 | .go => 1 | .w => 2 | .q => 3
/-- R321. -/
def CtxsvK.toNat : CtxsvK → Nat
  | .keep => 0 | .free => 1 | .die => 2
/-- R321. -/
def TlbK.toNat : TlbK → Nat
  | .page => 0 | .ctx => 1 | .all => 2
/-- R338. -/
def BrkrK.toNat : BrkrK → Nat
  | .addr => 0 | .rsid => 1 | .off => 2
/-- R42. -/
def LitK.toNat : LitK → Nat
  | .s => 0 | .z => 1 | .h => 2 | .f => 3
/-- R182. -/
def LoopOp.toNat : LoopOp → Nat
  | .copy => 1 | .add => 2 | .mul => 3 | .mac => 4 | .max => 5 | .min => 6
/-- R39. -/
def Tgt.toNat : Tgt → Nat
  | .none => 0
  | .left n => 128 + n.toNat
  | .right n => 256 + n.toNat
  | .pred n => 384 + n.toNat
  | .third n => 512 + n.toNat
  | .reg n => 640 + n.toNat
  | .port n => 768 + n.toNat
  | .bus n => 896 + n.toNat

/-- The fields of an instruction of one word, the encoder's half of the tables of R51 and the entries. -/
def Instr.fields : Instr → Fields
  | .nop => ⟨0, 0, 0, 0, 0⟩
  | .exit p n => ⟨0x01, p.toNat, 0, 0, n.toNat⟩
  | .exitc p f t => ⟨0x02, p.toNat, 0, 0, t.toNat + 16 * f.toNat⟩
  | .exiti p => ⟨0x03, p.toNat, 0, 0, 0⟩
  | .callb p r c => ⟨0x04, p.toNat, 0, 0, c.toNat + 16 * r.toNat⟩
  | .retb p => ⟨0x05, p.toNat, 0, 0, 0⟩
  | .nullw p a b => ⟨0x06, p.toNat, 0, a.toNat, b.toNat⟩
  | .reads p n a => ⟨0x07, p.toNat, 0, a.toNat, n.toNat⟩
  | .writes p => ⟨0x08, p.toNat, 0, 0, 0⟩
  | .lit p x v a => ⟨0x09, p.toNat, x.toNat, a.toNat, v.toNat / 2 ^ 32⟩
  | .movt p a b => ⟨0x0A, p.toNat, 0, a.toNat, b.toNat⟩
  | .enter p i => ⟨0x0B, p.toNat, 0, 0, i.toNat⟩
  | .leave p => ⟨0x0C, p.toNat, 0, 0, 0⟩
  | .trapi p c n => ⟨0x0D, p.toNat, 0, 0, n.toNat + 16 * c.toNat⟩
  | .halts p => ⟨0x0E, p.toNat, 0, 0, 0⟩
  | .brks p i n => ⟨0x0F, p.toNat, 0, 0, n.toNat + 16 * i.toNat⟩
  | .add p a b => ⟨0x10, p.toNat, 0, a.toNat, b.toNat⟩
  | .sub p a b => ⟨0x11, p.toNat, 0, a.toNat, b.toNat⟩
  | .mul p a b => ⟨0x12, p.toNat, 0, a.toNat, b.toNat⟩
  | .mulh p x a b => ⟨0x13, p.toNat, x.toNat, a.toNat, b.toNat⟩
  | .addi p i a => ⟨0x14, p.toNat, 0, a.toNat, i.toNat⟩
  | .and p a b => ⟨0x15, p.toNat, 0, a.toNat, b.toNat⟩
  | .or p a b => ⟨0x16, p.toNat, 0, a.toNat, b.toNat⟩
  | .xor p a b => ⟨0x17, p.toNat, 0, a.toNat, b.toNat⟩
  | .shl p a b => ⟨0x18, p.toNat, 0, a.toNat, b.toNat⟩
  | .shr p a b => ⟨0x19, p.toNat, 0, a.toNat, b.toNat⟩
  | .sra p a b => ⟨0x1A, p.toNat, 0, a.toNat, b.toNat⟩
  | .min p u a b => ⟨0x1B, p.toNat, u.toNat, a.toNat, b.toNat⟩
  | .max p u a b => ⟨0x1C, p.toNat, u.toNat, a.toNat, b.toNat⟩
  | .cmps p c a b => ⟨0x1D, p.toNat, c.toNat, a.toNat, b.toNat⟩
  | .cmpu p c a b => ⟨0x1E, p.toNat, c.toNat, a.toNat, b.toNat⟩
  | .sel p a b => ⟨0x1F, p.toNat, 0, a.toNat, b.toNat⟩
  | .divs p r a b => ⟨0x20, p.toNat, r.toNat, a.toNat, b.toNat⟩
  | .divu p r a b => ⟨0x21, p.toNat, r.toNat, a.toNat, b.toNat⟩
  | .abs p a b => ⟨0x22, p.toNat, 0, a.toNat, b.toNat⟩
  | .neg p a b => ⟨0x23, p.toNat, 0, a.toNat, b.toNat⟩
  | .clz p a b => ⟨0x24, p.toNat, 0, a.toNat, b.toNat⟩
  | .popc p a b => ⟨0x25, p.toNat, 0, a.toNat, b.toNat⟩
  | .exts p n a => ⟨0x26, p.toNat, 0, a.toNat, n.toNat⟩
  | .extz p n a => ⟨0x27, p.toNat, 0, a.toNat, n.toNat⟩
  | .addsat p u a b => ⟨0x28, p.toNat, u.toNat, a.toNat, b.toNat⟩
  | .subsat p u a b => ⟨0x29, p.toNat, u.toNat, a.toNat, b.toNat⟩
  | .lea p k a => ⟨0x2A, p.toNat, 0, a.toNat, k.toNat⟩
  | .idx p a b => ⟨0x2B, p.toNat, 0, a.toNat, b.toNat⟩
  | .last p j a => ⟨0x2C, p.toNat, 0, a.toNat, j.toNat⟩
  | .andn p a b => ⟨0x2D, p.toNat, 0, a.toNat, b.toNat⟩
  | .rotl p a b => ⟨0x2E, p.toNat, 0, a.toNat, b.toNat⟩
  | .bfx p s n a => ⟨0x2F, p.toNat, s.toNat, a.toNat, n.toNat⟩
  | .fadd p r a b => ⟨0x30, p.toNat, r.toNat, a.toNat, b.toNat⟩
  | .fsub p r a b => ⟨0x31, p.toNat, r.toNat, a.toNat, b.toNat⟩
  | .fmul p r a b => ⟨0x32, p.toNat, r.toNat, a.toNat, b.toNat⟩
  | .fma p r a b => ⟨0x33, p.toNat, r.toNat, a.toNat, b.toNat⟩
  | .fmin p n a b => ⟨0x34, p.toNat, n.toNat, a.toNat, b.toNat⟩
  | .fmax p n a b => ⟨0x35, p.toNat, n.toNat, a.toNat, b.toNat⟩
  | .fcmp p c a b => ⟨0x36, p.toNat, c.toNat, a.toNat, b.toNat⟩
  | .fabs p a b => ⟨0x37, p.toNat, 0, a.toNat, b.toNat⟩
  | .fneg p a b => ⟨0x38, p.toNat, 0, a.toNat, b.toNat⟩
  | .frcp p r a b => ⟨0x39, p.toNat, r.toNat, a.toNat, b.toNat⟩
  | .fsqrt p r a b => ⟨0x3A, p.toNat, r.toNat, a.toNat, b.toNat⟩
  | .frsq p r a b => ⟨0x3B, p.toNat, r.toNat, a.toNat, b.toNat⟩
  | .fexp2 p r a b => ⟨0x3C, p.toNat, r.toNat, a.toNat, b.toNat⟩
  | .flog2 p r a b => ⟨0x3D, p.toNat, r.toNat, a.toNat, b.toNat⟩
  | .fscale p r a b => ⟨0x3E, p.toNat, r.toNat, a.toNat, b.toNat⟩
  | .fclass p a b => ⟨0x3F, p.toNat, 0, a.toNat, b.toNat⟩
  | .cvt p y t a => ⟨0x40, p.toNat, 0, a.toNat, t.code + 16 * y.toNat⟩
  | .cvtr p m y t a => ⟨0x41, p.toNat, m.toNat, a.toNat, t.code + 16 * y.toNat⟩
  | .cvti p m y t a => ⟨0x42, p.toNat, m.toNat, a.toNat, t.code + 16 * y.toNat⟩
  | .cvtf p m y t a => ⟨0x43, p.toNat, m.toNat, a.toNat, t.code + 16 * y.toNat⟩
  | .packb p f j k a => ⟨0x44, p.toNat, f.toNat, a.toNat, k.toNat + 16 * j.toNat⟩
  | .unpackb p j a => ⟨0x45, p.toNat, 0, a.toNat, 16 * j.toNat⟩
  | .retag p t a => ⟨0x46, p.toNat, 0, a.toNat, t.code⟩
  | .tagq p a => ⟨0x47, p.toNat, 0, a.toNat, 0⟩
  | .sati p s y t a => ⟨0x48, p.toNat, s.toNat, a.toNat, t.code + 16 * y.toNat⟩
  | .rsum p s a b => ⟨0x50, p.toNat, s.toNat, a.toNat, b.toNat⟩
  | .rmax p n a b => ⟨0x51, p.toNat, n.toNat, a.toNat, b.toNat⟩
  | .rmin p n a b => ⟨0x52, p.toNat, n.toNat, a.toNat, b.toNat⟩
  | .rand p n a => ⟨0x53, p.toNat, 0, a.toNat, n.toNat⟩
  | .ror p n a => ⟨0x54, p.toNat, 0, a.toNat, n.toNat⟩
  | .scana p x a b => ⟨0x55, p.toNat, x.toNat, a.toNat, b.toNat⟩
  | .shuf p a b => ⟨0x56, p.toNat, 0, a.toNat, b.toNat⟩
  | .bcastl p j a => ⟨0x57, p.toNat, 0, a.toNat, j.toNat⟩
  | .slide p d a => ⟨0x58, p.toNat, 0, a.toNat, d.toNat⟩
  | .maskl p a b => ⟨0x59, p.toNat, 0, a.toNat, b.toNat⟩
  | .cntl p a b => ⟨0x5A, p.toNat, 0, a.toNat, b.toNat⟩
  | .firstl p a b => ⟨0x5B, p.toNat, 0, a.toNat, b.toNat⟩
  | .zip p a b => ⟨0x5C, p.toNat, 0, a.toNat, b.toNat⟩
  | .unzip p a b => ⟨0x5D, p.toNat, 0, a.toNat, b.toNat⟩
  | .segsc p x a b => ⟨0x5E, p.toNat, x.toNat, a.toNat, b.toNat⟩
  | .rtree p x a b => ⟨0x5F, p.toNat, x.toNat, a.toNat, b.toNat⟩
  | .mldb p a => ⟨0x60, p.toNat, 0, a.toNat, 0⟩
  | .mclm p n a => ⟨0x61, p.toNat, 0, a.toNat, n.toNat⟩
  | .mrel p n a => ⟨0x62, p.toNat, 0, a.toNat, n.toNat⟩
  | .mrow p x g j o a => ⟨0x63, p.toNat, x.toNat, a.toNat, o.toNat + 32 * j.toNat + 256 * g.toNat⟩
  | .mrowt p x g j o a => ⟨0x64, p.toNat, x.toNat, a.toNat, o.toNat + 32 * j.toNat + 256 * g.toNat⟩
  | .macr p n r a => ⟨0x65, p.toNat, 0, a.toNat, r.toNat + 64 * n.toNat⟩
  | .manc p n r a => ⟨0x66, p.toNat, 0, a.toNat, r.toNat + 64 * n.toNat⟩
  | .mdrn p y t a => ⟨0x67, p.toNat, 0, a.toNat, t.code + 16 * y.toNat⟩
  | .mdrk p y t a => ⟨0x68, p.toNat, 0, a.toNat, t.code + 16 * y.toNat⟩
  | .mstat p g r a => ⟨0x69, p.toNat, 0, a.toNat, r.toNat + 64 * g.toNat⟩
  | .wrd p w a => ⟨0x70, p.toNat, 0, a.toNat, w.toNat⟩
  | .wup p w a => ⟨0x71, p.toNat, 0, a.toNat, w.toNat⟩
  | .wfl p w a => ⟨0x72, p.toNat, 0, a.toNat, w.toNat⟩
  | .wsh p w a => ⟨0x73, p.toNat, 0, a.toNat, w.toNat⟩
  | .wrdb p w a => ⟨0x74, p.toNat, 0, a.toNat, w.toNat⟩
  | .wflb p w a => ⟨0x75, p.toNat, 0, a.toNat, w.toNat⟩
  | .wext p w a => ⟨0x76, p.toNat, 0, a.toNat, w.toNat⟩
  | .wfree p w a => ⟨0x77, p.toNat, 0, a.toNat, w.toNat⟩
  | .wmark p w a => ⟨0x78, p.toNat, 0, a.toNat, w.toNat⟩
  | .weos p w a => ⟨0x79, p.toNat, 0, a.toNat, w.toNat⟩
  | .wopen p w a => ⟨0x7A, p.toNat, 0, a.toNat, w.toNat⟩
  | .wclose p w a => ⟨0x7B, p.toNat, 0, a.toNat, w.toNat⟩
  | .wsave p w a => ⟨0x7C, p.toNat, 0, a.toNat, w.toNat⟩
  | .wrest p w a => ⟨0x7D, p.toNat, 0, a.toNat, w.toNat⟩
  | .wlink p w a => ⟨0x7E, p.toNat, 0, a.toNat, w.toNat⟩
  | .wspl p o w a => ⟨0x7F, p.toNat, o.toNat, a.toNat, w.toNat⟩
  | .ldg p u t a => ⟨0x80, p.toNat, u.toNat, a.toNat, t.code⟩
  | .stg p u t a => ⟨0x81, p.toNat, u.toNat, a.toNat, t.code⟩
  | .ldgv p u t a => ⟨0x82, p.toNat, u.toNat, a.toNat, t.code⟩
  | .stgv p u t a => ⟨0x83, p.toNat, u.toNat, a.toNat, t.code⟩
  | .ldk p v t a => ⟨0x84, p.toNat, v.toNat, a.toNat, t.code⟩
  | .pref p a => ⟨0x85, p.toNat, 0, a.toNat, 0⟩
  | .amog p x d s t a => ⟨0x86, p.toNat, x.toNat, a.toNat, t.code + 16 * s.toNat + 128 * d.toNat⟩
  | .fence p x s a => ⟨0x87, p.toNat, x.toNat, a.toNat, 16 * s.toNat⟩
  | .acq p s t a => ⟨0x88, p.toNat, 0, a.toNat, t.code + 16 * s.toNat⟩
  | .rel p s t a => ⟨0x89, p.toNat, 0, a.toNat, t.code + 16 * s.toNat⟩
  | .ctok p a b => ⟨0x8A, p.toNat, 0, a.toNat, b.toNat⟩
  | .mseq p a b => ⟨0x8B, p.toNat, 0, a.toNat, b.toNat⟩
  | .placeq p a => ⟨0x8C, p.toNat, 0, a.toNat, 0⟩
  | .mona p t a => ⟨0x8D, p.toNat, 0, a.toNat, t.code⟩
  | .mwait p a => ⟨0x8E, p.toNat, 0, a.toNat, 0⟩
  | .kset p x g e => ⟨0x90, p.toNat, x.toNat, 0, e.toNat + 512 * g.toNat⟩
  | .kchain p n => ⟨0x91, p.toNat, 0, 0, n.toNat⟩
  | .kidx p l a b => ⟨0x92, p.toNat, l.toNat, a.toNat, b.toNat⟩
  | .klast p n j a => ⟨0x93, p.toNat, 0, a.toNat, j.toNat + 8 * n.toNat⟩
  | .sgen p g w a => ⟨0x94, p.toNat, g.toNat, a.toNat, w.toNat⟩
  | .sgrun p g w a => ⟨0x95, p.toNat, g.toNat, a.toNat, w.toNat⟩
  | .psrc p n a => ⟨0x96, p.toNat, 0, a.toNat, n.toNat⟩
  | .psnk p j n a => ⟨0x97, p.toNat, 0, a.toNat, n.toNat + 128 * j.toNat⟩
  | .loopn _ => ⟨0x98, 0, 0, 0, 0⟩
  | .bustx p a b => ⟨0x99, p.toNat, 0, a.toNat, b.toNat⟩
  | .busrx p i a => ⟨0x9A, p.toNat, 0, a.toNat, i.toNat⟩
  | .ctlsnd p c => ⟨0x9B, p.toNat, 0, 0, c.toNat⟩
  | .ctlrcv p c a => ⟨0x9C, p.toNat, 0, a.toNat, c.toNat⟩
  | .cqapp p c a => ⟨0xA0, p.toNat, 0, a.toNat, c.toNat⟩
  | .cqtail p c a => ⟨0xA1, p.toNat, 0, a.toNat, c.toNat⟩
  | .cqseq p c a => ⟨0xA2, p.toNat, 0, a.toNat, c.toNat⟩
  | .cqwait p c a => ⟨0xA3, p.toNat, 0, a.toNat, c.toNat⟩
  | .evpop p a => ⟨0xA4, p.toNat, 0, a.toNat, 0⟩
  | .evpeek p a => ⟨0xA5, p.toNat, 0, a.toNat, 0⟩
  | .cqabrt p c a => ⟨0xA6, p.toNat, 0, a.toNat, c.toNat⟩
  | .clapp p c a => ⟨0xA7, p.toNat, 0, a.toNat, c.toNat⟩
  | .cltail p c a => ⟨0xA8, p.toNat, 0, a.toNat, c.toNat⟩
  | .clseq p c a => ⟨0xA9, p.toNat, 0, a.toNat, c.toNat⟩
  | .clwait p c a => ⟨0xAA, p.toNat, 0, a.toNat, c.toNat⟩
  | .clabrt p c a => ⟨0xAB, p.toNat, 0, a.toNat, c.toNat⟩
  | .gtinit p t a => ⟨0xB0, p.toNat, 0, a.toNat, t.toNat⟩
  | .gtroot p t a => ⟨0xB1, p.toNat, 0, a.toNat, t.toNat⟩
  | .gtdesc p w t a => ⟨0xB2, p.toNat, 0, a.toNat, t.toNat + 16 * w.toNat⟩
  | .gtexp p w t a => ⟨0xB3, p.toNat, 0, a.toNat, t.toNat + 16 * w.toNat⟩
  | .gtback p w t a => ⟨0xB4, p.toNat, 0, a.toNat, t.toNat + 16 * w.toNat⟩
  | .gtvl p w t a => ⟨0xB5, p.toNat, 0, a.toNat, t.toNat + 16 * w.toNat⟩
  | .gtread p f t a => ⟨0xB6, p.toNat, 0, a.toNat, t.toNat + 16 * f.toNat⟩
  | .gtbest p t a => ⟨0xB7, p.toNat, 0, a.toNat, t.toNat⟩
  | .gtreroot p t a => ⟨0xB8, p.toNat, 0, a.toNat, t.toNat⟩
  | .gtfree p t a => ⟨0xB9, p.toNat, 0, a.toNat, t.toNat⟩
  | .gtstat p i t a => ⟨0xBA, p.toNat, 0, a.toNat, t.toNat + 16 * i.toNat⟩
  | .gtparm p q t a => ⟨0xBB, p.toNat, 0, a.toNat, t.toNat + 16 * q.toNat⟩
  | .tspawn p c a => ⟨0xC0, p.toNat, c.toNat, a.toNat, 0⟩
  | .trange p c a => ⟨0xC1, p.toNat, c.toNat, a.toNat, 0⟩
  | .tpop p n => ⟨0xC2, p.toNat, 0, 0, n.toNat⟩
  | .tidle p => ⟨0xC3, p.toNat, 0, 0, 0⟩
  | .tdone p f a => ⟨0xC4, p.toNat, f.toNat, a.toNat, 0⟩
  | .tdep p x a => ⟨0xC5, p.toNat, x.toNat, a.toNat, 0⟩
  | .gjoin p g a => ⟨0xC6, p.toNat, 0, a.toNat, g.toNat⟩
  | .gleave p g a => ⟨0xC7, p.toNat, 0, a.toNat, g.toNat⟩
  | .gbar p g a => ⟨0xC8, p.toNat, 0, a.toNat, g.toNat⟩
  | .lkacq p t a => ⟨0xC9, p.toNat, t.toNat, a.toNat, 0⟩
  | .lkrel p a => ⟨0xCA, p.toNat, 0, a.toNat, 0⟩
  | .qpush p t a => ⟨0xCB, p.toNat, t.toNat, a.toNat, 0⟩
  | .qpop p t a b => ⟨0xCC, p.toNat, t.toNat, a.toNat, b.toNat⟩
  | .wreg p k a => ⟨0xCD, p.toNat, 0, a.toNat, k.toNat⟩
  | .wdereg p a => ⟨0xCE, p.toNat, 0, a.toNat, 0⟩
  | .prio p a => ⟨0xCF, p.toNat, 0, a.toNat, 0⟩
  | .splins p w a => ⟨0xD0, p.toNat, 0, a.toNat, w.toNat⟩
  | .splrem p w a => ⟨0xD1, p.toNat, 0, a.toNat, w.toNat⟩
  | .splbnd p w a => ⟨0xD2, p.toNat, 0, a.toNat, w.toNat⟩
  | .splack p c => ⟨0xD3, p.toNat, 0, 0, c.toNat⟩
  | .stglnk p n a => ⟨0xD4, p.toNat, 0, a.toNat, n.toNat⟩
  | .stgst p a => ⟨0xD5, p.toNat, 0, a.toNat, 0⟩
  | .stgld p a => ⟨0xD6, p.toNat, 0, a.toNat, 0⟩
  | .splq p c a => ⟨0xD7, p.toNat, c.toNat, a.toNat, 0⟩
  | .foldset p e a => ⟨0xD8, p.toNat, 0, a.toNat, e.toNat⟩
  | .ctxsv p x a => ⟨0xE0, p.toNat, x.toNat, a.toNat, 0⟩
  | .ctxrs p a => ⟨0xE1, p.toNat, 0, a.toNat, 0⟩
  | .tlbinv p x a => ⟨0xE2, p.toNat, x.toNat, a.toNat, 0⟩
  | .mapset p l a => ⟨0xE3, p.toNat, 0, a.toNat, l.toNat⟩
  | .prmt p s c r a => ⟨0xE4, p.toNat, s.toNat, a.toNat, r.toNat + 16 * c.toNat⟩
  | .rgnal p a => ⟨0xE5, p.toNat, 0, a.toNat, 0⟩
  | .rgnfr p a => ⟨0xE6, p.toNat, 0, a.toNat, 0⟩
  | .trapret p s r => ⟨0xE7, p.toNat, s.toNat, 0, r.toNat⟩
  | .csrrd p c a => ⟨0xE8, p.toNat, 0, a.toNat, c.toNat⟩
  | .csrwr p c a => ⟨0xE9, p.toNat, 0, a.toNat, c.toNat⟩
  | .injerr p u k a => ⟨0xEA, p.toNat, u.toNat, a.toNat, k.toNat⟩
  | .selft p a => ⟨0xEB, p.toNat, 0, a.toNat, 0⟩
  | .scan p a => ⟨0xEC, p.toNat, 0, a.toNat, 0⟩
  | .elogrd p e n l a => ⟨0xED, p.toNat, e.toNat, a.toNat, l.toNat + 8 * n.toNat⟩
  | .attest p a => ⟨0xEE, p.toNat, 0, a.toNat, 0⟩
  | .brkr p x k a => ⟨0xF0, p.toNat, x.toNat, a.toNat, k.toNat⟩
  | .trcmk p t a => ⟨0xF1, p.toNat, 0, a.toNat, t.toNat⟩
  | .cycrd p s a => ⟨0xF2, p.toNat, 0, a.toNat, s.toNat⟩
  | .vchk p v w a => ⟨0xF3, p.toNat, v.toNat, a.toNat, w.toNat⟩
  | .packageReset => ⟨0, 0, 0, 0, 0⟩
  | .contextOpen _ _ _ _ _ => ⟨0, 0, 0, 0, 0⟩
  | .contextClose _ => ⟨0, 0, 0, 0, 0⟩
  | .ldoor _ _ _ => ⟨0, 0, 0, 0, 0⟩
  | .launchTake _ => ⟨0, 0, 0, 0, 0⟩
  | .launchDispatch _ => ⟨0, 0, 0, 0, 0⟩
  | .windowPreload _ => ⟨0, 0, 0, 0, 0⟩
  | .launchCompletion _ _ => ⟨0, 0, 0, 0, 0⟩
  | .regionGrant _ => ⟨0, 0, 0, 0, 0⟩
  | .blockLoad _ => ⟨0, 0, 0, 0, 0⟩
  | .slotResultOffer _ _ _ => ⟨0, 0, 0, 0, 0⟩
  | .controlBlockEnd _ => ⟨0, 0, 0, 0, 0⟩
  | .fabricBlockComplete _ => ⟨0, 0, 0, 0, 0⟩
  | .blockEdge _ => ⟨0, 0, 0, 0, 0⟩
  | .strandEnd _ => ⟨0, 0, 0, 0, 0⟩
  | .jasperEndStrand _ => ⟨0, 0, 0, 0, 0⟩
  | .fabricReconfigure _ _ _ => ⟨0, 0, 0, 0, 0⟩
  | .skipTokenPass _ _ _ => ⟨0, 0, 0, 0, 0⟩
  | .windowReadWaitEnd _ _ _ => ⟨0, 0, 0, 0, 0⟩
  | .windowFillWaitEnd _ _ _ => ⟨0, 0, 0, 0, 0⟩
  | .channelFill _ _ => ⟨0, 0, 0, 0, 0⟩
  | .spillRingDrain _ _ => ⟨0, 0, 0, 0, 0⟩
  | .channelEndOfStream _ _ => ⟨0, 0, 0, 0, 0⟩
  | .writeApply _ _ => ⟨0, 0, 0, 0, 0⟩
  | .readServe _ _ => ⟨0, 0, 0, 0, 0⟩
  | .readResponse _ _ => ⟨0, 0, 0, 0, 0⟩
  | .progressBeat _ _ => ⟨0, 0, 0, 0, 0⟩
  | .mwaitWake _ _ => ⟨0, 0, 0, 0, 0⟩
  | .constantSegmentCopy _ _ => ⟨0, 0, 0, 0, 0⟩
  | .translationWalk _ _ => ⟨0, 0, 0, 0, 0⟩
  | .fltack _ _ _ => ⟨0, 0, 0, 0, 0⟩
  | .streamElementFill _ _ _ => ⟨0, 0, 0, 0, 0⟩
  | .sgrunAbsentPage _ _ _ => ⟨0, 0, 0, 0, 0⟩
  | .sgrunEntryReread _ _ _ => ⟨0, 0, 0, 0, 0⟩
  | .sgrunPostRetry _ _ _ => ⟨0, 0, 0, 0, 0⟩
  | .copyRecordCapture _ _ => ⟨0, 0, 0, 0, 0⟩
  | .copyRow _ _ => ⟨0, 0, 0, 0, 0⟩
  | .copyFillResume _ _ => ⟨0, 0, 0, 0, 0⟩
  | .copyRecordComplete _ _ => ⟨0, 0, 0, 0, 0⟩
  | .eventQueueResume _ _ => ⟨0, 0, 0, 0, 0⟩
  | .collectiveStepStart _ _ => ⟨0, 0, 0, 0, 0⟩
  | .readyNotice _ _ => ⟨0, 0, 0, 0, 0⟩
  | .collectiveDataArrival _ _ => ⟨0, 0, 0, 0, 0⟩
  | .abortNotice _ _ => ⟨0, 0, 0, 0, 0⟩
  | .peerSilent _ _ => ⟨0, 0, 0, 0, 0⟩
  | .taskWindowReady _ _ => ⟨0, 0, 0, 0, 0⟩
  | .taskTake _ _ => ⟨0, 0, 0, 0, 0⟩
  | .gangPhaseRelease _ _ => ⟨0, 0, 0, 0, 0⟩
  | .lockGrant _ _ => ⟨0, 0, 0, 0, 0⟩
  | .queueWaiterServe _ _ => ⟨0, 0, 0, 0, 0⟩
  | .waitforRegister _ => ⟨0, 0, 0, 0, 0⟩
  | .waitforSweep => ⟨0, 0, 0, 0, 0⟩
  | .wfinj _ _ => ⟨0, 0, 0, 0, 0⟩
  | .geodeDescent _ _ => ⟨0, 0, 0, 0, 0⟩
  | .geodeExpandElement _ _ => ⟨0, 0, 0, 0, 0⟩
  | .geodeBackupElement _ _ => ⟨0, 0, 0, 0, 0⟩
  | .geodeVlElement _ _ => ⟨0, 0, 0, 0, 0⟩
  | .lazyFree _ _ _ => ⟨0, 0, 0, 0, 0⟩
  | .hostGrowth _ _ _ _ => ⟨0, 0, 0, 0, 0⟩
  | .spliceHostResolve _ _ => ⟨0, 0, 0, 0, 0⟩
  | .savePoint _ => ⟨0, 0, 0, 0, 0⟩
  | .saveComplete _ => ⟨0, 0, 0, 0, 0⟩
  | .dbgctl _ _ => ⟨0, 0, 0, 0, 0⟩
  | .strandHalt _ => ⟨0, 0, 0, 0, 0⟩
  | .logRoomResume _ _ _ => ⟨0, 0, 0, 0, 0⟩
  | .replayDivergence _ _ _ => ⟨0, 0, 0, 0, 0⟩
  | .pwrcap _ => ⟨0, 0, 0, 0, 0⟩
  | .retmap _ _ => ⟨0, 0, 0, 0, 0⟩
  | .registerWrite _ _ _ _ _ => ⟨0, 0, 0, 0, 0⟩
  | .writeAcknowledgement _ _ => ⟨0, 0, 0, 0, 0⟩
  | .linkRetry _ _ _ => ⟨0, 0, 0, 0, 0⟩
  | .jasperRegeneration _ _ _ _ => ⟨0, 0, 0, 0, 0⟩

/-- The 256-bit value L of a LOOPN (R43). -/
def LoopN.toNat (x : LoopN) : Nat :=
  let ext := x.ext.toList
  let win := x.win.toList
  let str := x.str.toList
  0x98 * 2 ^ 24 + x.op.toNat * 2 ^ 16 + x.tag.code * 2 ^ 12 + x.nlev.toNat * 2 ^ 9 + (str.getD 0 0).toNat
    + ((List.range 5).map fun l => (ext.getD l 0).toNat * 2 ^ (32 + 16 * l)).sum
    + ((List.range 3).map fun k => (win.getD k 0).toNat * 2 ^ (112 + 6 * k)).sum
    + ((List.range 14).map fun m => (str.getD (m + 1) 0).toNat * 2 ^ (130 + 9 * m)).sum

/-- The n low 32-bit words of a number, lowest first. -/
def natWords : Nat → Nat → List (BitVec 32)
  | 0, _ => []
  | n + 1, v => BitVec.ofNat 32 v :: natWords n (v / 2 ^ 32)

/-- The words of a well-formed instruction (R37 to R44); an event has none. -/
def encode (i : Instr) : List (BitVec 32) :=
  match i with
  | .lit p x v a => [BitVec.ofNat 32 (Instr.fields (.lit p x v a)).toWord, BitVec.ofNat 32 v.toNat]
  | .loopn x => natWords 8 x.toNat
  | i => if i.wf then [BitVec.ofNat 32 i.fields.toWord] else []

/-- The bytes of a well-formed instruction (R3). -/
def encodeBytes (i : Instr) : List Byte := (encode i).flatMap fun w => leBytes 4 w.toNat

/-- Words of group 0x0, control, written out from the spec: opcode [31:24], predicate mode [23:22], xop [21:20], target A
[19:10], target B or field [9:0] (R37, R39, R51). -/
theorem words_group0 :
    ([0x00000000, 0x01000006, 0x0240006D, 0x03800000, 0x0400006D, 0x05400000, 0x068A2289, 0x07021416,
      0x08400000, 0x0A821703, 0x0B0000D6, 0x0C400000, 0x0D80016D, 0x0E000000, 0x0F40016D] : List Nat).map (decodeTableWord 32) =
    [.nop,
     .exit .always 6,
     .exitc .onTrue 6 13,
     .exiti .onFalse,
     .callb .always 6 13,
     .retb .onTrue,
     .nullw .onFalse (.reg 8) (.reg 9),
     .reads .always 22 (.left 5),
     .writes .onTrue,
     .movt .onFalse (.left 5) (.port 3),
     .enter .always 214,
     .leave .onTrue,
     .trapi .onFalse 22 13,
     .halts .always,
     .brks .onTrue 22 13].map some := by
  decide

/-- Words of group 0x1, integer, written out from the spec: opcode [31:24], predicate mode [23:22], xop [21:20], target A
[19:10], target B or field [9:0] (R37, R39, R51). -/
theorem words_group1 :
    ([0x10821703, 0x11021703, 0x12421703, 0x13A21703, 0x140216D6, 0x15421703, 0x16821703, 0x17021703,
      0x18421703, 0x19821703, 0x1A021703, 0x1B521703, 0x1C921703, 0x1D221703, 0x1E621703, 0x1F821703] : List Nat).map (decodeTableWord 32) =
    [.add .onFalse (.left 5) (.port 3),
     .sub .always (.left 5) (.port 3),
     .mul .onTrue (.left 5) (.port 3),
     .mulh .onFalse .su (.left 5) (.port 3),
     .addi .always 726 (.left 5),
     .and .onTrue (.left 5) (.port 3),
     .or .onFalse (.left 5) (.port 3),
     .xor .always (.left 5) (.port 3),
     .shl .onTrue (.left 5) (.port 3),
     .shr .onFalse (.left 5) (.port 3),
     .sra .always (.left 5) (.port 3),
     .min .onTrue true (.left 5) (.port 3),
     .max .onFalse true (.left 5) (.port 3),
     .cmps .always .lt (.left 5) (.port 3),
     .cmpu .onTrue .lt (.left 5) (.port 3),
     .sel .onFalse (.left 5) (.port 3)].map some := by
  decide

/-- Words of group 0x2, second integer, written out from the spec: opcode [31:24], predicate mode [23:22], xop [21:20], target A
[19:10], target B or field [9:0] (R37, R39, R51). -/
theorem words_group2 :
    ([0x20121703, 0x21521703, 0x22821703, 0x23021703, 0x24421703, 0x25821703, 0x26021416, 0x27421416,
      0x28921703, 0x29121703, 0x2A421406, 0x2B821703, 0x2C021403, 0x2D421703, 0x2E821703, 0x2F121416] : List Nat).map (decodeTableWord 32) =
    [.divs .always true (.left 5) (.port 3),
     .divu .onTrue true (.left 5) (.port 3),
     .abs .onFalse (.left 5) (.port 3),
     .neg .always (.left 5) (.port 3),
     .clz .onTrue (.left 5) (.port 3),
     .popc .onFalse (.left 5) (.port 3),
     .exts .always 22 (.left 5),
     .extz .onTrue 22 (.left 5),
     .addsat .onFalse true (.left 5) (.port 3),
     .subsat .always true (.left 5) (.port 3),
     .lea .onTrue 6 (.left 5),
     .idx .onFalse (.left 5) (.port 3),
     .last .always 3 (.left 5),
     .andn .onTrue (.left 5) (.port 3),
     .rotl .onFalse (.left 5) (.port 3),
     .bfx .always true 22 (.left 5)].map some := by
  decide

/-- Words of group 0x3, float, written out from the spec: opcode [31:24], predicate mode [23:22], xop [21:20], target A
[19:10], target B or field [9:0] (R37, R39, R51). -/
theorem words_group3 :
    ([0x30621703, 0x31A21703, 0x32221703, 0x33621703, 0x34921703, 0x35121703, 0x36621703, 0x37821703,
      0x38021703, 0x39621703, 0x3AA21703, 0x3B221703, 0x3C621703, 0x3DA21703, 0x3E221703, 0x3F421703] : List Nat).map (decodeTableWord 32) =
    [.fadd .onTrue .rd (.left 5) (.port 3),
     .fsub .onFalse .rd (.left 5) (.port 3),
     .fmul .always .rd (.left 5) (.port 3),
     .fma .onTrue .rd (.left 5) (.port 3),
     .fmin .onFalse true (.left 5) (.port 3),
     .fmax .always true (.left 5) (.port 3),
     .fcmp .onTrue .le (.left 5) (.port 3),
     .fabs .onFalse (.left 5) (.port 3),
     .fneg .always (.left 5) (.port 3),
     .frcp .onTrue .rd (.left 5) (.port 3),
     .fsqrt .onFalse .rd (.left 5) (.port 3),
     .frsq .always .rd (.left 5) (.port 3),
     .fexp2 .onTrue .rd (.left 5) (.port 3),
     .flog2 .onFalse .rd (.left 5) (.port 3),
     .fscale .always .rd (.left 5) (.port 3),
     .fclass .onTrue (.left 5) (.port 3)].map some := by
  decide

/-- Words of group 0x4, convert, written out from the spec: opcode [31:24], predicate mode [23:22], xop [21:20], target A
[19:10], target B or field [9:0] (R37, R39, R51). -/
theorem words_group4 :
    ([0x40821427, 0x41221427, 0x42621422, 0x43A21427, 0x4412142D, 0x45421420, 0x46821403, 0x47021400,
      0x48621422] : List Nat).map (decodeTableWord 32) =
    [.cvt .onFalse 2 .f16 (.left 5),
     .cvtr .always .rd 2 .f16 (.left 5),
     .cvti .onTrue .rd 2 .i16 (.left 5),
     .cvtf .onFalse .rd 2 .f16 (.left 5),
     .packb .always true 2 13 (.left 5),
     .unpackb .onTrue 2 (.left 5),
     .retag .onFalse .i32 (.left 5),
     .tagq .always (.left 5),
     .sati .onTrue .uu 2 .i16 (.left 5)].map some := by
  decide

/-- Words of group 0x5, lane, written out from the spec: opcode [31:24], predicate mode [23:22], xop [21:20], target A
[19:10], target B or field [9:0] (R37, R39, R51). -/
theorem words_group5 :
    ([0x50921703, 0x51121703, 0x52521703, 0x53821456, 0x54021456, 0x55621703, 0x56821703, 0x57021456,
      0x584214D6, 0x59821703, 0x5A021703, 0x5B421703, 0x5C821703, 0x5D021703, 0x5E621703, 0x5FA21703] : List Nat).map (decodeTableWord 32) =
    [.rsum .onFalse true (.left 5) (.port 3),
     .rmax .always true (.left 5) (.port 3),
     .rmin .onTrue true (.left 5) (.port 3),
     .rand .onFalse 86 (.left 5),
     .ror .always 86 (.left 5),
     .scana .onTrue .min (.left 5) (.port 3),
     .shuf .onFalse (.left 5) (.port 3),
     .bcastl .always 86 (.left 5),
     .slide .onTrue 214 (.left 5),
     .maskl .onFalse (.left 5) (.port 3),
     .cntl .always (.left 5) (.port 3),
     .firstl .onTrue (.left 5) (.port 3),
     .zip .onFalse (.left 5) (.port 3),
     .unzip .always (.left 5) (.port 3),
     .segsc .onTrue .min (.left 5) (.port 3),
     .rtree .onFalse .min (.left 5) (.port 3)].map some := by
  decide

/-- Words of group 0x6, matrix, written out from the spec: opcode [31:24], predicate mode [23:22], xop [21:20], target A
[19:10], target B or field [9:0] (R37, R39, R51). -/
theorem words_group6 :
    ([0x60021400, 0x61421416, 0x62821416, 0x6322156B, 0x6462156B, 0x65821556, 0x66021556, 0x67421426,
      0x68821426, 0x6902159D] : List Nat).map (decodeTableWord 32) =
    [.mldb .always (.left 5),
     .mclm .onTrue 22 (.left 5),
     .mrel .onFalse 22 (.left 5),
     .mrow .always .df true 3 11 (.left 5),
     .mrowt .onTrue .df true 3 11 (.left 5),
     .macr .onFalse 5 22 (.left 5),
     .manc .always 5 22 (.left 5),
     .mdrn .onTrue 2 .bf16 (.left 5),
     .mdrk .onFalse 2 .bf16 (.left 5),
     .mstat .always 6 29 (.left 5)].map some := by
  decide

/-- Words of group 0x7, window, written out from the spec: opcode [31:24], predicate mode [23:22], xop [21:20], target A
[19:10], target B or field [9:0] (R37, R39, R51). -/
theorem words_group7 :
    ([0x704216D6, 0x718216D6, 0x720216D6, 0x734216D6, 0x748216D6, 0x750216D6, 0x764216D6, 0x778216D6,
      0x780216D6, 0x794216D6, 0x7A8216D6, 0x7B0216D6, 0x7C4216D6, 0x7D8216D6, 0x7E0216D6, 0x7F5216D6] : List Nat).map (decodeTableWord 32) =
    [.wrd .onTrue 726 (.left 5),
     .wup .onFalse 726 (.left 5),
     .wfl .always 726 (.left 5),
     .wsh .onTrue 726 (.left 5),
     .wrdb .onFalse 726 (.left 5),
     .wflb .always 726 (.left 5),
     .wext .onTrue 726 (.left 5),
     .wfree .onFalse 726 (.left 5),
     .wmark .always 726 (.left 5),
     .weos .onTrue 726 (.left 5),
     .wopen .onFalse 726 (.left 5),
     .wclose .always 726 (.left 5),
     .wsave .onTrue 726 (.left 5),
     .wrest .onFalse 726 (.left 5),
     .wlink .always 726 (.left 5),
     .wspl .onTrue true 726 (.left 5)].map some := by
  decide

/-- Words of group 0x8, memory, written out from the spec: opcode [31:24], predicate mode [23:22], xop [21:20], target A
[19:10], target B or field [9:0] (R37, R39, R51). -/
theorem words_group8 :
    ([0x80921403, 0x81121403, 0x82521406, 0x83921406, 0x84121406, 0x85421400, 0x86A215B3, 0x87221430,
      0x88421433, 0x89821433, 0x8A021703, 0x8B421703, 0x8C821400, 0x8D021403, 0x8E421400] : List Nat).map (decodeTableWord 32) =
    [.ldg .onFalse true .i32 (.left 5),
     .stg .always true .i32 (.left 5),
     .ldgv .onTrue true .bf16 (.left 5),
     .stgv .onFalse true .bf16 (.left 5),
     .ldk .always true .bf16 (.left 5),
     .pref .onTrue (.left 5),
     .amog .onFalse .cas .both .package .i32 (.left 5),
     .fence .always .rel .package (.left 5),
     .acq .onTrue .package .i32 (.left 5),
     .rel .onFalse .package .i32 (.left 5),
     .ctok .always (.left 5) (.port 3),
     .mseq .onTrue (.left 5) (.port 3),
     .placeq .onFalse (.left 5),
     .mona .always .i32 (.left 5),
     .mwait .onTrue (.left 5)].map some := by
  decide

/-- Words of group 0x9, fabric control and streams, written out from the spec: opcode [31:24], predicate mode [23:22], xop [21:20], target A
[19:10], target B or field [9:0] (R37, R39, R51). -/
theorem words_group9 :
    ([0x9090039D, 0x91000005, 0x92621703, 0x9382142B, 0x942216D6, 0x956216D6, 0x96821456, 0x9702159D,
      0x99421703, 0x9A821456, 0x9B000056, 0x9C421456] : List Nat).map (decodeTableWord 32) =
    [.kset .onFalse .minus true 413,
     .kchain .always 5,
     .kidx .onTrue 2 (.left 5) (.port 3),
     .klast .onFalse 5 3 (.left 5),
     .sgen .always 2 726 (.left 5),
     .sgrun .onTrue 2 726 (.left 5),
     .psrc .onFalse 86 (.left 5),
     .psnk .always 3 29 (.left 5),
     .bustx .onTrue (.left 5) (.port 3),
     .busrx .onFalse 86 (.left 5),
     .ctlsnd .always 86,
     .ctlrcv .onTrue 86 (.left 5)].map some := by
  decide

/-- Words of group 0xA, engine, written out from the spec: opcode [31:24], predicate mode [23:22], xop [21:20], target A
[19:10], target B or field [9:0] (R37, R39, R51). -/
theorem words_groupA :
    ([0xA0821456, 0xA1021456, 0xA2421456, 0xA3821456, 0xA4021400, 0xA5421400, 0xA6821456, 0xA7021406,
      0xA8421406, 0xA9821406, 0xAA021406, 0xAB421406] : List Nat).map (decodeTableWord 32) =
    [.cqapp .onFalse 86 (.left 5),
     .cqtail .always 86 (.left 5),
     .cqseq .onTrue 86 (.left 5),
     .cqwait .onFalse 86 (.left 5),
     .evpop .always (.left 5),
     .evpeek .onTrue (.left 5),
     .cqabrt .onFalse 86 (.left 5),
     .clapp .always 6 (.left 5),
     .cltail .onTrue 6 (.left 5),
     .clseq .onFalse 6 (.left 5),
     .clwait .always 6 (.left 5),
     .clabrt .onTrue 6 (.left 5)].map some := by
  decide

/-- Words of group 0xB, Geode, written out from the spec: opcode [31:24], predicate mode [23:22], xop [21:20], target A
[19:10], target B or field [9:0] (R37, R39, R51). -/
theorem words_groupB :
    ([0xB0821406, 0xB1021406, 0xB242156D, 0xB382156D, 0xB402156D, 0xB542156D, 0xB682149D, 0xB7021406,
      0xB8421406, 0xB9821406, 0xBA02145D, 0xBB42143D] : List Nat).map (decodeTableWord 32) =
    [.gtinit .onFalse 6 (.left 5),
     .gtroot .always 6 (.left 5),
     .gtdesc .onTrue 22 13 (.left 5),
     .gtexp .onFalse 22 13 (.left 5),
     .gtback .always 22 13 (.left 5),
     .gtvl .onTrue 22 13 (.left 5),
     .gtread .onFalse 9 13 (.left 5),
     .gtbest .always 6 (.left 5),
     .gtreroot .onTrue 6 (.left 5),
     .gtfree .onFalse 6 (.left 5),
     .gtstat .always 5 13 (.left 5),
     .gtparm .onTrue 3 13 (.left 5)].map some := by
  decide

/-- Words of group 0xC, coordination, written out from the spec: opcode [31:24], predicate mode [23:22], xop [21:20], target A
[19:10], target B or field [9:0] (R37, R39, R51). -/
theorem words_groupC :
    ([0xC0921400, 0xC1121400, 0xC2400006, 0xC3800000, 0xC4121400, 0xC5621400, 0xC68214D6, 0xC70214D6,
      0xC84214D6, 0xC9921400, 0xCA021400, 0xCB521400, 0xCC921703, 0xCD021406, 0xCE421400, 0xCF821400] : List Nat).map (decodeTableWord 32) =
    [.tspawn .onFalse true (.left 5),
     .trange .always true (.left 5),
     .tpop .onTrue 6,
     .tidle .onFalse,
     .tdone .always true (.left 5),
     .tdep .onTrue .w (.left 5),
     .gjoin .onFalse 214 (.left 5),
     .gleave .always 214 (.left 5),
     .gbar .onTrue 214 (.left 5),
     .lkacq .onFalse true (.left 5),
     .lkrel .always (.left 5),
     .qpush .onTrue true (.left 5),
     .qpop .onFalse true (.left 5) (.port 3),
     .wreg .always 6 (.left 5),
     .wdereg .onTrue (.left 5),
     .prio .onFalse (.left 5)].map some := by
  decide

/-- Words of group 0xD, splice, written out from the spec: opcode [31:24], predicate mode [23:22], xop [21:20], target A
[19:10], target B or field [9:0] (R37, R39, R51). -/
theorem words_groupD :
    ([0xD00216D6, 0xD14216D6, 0xD28216D6, 0xD3000025, 0xD4421456, 0xD5821400, 0xD6021400, 0xD7521400,
      0xD8821406] : List Nat).map (decodeTableWord 32) =
    [.splins .always 726 (.left 5),
     .splrem .onTrue 726 (.left 5),
     .splbnd .onFalse 726 (.left 5),
     .splack .always 37,
     .stglnk .onTrue 86 (.left 5),
     .stgst .onFalse (.left 5),
     .stgld .always (.left 5),
     .splq .onTrue true (.left 5),
     .foldset .onFalse 6 (.left 5)].map some := by
  decide

/-- Words of group 0xE, context and system, written out from the spec: opcode [31:24], predicate mode [23:22], xop [21:20], target A
[19:10], target B or field [9:0] (R37, R39, R51). -/
theorem words_groupE :
    ([0xE0221400, 0xE1421400, 0xE2A21400, 0xE3021406, 0xE4421425, 0xE5821400, 0xE6021400, 0xE7500001,
      0xE8821587, 0xE9021587, 0xEA521406, 0xEB821400, 0xEC021400, 0xED5214B3, 0xEE821400] : List Nat).map (decodeTableWord 32) =
    [.ctxsv .always .die (.left 5),
     .ctxrs .onTrue (.left 5),
     .tlbinv .onFalse .all (.left 5),
     .mapset .always 6 (.left 5),
     .prmt .onTrue false 2 5 (.left 5),
     .rgnal .onFalse (.left 5),
     .rgnfr .always (.left 5),
     .trapret .onTrue true true,
     .csrrd .onFalse 391 (.left 5),
     .csrwr .always 391 (.left 5),
     .injerr .onTrue true 6 (.left 5),
     .selft .onFalse (.left 5),
     .scan .always (.left 5),
     .elogrd .onTrue true 22 3 (.left 5),
     .attest .onFalse (.left 5)].map some := by
  decide

/-- Words of group 0xF, debug and trace, written out from the spec: opcode [31:24], predicate mode [23:22], xop [21:20], target A
[19:10], target B or field [9:0] (R37, R39, R51). -/
theorem words_groupF :
    ([0xF0221402, 0xF14214D6, 0xF282140B, 0xF30214D5] : List Nat).map (decodeTableWord 32) =
    [.brkr .always .off 2 (.left 5),
     .trcmk .onTrue 214 (.left 5),
     .cycrd .onFalse 11 (.left 5),
     .vchk .always false 213 (.left 5)].map some := by
  decide

/-- The literals of R42: `LIT.S -5000000000 -> n3.r`, `LIT.Z 524289 -> n1.l`, a `.H` and a `.F` literal. -/
theorem words_lit :
    (decodeWords [0x09040FFE#32, 0xD5FA0E00#32]).toOption.map (·.1) = some (.lit .always .s 0x3FED5FA0E00 (.right 3)) ∧
    (decodeWords [0x09120400#32, 0x00080001#32]).toOption.map (·.1) = some (.lit .always .z 524289 (.left 1)) ∧
    (decodeWords [0x09220400#32, 0x00000003#32]).toOption.map (·.1) = some (.lit .always .h 3 (.left 1)) ∧
    (decodeWords [0x09320405#32, 0x3F800000#32]).toOption.map (·.1) = some (.lit .always .f 0x53F800000 (.left 1)) := by
  decide

/-- The LOOPN whose eight words R183's worked case writes out. -/
theorem words_loopn :
    (decodeWords [0x98025201#32, 0x0000001F#32, 0x00000000#32, 0x20400000#32, 0x00000000#32, 0x00000040#32, 0x00080000#32,
      0x00000000#32]).toOption.map (·.1) =
    some (.loopn { op := .add, tag := .f32, nlev := 1, ext := #v[31, 0, 0, 0, 0], win := #v[0, 1, 2],
                   str := #v[1, 0, 0, 0, 0, 1, 0, 0, 0, 0, 1, 0, 0, 0, 0] }) := by
  decide

end Sys2Proof
end

