-- ==== Sys2Proof/Config.lean ====
section
/-! DEFINITION. Config.lean: what the spec leaves to the implementation or leaves open. Every constant here is opaque:
nothing can evaluate it, so a statement holds for every value it may have (log 8). -/

namespace Sys2Proof.Config

/-- The n-th free 64-bit value (log 8). -/
opaque freeValue : Nat → BitVec 64

/-- The n-th free byte: image bytes that no rule lays out (R315, R316; log 8). -/
opaque freeByte : Nat → BitVec 8

/-- Whether both signatures of an image verify and its version suffices: a function of the image's bytes (R346). -/
opaque imageAccepted : List (BitVec 8) → Bool

/-- Whether the firmware found at boot is accepted at the n-th bring-up (R346, R348). -/
opaque bootAccepted : Nat → Bool

/-- Whether the n-th march or scan test of a tile fails (R348, R354). -/
opaque tileTestFails : Nat → Nat → Bool

/-- SHA-384 (R350, R355). -/
opaque sha384 : List (BitVec 8) → BitVec 384

/-- The two signatures of an attestation report over its first 416 bytes: 64 and 3,309 bytes (R355). -/
opaque attestSignature : List (BitVec 8) → Nat → BitVec 8

/-- Digests of the Beryl, Jasper and microcode images, by the image set that runs (R355). -/
opaque firmwareDigest : Nat → Nat → BitVec 384

/-- Package serial number (R355). -/
opaque packageSerial : BitVec 64

/-- Fused security version (R355). -/
opaque securityVersion : BitVec 64

/-- Granules of 4 KiB of free storage that a die has after reset (R308; log 5). -/
opaque freeStorage : Nat → Nat

/-- Syndrome, margin and other measured words of error logs and predictive records (R350, R351). -/
opaque measured : Nat → BitVec 32

end Sys2Proof.Config
end

