-- ==== Sys2Proof/Machine/State.lean ====
section
/-! DEFINITION. Machine/State.lean: everything the spec gives one Garavo G3 package, as plain data, and the package
right after reset. -/

namespace Sys2Proof.Machine

open Sys2Proof

/-- Why a step stops the machine. -/
inductive Fault where
  /-- Raised by LAUNCH_TAKE and LAUNCH_COMPLETION where the ring or completion address is one that nothing stands behind: a
  granule of the aperture that Jasper's table does not map, or from 2^49 upward (R339). No strand makes the access, so there
  is none to take the cause. Safe: the hardware may go on. -/
  | physicalHole (pa : Nat)
  deriving DecidableEq, Repr

/-- Why a step has no meaning. -/
inductive Refusal where
  /-- Raised by an arm of the dispatch that has no meaning yet. Safe. -/
  | notModelled (mnemonic : String)
  /-- Raised by the step where the agenda names a slot whose word is no instruction: block load lets no such block
  run (R53). Safe. -/
  | notAnInstruction (slot : Nat)
  deriving DecidableEq, Repr

/-- A token (R89, R90, R92, R100): data, side band, tag, scalar flag and the five marker bits. -/
structure Tok where
  tag : Tag
  scalar : Bool
  data : BitVec 1024
  side : BitVec 64
  mark : BitVec 5
  deriving DecidableEq, Repr

/-- What a link carries: a token or a skip (R134). -/
inductive Item where
  | tok (t : Tok)
  | skip
  deriving DecidableEq, Repr

/-- Operand positions (R39, R95). -/
inductive Pos where
  | left | right | pred | third
  deriving DecidableEq, Repr

/-- A token row of a window element or operand slot: data, side band, tag, valid bits and the poison mark
(R145, R152, R318). -/
structure Row where
  data : BitVec 1024
  side : BitVec 64
  tag : Tag
  valid : BitVec 32
  bad : Bool
  deriving DecidableEq, Repr

/-- The firing under way (log 2): the node, whether its block runs in handler mode (R118), its iteration with the
iteration's marker bits (R62), and the operand tokens it holds. -/
structure Firing where
  k : Nat
  hand : Bool
  copy : Nat
  slot : Nat
  iter : Nat
  its : BitVec 5
  left : Option Tok
  right : Option Tok
  pred : Option Tok
  third : Option Tok
  deriving DecidableEq, Repr

/-- Generic memory: bytes by physical address, in canonical form (rising addresses, no byte equal to what an unlisted
address reads as). -/
structure Memory where
  cells : List Host.Cell
  deriving DecidableEq, Repr

/-- A causal stamp: one count per die (R63). The counts are naturals (log 9). -/
abbrev Stamp := Vector Nat 4

/-- What a message does at the home (R61, R69, R84, R88, R250, R251). -/
inductive HomeOp where
  | write (pa : Nat) (bytes : List Byte)
  | read (pa len : Nat)
  | amog (op : AmoOp) (pa w : Nat) (r t : Nat)
  | mona (pa w : Nat)
  | lockAcq (pa : Nat) (test : Bool)
  | lockRel (pa : Nat)
  | push (pa : Nat) (v : BitVec 64) (test : Bool)
  | pop (pa : Nat) (test : Bool)
  deriving DecidableEq, Repr

/-- Who waits for a response, an acknowledgement or a walk: of a node, strand, whether its block runs in handler mode,
copy, slot and iteration. -/
inductive Req where
  | node (k : Nat) (hand : Bool) (copy slot iter : Nat)
  | chain (k ch : Nat)
  | coll (k ch : Nat)
  | gen (d tile g : Nat)
  | geode (k slot : Nat)
  /-- the strand's sequencer: block fetches, preloads and reads at a block edge -/
  | seq (k : Nat)
  | nobody
  deriving DecidableEq, Repr

/-- A message on a die-to-home path: its number among the die's writes, its stamp, its operation and who asked. -/
structure Msg where
  num : Nat
  stamp : Stamp
  op : HomeOp
  req : Req
  deriving DecidableEq, Repr

/-- A response or acknowledgement on its way back: the bytes, the home and its dependency vector (R63); `bad` is the
cause of an access that failed at its home, with s31 in the bytes, else 0. -/
structure Resp where
  req : Req
  bytes : List Byte
  vec : Stamp
  home : Nat
  bad : Nat
  deriving DecidableEq, Repr

/-- A generic access of a node: the virtual address, the width, what is read or written, and how the result becomes a
token (R82, R83). -/
inductive AccOp where
  | load | store (bytes : List Byte) | amog (op : AmoOp) (r t : Nat) | mona
  | lockAcq (test : Bool) | lockRel | push (v : BitVec 64) (test : Bool) | pop (test : Bool)
  deriving DecidableEq, Repr

/-- See `AccOp`. -/
structure Access where
  va : Nat
  w : Nat
  op : AccOp
  tag : Tag
  vec : Bool
  acq : Bool
  deriving DecidableEq, Repr

/-- What an operation in flight waits for (R112, R153, R252). -/
inductive Why where
  | memory
  | xlat (page : Nat)
  | order
  | winRead (k w off : Nat)
  | winFill (k w off : Nat)
  | opRead (d tile off : Nat)
  | opFill (d tile : Nat)
  | gang (g phase : Nat)
  | lock (pa : Nat)
  | queue (pa : Nat)
  | monitor (pa : Nat)
  | copySeq (ch v : Nat)
  | collSeq (ch v : Nat)
  | events
  | task (handle : Nat)
  | idle
  | geode (t reason off k w : Nat)
  | stream (d tile g : Nat)
  | ksegment
  | save (k : Nat)
  | log
  /-- a grant or pop that waits for room in the log, or for its turn in replay (R335, R337); it registers no entry -/
  | logged (pa : Nat)
  | abort (ch : Nat)
  /-- a group 0xE member: RGNAL waits for saves, PRMT for its shrink -/
  | region
  | fold (k : Nat)
  deriving DecidableEq, Repr

/-- An operation in flight: the firing it belongs to, what it waits for, its access, its progress, and whether its
wait stands in the wait-for table. -/
structure Pend where
  fire : Firing
  why : Why
  acc : Option Access
  prog : List Nat
  reg : Bool
  deriving DecidableEq, Repr

/-- An output not yet accepted (R136): iteration, target, whether it is target B, the item, and whether its port fill
stands in the wait-for table (R153). -/
structure Out where
  iter : Nat
  tgt : Tgt
  b : Bool
  item : Item
  reg : Bool
  deriving DecidableEq, Repr

/-- A node of the running block: iterations begun, operations done (local iteration counts of its copy), operations in
flight, outputs held, the carried operand (R172) and a marker stop (R187). -/
structure Node where
  copy : Nat
  slot : Nat
  cfg : Bool
  fired : Nat
  done : Nat
  pend : List Pend
  out : List Out
  carry : Option Tok
  stopped : Bool
  deriving DecidableEq, Repr

/-- A link's four-entry buffer (R136): producer slot and target, consumer slot and position, the items with their
iterations, and what a LIT or READS sent for every iteration: its token, or a skip (R133, R134). -/
structure Link where
  copy : Nat
  src : Nat
  b : Bool
  slot : Nat
  pos : Pos
  items : List (Nat × Item)
  const : Option Item
  deriving DecidableEq, Repr

/-- A register write that is held until the exit (R40): register, iteration number, slot, copy, value and tag. -/
structure RegWrite where
  reg : Nat
  iter : Nat
  slot : Nat
  copy : Nat
  val : BitVec 64
  tag : Tag
  deriving DecidableEq, Repr

/-- A pending trap (R117): cause, origin word, s31, and whether it arose at an exit or a strand-register target. -/
structure Trap where
  cause : Nat
  origin : Nat
  extra : Nat
  atExit : Bool
  deriving DecidableEq, Repr

/-- What an exit that fired does at the edge (R124, R119, R190, R262). -/
inductive ExitAct where
  | goto (n : Nat)
  | addr (a : Nat)
  | call (c ret : Nat)
  | ret
  | trapi (code n : Nat)
  | brks (id n : Nat)
  | halts
  | trapret (restore : Bool) (a : Option Nat)
  | splack (c : Nat)
  /-- SPLACK's action has begun and runs to its completion (R190) -/
  | splicing (c : Nat)
  | enterTask (handle : Nat) (lo hi : Int)
  | tpop (n : Nat)
  /-- a splice marker is on its way to the output port; then the block at `next` is entered, splice mode cleared where
  `ends` -/
  | passing (next : Nat) (ends : Bool)
  /-- as `passing`, for a stage that is removed then -/
  | removing
  /-- the descriptor is captured again and SPLACK's action runs from its start (R192) -/
  | resplice
  /-- the elements behind a removed stage's marker are on their way to its output channel (R193) -/
  | relinking
  deriving DecidableEq, Repr

/-- A captured block (R45, R48). -/
structure Block where
  addr : Nat
  htype : Nat
  ninst : Nat
  rows : Nat
  cols : Nat
  nchain : Nat
  nstore : Nat
  nexit : Nat
  rdmask : BitVec 32
  wrmask : BitVec 32
  nmseq : Nat
  nconv : Nat
  fold : Nat
  rsid : Nat
  words : List (BitVec 32)
  exits : List (BitVec 64)
  deriving DecidableEq, Repr

/-- A counter chain: extents and strides by level (R137). -/
structure Chain where
  ext : List Nat
  str : List Int
  deriving DecidableEq, Repr

/-- A running or suspended block. -/
structure Run where
  blk : Block
  nodes : List Node
  links : List Link
  regw : List RegWrite
  /-- ENTER (some id) and LEAVE (none) that fired, by slot -/
  stackOps : List (Nat × Option Nat)
  traps : List Trap
  /-- exits that fired: slot, copy, act -/
  exits : List (Nat × Nat × ExitAct)
  chains : List Chain
  /-- some copy made a marker stop (R187) -/
  mstop : Bool
  /-- the stage input's head when the block began (R188) -/
  head0 : BitVec 32
  /-- the constant store this block reads: 0 or 1 (R59) -/
  kstore : Nat
  /-- the block runs in handler mode (R118) -/
  hand : Bool
  deriving DecidableEq, Repr

/-- Where a strand stands between its steps. -/
inductive Phase where
  | preload (n : Nat)
  | enter
  | run
  | edge
  | ending (code : Nat)
  | stopped
  deriving DecidableEq, Repr

/-- States of a window (R148). -/
inductive WState where
  | closed | opened | linked
  deriving DecidableEq, Repr

/-- A channel fill in flight (R155): the producer's node, whether its block runs in handler mode, its row, or an
end-of-stream marker, whether the window takes its tag, and the producer's stamp as it was issued (R67). -/
structure Fill where
  k : Nat
  hand : Bool
  copy : Nat
  slot : Nat
  row : Row
  marker : Bool
  /-- the window takes the token's tag (R150) -/
  fits : Bool
  stamp : Stamp
  deriving DecidableEq, Repr

/-- A window: the descriptor of R145, its tile and index, its rows by ring position, and the operations the
descriptor does not show. -/
structure Win where
  head : BitVec 32
  tail : BitVec 32
  capm1 : BitVec 16
  esz : BitVec 3
  tag : Tag
  base : BitVec 15
  vmode : Bool
  spill : Bool
  state : WState
  eos : Bool
  filler : BitVec 16
  drainer : BitVec 16
  rbase : BitVec 56
  rsize : BitVec 4
  rhead : BitVec 16
  rtail : BitVec 16
  tile : Nat
  index : Nat
  /-- rows by (absolute element count) × rpe + row -/
  rows : List (Nat × Row)
  /-- rows of the reserved tail element that stand filled (R150) -/
  frow : Nat
  /-- rows of the ring entry at rtail that stand written (R156) -/
  rrow : Nat
  /-- a `.OFF` has fired and has not completed (R156) -/
  closing : Bool
  /-- channel fills in flight, oldest first -/
  link : List Fill
  /-- the producer bound by WLINK: strand key and port -/
  producer : Option (Nat × Nat)
  /-- the stamps of the element slots: by slot what the last fill, and the shrink that freed the slot, had seen (R67); by
  65,536 + entry number, those of the spill ring's entries -/
  stamps : List (Nat × Stamp)
  deriving DecidableEq, Repr

/-- A window that a launch declares (R33, R144; log 7). -/
structure WinDecl where
  num : Nat
  row : Nat
  col : Nat
  index : Nat
  elem : Nat
  slots : Nat
  tag : Tag
  base : Nat
  /-- data address and number of 128-byte rows of init= -/
  init : Option (Nat × Nat)
  deriving DecidableEq, Repr

/-- States of a copy or collective chain (R202, R227). -/
inductive CState where
  | idle | running | waiting | eventq | halted
  deriving DecidableEq, Repr

/-- A copy chain (R202): pointers, counter, state, status, the captured record with its row position. -/
structure CopyChain where
  first : Nat
  append : Nat
  tail : Nat
  pos : Nat
  cseq : BitVec 32
  cstate : CState
  cstat : BitVec 8
  recd : List Byte
  row : Nat
  /-- the row that has been read and waits for its place (R206) -/
  got : Option (List Byte)
  win : Option (Nat × Nat)
  stamp : Stamp
  outst : Nat
  aborting : Bool
  /-- a translation fault service is under way (R212) -/
  serv : Bool
  deriving DecidableEq, Repr

/-- A step of a collective chain (R223): what the record and descriptor give, and how far the step is. -/
structure CollStep where
  key : BitVec 64
  kind : Nat
  s : Nat
  n : Nat
  p : Nat
  r : Nat
  q : Nat
  tag : Tag
  flags : BitVec 8
  seqv : BitVec 32
  src : Nat
  dst : Nat
  scr : Nat
  qpkg : Nat
  qdie : Nat
  notice : Bool
  sent : Bool
  /-- the partner's data has been applied -/
  got : Bool
  /-- of RSH, the elements of the keep range written, once the partner's data stands in scratch (R223) -/
  kept : Option Nat
  deriving DecidableEq, Repr

/-- A collective chain (R227). -/
structure CollChain where
  first : Nat
  append : Nat
  tail : Nat
  pos : Nat
  cseq : BitVec 32
  cstate : CState
  cstat : BitVec 8
  step : Option CollStep
  wait : Nat
  stamp : Stamp
  outst : Nat
  aborting : Bool
  serv : Bool
  /-- the event record that waits for room (R203, R227) -/
  event : Option (BitVec 64)
  deriving DecidableEq, Repr

/-- A message between collective engines (R223, R232): the package and die it goes to, the step's key, kind and number,
the sender's rank. -/
inductive NetMsg where
  | notice (pkg die : Nat) (key : BitVec 64) (kind s n : Nat) (tag : Tag) (frm : Nat)
  | data (pkg die : Nat) (key : BitVec 64) (kind s : Nat) (frm : Nat) (bytes : List Byte)
  | abort (pkg die : Nat) (key : BitVec 64) (kind s : Nat) (frm : Nat)
  deriving DecidableEq, Repr

/-- A piece of a task in a deque or pool (R244, R246). -/
structure Piece where
  handle : Nat
  lo : Int
  hi : Int
  deriving DecidableEq, Repr

/-- States of a graph task (R243). -/
inductive TState where
  | held | pending | ready | running
  deriving DecidableEq, Repr

/-- A task-store entry in use (R241, R242). -/
structure Task where
  ctx : Nat
  range : Bool
  entry : BitVec 64
  arg : BitVec 64
  a2 : BitVec 64
  grain : Nat
  win0 : BitVec 64
  win1 : BitVec 64
  prio : Nat
  state : TState
  preds : Nat
  succs : List Nat
  /-- pieces not yet completed (R246) -/
  live : Nat
  /-- a piece was completed as failed (R248) -/
  failed : Bool
  stamp : Stamp
  deriving DecidableEq, Repr

/-- A gang (R249). -/
structure Gang where
  members : List Nat
  arrived : List Nat
  phase : BitVec 32
  stamp : Stamp
  deriving DecidableEq, Repr

/-- A wait-for entry (R252), with the wait that it stands for; `told` once a walk or sweep has reported a cycle through
it (R254). -/
structure WfEnt where
  obj : BitVec 64
  off : BitVec 32
  waiter : BitVec 16
  owner : BitVec 16
  kind : Nat
  hmark : Bool
  sw : Bool
  ctx : Nat
  who : WaiterRef
  /-- the iteration of the wait (R274) -/
  iter : Nat
  told : Bool
  deriving DecidableEq, Repr

/-- A bound Geode tree (R275, R276, R278). -/
structure Tree where
  base : Nat
  cap : Nat
  limit : Nat
  c : BitVec 32
  vloss : BitVec 32
  fpu : BitVec 32
  alt : Bool
  grow : Bool
  root : Bool
  next : Nat
  /-- free runs (start, length), by index -/
  runs : List (Nat × Nat)
  /-- blocks awaiting lazy freeing: (first, count, issuer) -/
  queue : List (Nat × Nat × Nat)
  gen : Nat
  /-- traps of lazy freeing whose issuer has ended (R278): cause, address -/
  owed : List (Nat × Nat)
  /-- an allocation waits for host growth (R292) -/
  growing : Bool
  /-- the engine's arena writes (R279) -/
  stamp : Stamp
  deriving DecidableEq, Repr

/-- A live ticket (R282). -/
structure Ticket where
  serial : Nat
  ctx : Nat
  tree : Nat
  leaf : Nat
  issuer : Nat
  order : Nat
  deriving DecidableEq, Repr

/-- A stream generator that runs (R159, R160). -/
structure Stream where
  k : Nat
  w : Nat
  run : Bool
  recd : List Byte
  addr : Nat
  /-- elements filled (SGEN), or entry index (SGRUN) -/
  pos : Nat
  /-- token within the entry -/
  tok : Nat
  /-- the current entry, once read -/
  ent : List Byte
  captured : Bool
  /-- 0 running, 1 absent page found, 2 waiting on a task, 3 store full, 4 with Jasper, 5 entry to be read again -/
  wait : Nat
  handle : Nat
  stamp : Stamp
  node : Option (Nat × Nat)
  reg : Bool
  deriving DecidableEq, Repr

/-- A translation held by a tile's cache (R304). -/
structure Xlat where
  tile : Nat
  ctx : Nat
  page : Nat
  size : Nat
  pa : Nat
  place : Nat
  rd : Bool
  wr : Bool
  fx : Bool
  deriving DecidableEq, Repr

/-- A walk in flight (R304, R305): context, 16 KiB-aligned page of the access, access kind (bit 0 read, bit 1 write,
bit 2 fetch), first requester's tile, its effective priority, the fault record's number once it stands in the ring, a
decline, the accesses that wait for it, and the join of their stamps. -/
structure Walk where
  ctx : Nat
  page : Nat
  acc : Nat
  tile : Nat
  prio : Nat
  seq : Option Nat
  declined : Bool
  who : List Req
  stamp : Stamp
  deriving DecidableEq, Repr

/-- A region held (R15, R309): origin, shape, context and the strand that runs on it, if any. -/
structure Region where
  r : Nat
  c : Nat
  rows : Nat
  cols : Nat
  ctx : Nat
  strand : Option Nat
  deriving DecidableEq, Repr

/-- An accumulator state word (R102). -/
structure Acc where
  acc : BitVec 96
  anchor : BitVec 10
  aset : Bool
  pinned : Bool
  inexact : Bool
  reanch : Bool
  nan : Bool
  infp : Bool
  infn : Bool
  tag : BitVec 4
  deriving DecidableEq, Repr

/-- The operand window of a C-tile (R174, R177). -/
structure OpWin where
  head : BitVec 32
  tail : BitVec 32
  claim : Nat
  /-- rows of the slot being filled -/
  frow : Nat
  rows : List (Nat × Row)
  deriving DecidableEq, Repr

/-- Cycle account of a node slot (R325, R326): ten classes, the interval's length, block and rsid. -/
structure Acct where
  cls : Vector Nat 10
  len : Nat
  blk : Nat
  rsid : Nat
  deriving DecidableEq, Repr

/-- An error-log entry (R350). -/
structure LogEnt where
  addr : BitVec 64
  syndrome : BitVec 32
  array : Nat
  flags : BitVec 8
  tile : BitVec 16
  ctx : BitVec 8
  seq : BitVec 32
  cyc : BitVec 64
  deriving DecidableEq, Repr

/-- An error log: the entries still held, oldest first, the next sequence number, the digest (R350). -/
structure ErrLog where
  ents : List LogEnt
  next : Nat
  digest : BitVec 384
  deriving DecidableEq, Repr

/-- A predictive record (R351). -/
structure Pred where
  index : Nat
  count : Nat
  extra : BitVec 64
  cyc : BitVec 64
  deriving DecidableEq, Repr

/-- A constant store of a context on a die (R59). -/
structure KStore where
  bytes : List Byte
  len : Nat
  deriving DecidableEq, Repr

/-- The two constant stores, which one is current, and a copy under way for a CSRWR: the node and what it wrote. -/
structure KPair where
  s0 : KStore
  s1 : KStore
  cur : Nat
  wanted : Bool
  deriving DecidableEq, Repr

/-- One compute die. -/
structure Die where
  cyc : BitVec 64
  mhz : Nat
  mrdloc : BitVec 64
  mrdrem : BitVec 64
  mstcnt : BitVec 64
  wcount : Nat
  paths : Vector (List Msg) 4
  recv : Stamp
  dep : Stamp
  resps : List Resp
  acks : List Resp
  /-- strand key ↦ (line, set) -/
  monitors : List (Nat × Nat × Bool)
  ksegs : List (Nat × KPair)
  tlb : List Xlat
  walks : List Walk
  regions : List Region
  /-- rectangles whose strands are being saved for a requester (R311): who asks, and the rectangle -/
  resv : List (Nat × Region)
  retmap : Vector (BitVec 64) 4
  store : List (Nat × Task)
  gens : List (Nat × BitVec 32)
  pool : List Piece
  locks : List (Nat × List Req)
  queues : List (Nat × List Req)
  wft : List (Nat × WfEnt)
  wfring : BitVec 64
  wfovf : BitVec 64
  wfhost : Bool
  wfrecs : Nat
  /-- overflowed waits that last (R258) -/
  wfover : List WfEnt
  notices : List NetMsg
  tickets : List (Nat × Ticket)
  serial : BitVec 26
  order : Nat
  streams : List (Nat × Stream)
  accs : List (Nat × Acc)
  opwins : List (Nat × OpWin)
  acct : List (Nat × Acct)
  logs : Vector ErrLog 4
  links : List (Nat × Pred)
  banks : List (Nat × Pred)
  rowsPred : List (Nat × Pred)
  /-- armed one-shot errors: array, location, uncorrectable -/
  armed : List (Nat × Nat × Bool)
  deriving DecidableEq, Repr

/-- A launch taken from the ring (R340). -/
structure Launch where
  entry : Nat
  req : BitVec 64
  q : Nat
  overlap : Bool
  comp : Nat
  regs : List (BitVec 64)
  lhead : Nat
  started : Bool
  deriving DecidableEq, Repr

/-- An open context (R16) and its registers. -/
structure Ctx where
  ksegb : BitVec 64
  ksegl : BitVec 64
  thnd : BitVec 64
  clbnd : BitVec 64
  wfrb : BitVec 64
  wfmode : BitVec 64
  wfinj : BitVec 64
  lqpri : BitVec 64
  ptroot : BitVec 64
  fltring : BitVec 64
  fltack : BitVec 64
  pmode : BitVec 64
  psave : BitVec 64
  rgnq : BitVec 64
  ctxpriv : BitVec 64
  trcctl : BitVec 64
  trcbuf : BitVec 64
  trctail : BitVec 64
  trchead : BitVec 64
  trcdrop : BitVec 64
  recctl : BitVec 64
  recbuf : BitVec 64
  rectail : BitVec 64
  rechead : BitVec 64
  lring : BitVec 64
  ldoor : BitVec 64
  lhead : BitVec 64
  hamode : BitVec 64
  /-- frame ranges of the allotment: first frame, count -/
  frames : List (Nat × Nat)
  /-- frames charged beyond one a frame, for placement 110 (R308) -/
  charged : Nat
  queues : List (Nat × List Launch)
  lastq : Nat
  /-- the queues whose head launches could not be granted their regions (R239) -/
  blocked : List Nat
  gangs : List (Nat × Gang)
  /-- trees by 16 × die + number -/
  trees : List (Nat × Tree)
  fltseq : Nat
  /-- posts to Jasper that await an answer: (kind, word) (R192, R292, R259, R311) -/
  posts : List (Nat × Nat)
  /-- window declarations by entry block address (log 7) -/
  decls : List (Nat × List WinDecl)
  deriving DecidableEq, Repr

/-- What a save or restore does to a strand (R314, R320). -/
inductive SaveSt where
  | running
  | asked (addr : Nat) (free : Bool) (issuer : Option (Nat × Nat))
  | saving (addr : Nat) (free : Bool) (issuer : Option (Nat × Nat))
  | saved (addr : Nat)
  deriving DecidableEq, Repr

/-- A strand (R109 and the tables that name per-strand state). -/
structure Strand where
  ctx : Nat
  die : Nat
  lead : Nat
  region : Region
  phase : Phase
  bc : BitVec 64
  regs : Vector (BitVec 64) 32
  rtags : Vector Tag 32
  blink : List (BitVec 64)
  rstack : List (BitVec 8)
  rovf : Bool
  base : Nat
  eff : Nat
  events : List (BitVec 64)
  /-- chains whose event records wait for room, in the order in which their records ended (R210); collective chain n
  stands as 128 + n -/
  evq : List Nat
  tres : BitVec 64
  tstat : BitVec 64
  tsav : Vector (BitVec 64) 4
  stgcfg : BitVec 64
  stghnd : BitVec 64
  stgser : BitVec 64
  splcur : BitVec 64
  splstp : BitVec 64
  spldesc : List Byte
  splpost : Option Nat
  tcur : BitVec 64
  tpiece : Piece
  dbgctl : BitVec 64
  /-- comparators: none disarmed; some (by rsid, value) -/
  brkr : List (Nat × Bool × Nat)
  folds : List (Nat × Nat × Nat × Nat)
  deque : List Piece
  /-- one more than the lead tile of the strand last stolen from; 0 before any theft (R245) -/
  victim : Nat
  wins : List (Nat × Win)
  /-- ports bound by a consumer's WLINK: port ↦ (consumer key, its entry) -/
  chans : List (Nat × Nat × Nat)
  copies : List (Nat × CopyChain)
  colls : List (Nat × CollChain)
  run : Option Run
  susp : Option Run
  /-- traps of engines and generators taken at the next edge -/
  owed : List Trap
  stamp : Stamp
  save : SaveSt
  /-- cycles since the save, shrink or halt was asked for (R312, R314, R328) -/
  asked : Nat
  /-- cycles for which an outcome that is due in replay has not become possible (R337) -/
  overdue : Nat
  /-- the home image: the context whose table maps its address, and the address (R316) -/
  home : Option (Nat × Nat)
  dirty : List Nat
  shrink : Option (Nat × Nat × Option (Nat × Nat))
  launch : Launch
  seqc : BitVec 32
  wake : Bool
  /-- steps 1 to 5 of the present edge are done (R115) -/
  crossed : Bool
  /-- the region has been shrunk under the strand (R198) -/
  shrunk : Bool
  deriving DecidableEq, Repr

/-- An image that a save wrote (R313, R315), with the first bytes of its header: the strand it holds, by its present
key, which stands frozen among the strands until a restore, and from then on in `snap`; the tile state of its region, by
tile number, once the tiles have been given up or restored; or a context's die-wide state (`die`). -/
structure Image where
  ctx : Nat
  addr : Nat
  head : List Byte
  key : Option Nat
  snap : Option Strand
  die : Option Nat
  accs : List (Nat × Acc)
  opwins : List (Nat × OpWin)
  streams : List (Nat × Stream)
  acct : List (Nat × Acct)
  trees : List (Nat × Tree)
  tickets : List (Nat × Ticket)
  tasks : List (Nat × Task)
  pool : List Piece
  deques : List (Nat × List Piece)
  gangs : List (Nat × Gang)
  deriving DecidableEq, Repr

/-- What a granule of the Colnis aperture is mapped onto (R339): pooled memory, or another package's bonded DRAM. -/
inductive Target where
  | pooled (granule : Nat)
  | dram (pkg granule : Nat)
  deriving DecidableEq, Repr

/-- What the job map gives a package (R344): its domain and its Colnis port routes. -/
structure Job where
  domain : Nat
  routes : List Nat
  deriving DecidableEq, Repr

/-- What the firmware processors and other packages do to this one, for which the opcode table has no event. -/
inductive Outside where
  /-- Jasper maps a granule of the aperture, or unmaps it (R339) -/
  | granule (g : Nat) (t : Option Target)
  /-- Jasper installs an entry of the job map, or takes it out (R344) -/
  | job (pkg : Nat) (j : Option Job)
  /-- a collective message arrives from another package (R223) -/
  | message (m : NetMsg)
  /-- a new image is loaded over Paleel in recovery (R346) -/
  | image (id : Nat)
  /-- Jasper learns its package's own number in the job map (R344) -/
  | number (pkg : Nat)
  /-- Beryl records a repair or retirement: the predictive record is cleared (R351) -/
  | repaired (d log i : Nat)
  deriving DecidableEq, Repr

/-- Who moves next (log 1): a node fires, an event takes place, or something happens from outside. -/
inductive Act where
  | fire (k copy slot : Nat)
  | event (e : Event)
  | outside (o : Outside)
  deriving DecidableEq, Repr

/-- A completion record waiting to be written (R343). -/
structure Completion where
  ctx : Nat
  comp : Nat
  code : Nat
  cause : Nat
  ident : Nat
  lhead : Nat
  tres : BitVec 64
  q : Nat
  deriving DecidableEq, Repr

/-- One package. -/
structure State where
  mem : Memory
  /-- frames whose placement is not 000 (R57) -/
  frames : List (Nat × Nat)
  boot : Nat
  recovery : Bool
  /-- the image set that runs: 0 the one of bring-up, then the last one loaded in recovery (R346, R355) -/
  image : Nat
  pwrcap : BitVec 64
  /-- Jasper's Colnis address table: granules of the aperture (R339) -/
  aperture : List (Nat × Target)
  pkg : Nat
  /-- the job map by package number (R344) -/
  jobmap : List (Nat × Job)
  net : List NetMsg
  sent : List NetMsg
  dies : Vector Die 4
  ctxs : List (Nat × Ctx)
  strands : List (Nat × Strand)
  images : List Image
  done : List Completion
  signals : List Nat
  fire : Firing
  agenda : List Act
  free : Nat
  /-- system requests that have arrived (R320) -/
  arrived : Nat
  deriving DecidableEq, Repr

/-- An accumulator that is not listed (R102): empty, with tag 15, as a region grant leaves the tag (R331); acc, anchor and
tag have no reset value (log 3). -/
def Acc.reset : Acc :=
  { acc := 0, anchor := 0, aset := false, pinned := false, inexact := false, reanch := false, nan := false,
    infp := false, infn := false, tag := 15 }

/-- An operand window at launch (R174). -/
def OpWin.reset : OpWin := { head := 0, tail := 0, claim := 0, frow := 0, rows := [] }

/-- An empty error log (R350). -/
def ErrLog.reset : ErrLog := { ents := [], next := 0, digest := 0 }

/-- The zero stamp. -/
def Stamp.zero : Stamp := #v[0, 0, 0, 0]

/-- A die after package reset. -/
def Die.reset : Die :=
  { cyc := 0, mhz := 1500, mrdloc := 0, mrdrem := 0, mstcnt := 0, wcount := 0, paths := #v[[], [], [], []],
    recv := Stamp.zero, dep := Stamp.zero, resps := [], acks := [], monitors := [], ksegs := [], tlb := [], walks := [],
    regions := [], resv := [], retmap := #v[0, 0, 0, 0], store := [], gens := [], pool := [], locks := [],
    queues := [], wft := [], wfring := 0, wfovf := 0, wfhost := false, wfrecs := 0, wfover := [], notices := [], tickets := [],
    serial := 0, order := 0, streams := [], accs := [], opwins := [], acct := [],
    logs := #v[ErrLog.reset, ErrLog.reset, ErrLog.reset, ErrLog.reset], links := [], banks := [], rowsPred := [],
    armed := [] }

/-- A context at its start (R16). -/
def Ctx.start : Ctx :=
  { ksegb := 0, ksegl := 0, thnd := 0, clbnd := 0, wfrb := 0, wfmode := 0, wfinj := 0, lqpri := 0, ptroot := 0,
    fltring := 0, fltack := 0, pmode := 0, psave := 0, rgnq := 0, ctxpriv := 0, trcctl := 0, trcbuf := 0, trctail := 0,
    trchead := 0, trcdrop := 0, recctl := 0, recbuf := 0, rectail := 0, rechead := 0, lring := 0, ldoor := 0,
    lhead := 0, hamode := 0, frames := [], charged := 0, queues := [], lastq := 15, blocked := [], gangs := [], trees := [],
    fltseq := 0, posts := [], decls := [] }

/-- A launch of nothing. -/
def Launch.zero : Launch :=
  { entry := 0, req := 0, q := 0, overlap := false, comp := 0, regs := [], lhead := 0, started := false }

/-- A region of no tiles. -/
def Region.zero : Region := { r := 0, c := 0, rows := 0, cols := 0, ctx := 0, strand := none }

/-- A strand as a launch starts it, before its launch registers and region are set (R36, R109). -/
def Strand.init : Strand :=
  { ctx := 0, die := 0, lead := 0, region := Region.zero, phase := .stopped, bc := 0,
    regs := Vector.replicate 32 0, rtags := Vector.replicate 32 .i64, blink := [], rstack := [], rovf := false,
    base := 0, eff := 0, events := [], evq := [], tres := 0, tstat := 0, tsav := #v[0, 0, 0, 0], stgcfg := 0,
    stghnd := 0, stgser := 0, splcur := 0, splstp := 0, spldesc := [], splpost := none, tcur := 0,
    tpiece := { handle := 0, lo := 0, hi := 0 }, dbgctl := 0, brkr := [], folds := [], deque := [], victim := 0,
    wins := [], chans := [], copies := [], colls := [], run := none, susp := none, owed := [], stamp := Stamp.zero,
    save := .running, asked := 0, overdue := 0, home := none, dirty := [], shrink := none, launch := Launch.zero, seqc := 0, wake := false,
    crossed := false, shrunk := false }

/-- No firing. -/
def Firing.zero : Firing :=
  { k := 0, hand := false, copy := 0, slot := 0, iter := 0, its := 0, left := none, right := none, pred := none, third := none }

/-- The package right after reset (R6, R16, R57, R348): no context is open, no strand runs, bring-up has completed no
stage, memory lists nothing. -/
def State.reset : State :=
  { mem := { cells := [] }, frames := [], boot := 0, recovery := false, image := 0, pwrcap := 2200, aperture := [], pkg := 0,
    jobmap := [(0, { domain := 0, routes := [] })], net := [], sent := [], dies := #v[Die.reset, Die.reset, Die.reset, Die.reset], ctxs := [],
    strands := [], images := [], done := [], signals := [], fire := Firing.zero, agenda := [], free := 0, arrived := 0 }

end Sys2Proof.Machine
end

