-- ==== Sys2Proof/Machine/Ops.lean ====
section
/-! DEFINITION. Machine/Ops.lean: the named operations that every meaning is written over: finite maps, memory, tokens,
the parts of a state, a node's firing and its outputs, pending traps, trap entry and the return from it. -/

namespace Sys2Proof.Machine

open Sys2Proof

/-- What a finite map holds at a key. -/
def look {α : Type} (k : Nat) : List (Nat × α) → Option α
  | [] => none
  | (j, v) :: l => if j = k then some v else look k l

/-- A finite map with a key set, keys rising. -/
def put {α : Type} (k : Nat) (v : α) : List (Nat × α) → List (Nat × α)
  | [] => [(k, v)]
  | (j, w) :: l =>
    if k < j then (k, v) :: (j, w) :: l else if k = j then (k, v) :: l else (j, w) :: put k v l

/-- A finite map without a key. -/
def del {α : Type} (k : Nat) (l : List (Nat × α)) : List (Nat × α) := l.filter fun e => e.1 != k

/-- A finite map with the value at a key changed, where it holds one. -/
def modAt {α : Type} (k : Nat) (f : α → α) (l : List (Nat × α)) : List (Nat × α) :=
  l.map fun e => if e.1 = k then (e.1, f e.2) else e

/-- The lowest key from k on that is not in use, of the next n keys. -/
def freeKeyFrom {α : Type} (l : List (Nat × α)) : Nat → Nat → Option Nat
  | 0, _ => none
  | n + 1, k => if (look k l).isNone then some k else freeKeyFrom l n (k + 1)

/-- The lowest key below `bound` that is not in use. -/
def freeKey {α : Type} (bound : Nat) (l : List (Nat × α)) : Option Nat := freeKeyFrom l bound 0

/-- A list in the order that `before` gives, equals as they stood. -/
def insertBy {α : Type} (before : α → α → Bool) (a : α) : List α → List α
  | [] => [a]
  | b :: l => if before b a then b :: insertBy before a l else a :: b :: l

/-- See `insertBy`. -/
def sortBy {α : Type} (before : α → α → Bool) (l : List α) : List α := l.foldr (insertBy before) []

/-- Keys rising strictly. -/
def rising : List Nat → Bool
  | [] => true
  | [_] => true
  | a :: b :: l => a < b && rising (b :: l)

/-- The canonical form of memory: addresses rise strictly and no listed byte is 0, what an unlisted address reads as
(log 4). -/
def Memory.wf (m : Memory) : Bool := rising (m.cells.map (·.1)) && m.cells.all fun c => c.2 != 0

/-- The byte at a physical address (R3; log 4). -/
def Memory.read (m : Memory) (a : Nat) : Byte := (look a m.cells).getD 0

/-- One byte written. -/
def Memory.write (m : Memory) (a : Nat) (b : Byte) : Memory :=
  { cells := if b = 0 then del a m.cells else put a b m.cells }

/-- n bytes from an address. -/
def Memory.readN (m : Memory) (a n : Nat) : List Byte := (List.range n).map fun i => m.read (a + i)

/-- Bytes written from an address upwards. -/
def Memory.writeN (m : Memory) (a : Nat) : List Byte → Memory
  | [] => m
  | b :: bs => (m.write a b).writeN (a + 1) bs

/-- The little-endian number of n bytes (R3). -/
def Memory.readNat (m : Memory) (a n : Nat) : Nat := leNat (m.readN a n)

/-- Bits hi to lo of a number. -/
def bits (v hi lo : Nat) : Nat := v / 2 ^ lo % 2 ^ (hi + 1 - lo)

/-- One bit of a number. -/
def bit (v i : Nat) : Bool := v / 2 ^ i % 2 == 1

/-- Two's complement reading of w bits (R1). -/
def signed (w v : Nat) : Int :=
  if v % 2 ^ w < 2 ^ (w - 1) then (v % 2 ^ w : Nat) else (v % 2 ^ w : Nat) - (2 ^ w : Nat)

/-- An integer reduced to w bits (R7, R129). -/
def wrap (w : Nat) (v : Int) : Nat := (v % (2 ^ w : Nat)).toNat

/-- The number of a list of w-bit lanes, lane 0 lowest (R89). -/
def lanesNat (w : Nat) : List Nat → Nat
  | [] => 0
  | x :: xs => x % 2 ^ w + 2 ^ w * lanesNat w xs

/-- Lanes of a token of a tag (R89). -/
def Tag.lanes : Tag → Nat
  | .raw => 1 | .i8 => 128 | .i16 => 64 | .i32 => 32 | .i64 => 16 | .f32 => 32 | .bf16 => 64 | .f16 => 64
  | .f8e4 => 128 | .f8e5 => 128 | .bfx8 => 128 | .bfx6 => 128 | .pred => 128 | .idx => 1 | .mark => 1 | .poison => 1

/-- Lane i of a token whose elements have w bits (R89). -/
def Tok.lane (t : Tok) (w i : Nat) : Nat := t.data.toNat / 2 ^ (w * i) % 2 ^ w

/-- The value of a scalar token, or lane 0 (R90). -/
def Tok.value (t : Tok) : Nat := t.lane (if t.tag = .raw then 64 else if t.tag.width = 0 then 64 else t.tag.width) 0

/-- The low 64 data bits (R110). -/
def Tok.word (t : Tok) : Word := BitVec.ofNat 64 t.data.toNat

/-- The lanes of a token (R89), a scalar copied into every lane (R90). -/
def Tok.laneList (t : Tok) : List Nat :=
  (List.range (Tag.lanes t.tag)).map fun i => t.lane t.tag.width (if t.scalar then 0 else i)

/-- A scalar token (R90). -/
def Tok.scalarOf (tag : Tag) (v : Nat) (mark : BitVec 5) : Tok :=
  { tag := tag, scalar := true, data := BitVec.ofNat 1024 (v % 2 ^ (max tag.width 1)), side := 0, mark := mark }

/-- A vector token of lanes (R89). -/
def Tok.vectorOf (tag : Tag) (l : List Nat) (mark : BitVec 5) : Tok :=
  { tag := tag, scalar := false, data := BitVec.ofNat 1024 (lanesNat tag.width l), side := 0, mark := mark }

/-- A scalar I64 token. -/
def Tok.i64 (v : Nat) (mark : BitVec 5) : Tok := Tok.scalarOf .i64 v mark

/-- A scalar PRED token (R93). -/
def Tok.pred (b : Bool) (mark : BitVec 5) : Tok := Tok.scalarOf .pred (if b then 1 else 0) mark

/-- A completion token: a scalar PRED token of value true with the iteration's marker bits (R62). -/
def Tok.done (mark : BitVec 5) : Tok := Tok.pred true mark

/-- A POISON token: cause in data bits [71:64], origin in [63:0] (R94). -/
def Tok.poisonOf (cause origin : Nat) (mark : BitVec 5) : Tok :=
  { tag := .poison, scalar := true, data := BitVec.ofNat 1024 (cause % 256 * 2 ^ 64 + origin % 2 ^ 64), side := 0,
    mark := mark }

/-- Cause of a POISON token (R94). -/
def Tok.cause (t : Tok) : Nat := bits t.data.toNat 71 64

/-- Origin of a POISON token (R94). -/
def Tok.origin (t : Tok) : Nat := bits t.data.toNat 63 0

/-- A row as it stands before anything fills it. -/
def Row.zero : Row := { data := 0, side := 0, tag := .raw, valid := 0, bad := false }

/-- The bytes of a row's data, n of them (R152). -/
def Row.bytes (r : Row) (n : Nat) : List Byte := leBytes n r.data.toNat

/-- A row in the format of WSAVE: side band, tag, zeros, valid bits, then min(elem, 128) data bytes; the poison mark
stands in byte 9, bit 0 (R152, R318). -/
def Row.image (r : Row) (n : Nat) : List Byte :=
  leBytes 8 r.side.toNat ++ leBytes 1 r.tag.code ++ leBytes 3 (if r.bad then 1 else 0) ++ leBytes 4 r.valid.toNat
    ++ r.bytes n

/-- A row from its image (R152). -/
def Row.ofImage (bs : List Byte) : Row :=
  { side := BitVec.ofNat 64 (leNat (bs.take 8)), tag := Tag.ofCode (leNat ((bs.drop 8).take 1) % 16),
    bad := leNat ((bs.drop 9).take 1) % 2 == 1, valid := BitVec.ofNat 32 (leNat ((bs.drop 12).take 4)),
    data := BitVec.ofNat 1024 (leNat (bs.drop 16)) }

/-! ### The parts of a state -/

/-- A die of the package. -/
def State.die (s : State) (d : Nat) : Die := s.dies[d % 4]'(Nat.mod_lt _ (by decide))

/-- A die changed. -/
def State.modDie (s : State) (d : Nat) (f : Die → Die) : State :=
  { s with dies := s.dies.set (d % 4) (f (s.die d)) (Nat.mod_lt _ (by decide)) }

/-- A strand by its key. -/
def State.strand? (s : State) (k : Nat) : Option Strand := look k s.strands

/-- A strand changed, where it stands. -/
def State.modStrand (s : State) (k : Nat) (f : Strand → Strand) : State := { s with strands := modAt k f s.strands }

/-- An open context. -/
def State.ctx? (s : State) (c : Nat) : Option Ctx := look c s.ctxs

/-- A context changed, where it is open. -/
def State.modCtx (s : State) (c : Nat) (f : Ctx → Ctx) : State := { s with ctxs := modAt c f s.ctxs }

/-- The running block of a strand. -/
def State.run? (s : State) (k : Nat) : Option Run := (s.strand? k).bind (·.run)

/-- The running block of a strand changed. -/
def State.modRun (s : State) (k : Nat) (f : Run → Run) : State :=
  s.modStrand k fun x => { x with run := x.run.map f }

/-- A unit of a strand's image is dirty (R313, R316): kind 0 a 256-byte line of a tile's SRAM, 1 an operand slot, 2 a
bank of 8 accumulator rows. -/
def State.soil (s : State) (k tile kind i : Nat) : State :=
  let u := (tile * 4 + kind) * 2 ^ 16 + i
  s.modStrand k fun x => if x.dirty.contains u then x else { x with dirty := u :: x.dirty }

/-- The next free value (log 8). -/
def State.fresh (s : State) : Word × State := (Config.freeValue s.free, { s with free := s.free + 1 })

/-- n free bytes: image bytes that no rule lays out, and what a load of an enabled spill ring's bytes gives (R156, R315,
R316; log 8). -/
def State.freeBytes (s : State) (n : Nat) : List Byte × State :=
  ((List.range n).map fun i => Config.freeByte (s.free + i), { s with free := s.free + n })

/-- The key of a strand: 256 × die + lead tile. -/
def strandKey (d tile : Nat) : Nat := 256 * d + tile

/-- Strand identity, 16 bits: 0x2000 for a strand, die in [12:11], lead tile in [10:3] (R145, R252). -/
def strandId (k : Nat) : Nat := 0x2000 + (k / 256 % 4) * 2 ^ 11 + k % 256 * 2 ^ 3

/-- The strand key that a 16-bit identity names. -/
def idKey (i : Nat) : Nat := strandKey (bits i 12 11) (bits i 10 3)

/-! ### Blocks and nodes -/

/-- Footprint rows (R45). -/
def Block.frows (b : Block) : Nat := b.rows + 1
/-- Footprint columns (R45). -/
def Block.fcols (b : Block) : Nat := b.cols + 1
/-- A fabric block (R45). -/
def Block.isFabric (b : Block) : Bool := b.htype != 0

/-- The relative origins of the copies of a block, in row-major order (R49). -/
def Block.copies (b : Block) (g : Region) : List (Nat × Nat) :=
  if b.isFabric then
    ((List.range (g.rows / b.frows)).flatMap fun i => (List.range (g.cols / b.fcols)).map fun j =>
      (i * b.frows, j * b.fcols)).filter fun o => (o.1 + o.2) % 2 == 0
  else [(0, 0)]

/-- The absolute tile of a slot of a copy (R49). -/
def Block.tileOf (b : Block) (g : Region) (copy slot : Nat) : Nat :=
  let o := (b.copies g).getD copy (0, 0)
  let t := slot / 8
  16 * (g.r + o.1 + t / b.fcols) + (g.c + o.2 + t % b.fcols)

/-- The word at a slot. -/
def Block.word (b : Block) (slot : Nat) : BitVec 32 := b.words.getD slot 0

/-- The instruction at a slot. -/
def Block.instr? (b : Block) (slot : Nat) : Option Instr :=
  match decodeSlot b.words slot with
  | .ok i => some i
  | .error _ => none

/-- Slots at which an instruction starts, in order (R25, R42, R43): `skip` continuation slots are passed over. -/
def slotStarts : Nat → Nat → List (BitVec 32) → List Nat
  | _, _, [] => []
  | skip + 1, n, _ :: ws => slotStarts skip (n + 1) ws
  | 0, n, w :: ws => n :: slotStarts (slotLen w - 1) (n + 1) ws

/-- The instructions of a block with their slots, NOP left out. -/
def Block.instrs (b : Block) : List (Nat × Instr) :=
  (slotStarts 0 0 b.words).filterMap fun n =>
    match b.instr? n with
    | some .nop => none
    | some i => some (n, i)
    | none => none

/-- A node of a running block. -/
def Run.node? (r : Run) (copy slot : Nat) : Option Node :=
  r.nodes.find? fun n => n.copy == copy && n.slot == slot

/-- A node changed. -/
def Run.modNode (r : Run) (copy slot : Nat) (f : Node → Node) : Run :=
  { r with nodes := r.nodes.map fun n => if n.copy = copy && n.slot = slot then f n else n }

/-- Iterations of a chain whose level-0 extent is `e0` (R137). -/
def Chain.count (c : Chain) (e0 : Nat) : Nat := e0 * (c.ext.drop 1).foldl (· * ·) 1

/-- The share of level 0 of k0 that a copy counts: start and length (R49). -/
def share (e copies copy : Nat) : Nat × Nat :=
  (copy * (e / copies) + min copy (e % copies), e / copies + if copy < e % copies then 1 else 0)

/-- Copies of the running block. -/
def Run.ncopies (r : Run) (g : Region) : Nat := (r.blk.copies g).length

/-- Start and length of level 0 of chain j in a copy (R49, R137): only k0 is shared out. -/
def Run.level0 (r : Run) (g : Region) (copy j : Nat) : Nat × Nat :=
  match r.chains[j]? with
  | none => (0, 1)
  | some c => if j = 0 then share (c.ext.headD 1) (r.ncopies g) copy else (0, c.ext.headD 1)

/-- Iterations that chain j runs in a copy; one without chains (R140). -/
def Run.iters (r : Run) (g : Region) (copy j : Nat) : Nat :=
  match r.chains[j]? with
  | none => 1
  | some c => c.count (r.level0 g copy j).2

/-- The iteration number that every rule names, from the copy's own count (R137). -/
def Run.globalIter (r : Run) (g : Region) (copy i : Nat) : Nat :=
  match r.chains[0]? with
  | none => i
  | some c =>
    let l := r.level0 g copy 0
    if l.2 = 0 then i else (l.1 + i % l.2) + c.ext.headD 1 * (i / l.2)

/-- The sequencer's origin word (R94). -/
def seqOrigin (k bslot : Nat) : Nat := bslot % 128 * 2 ^ 13 + k % 256 * 4 + k / 256 % 4

/-- The origin word of a node of a running block (R94). -/
def Run.origin (r : Run) (k : Nat) (g : Region) (copy slot i : Nat) : Nat :=
  if r.blk.isFabric then
    r.globalIter g copy i % 2 ^ 32 * 2 ^ 32 + slot % 128 * 2 ^ 13 + slot % 8 * 2 ^ 10
      + r.blk.tileOf g copy slot % 256 * 4 + k / 256 % 4
  else seqOrigin k slot

/-! ### A firing and what it leaves -/

/-- No save or restore holds the strand (R314, R320). -/
def SaveSt.free : SaveSt → Bool
  | .running | .asked _ _ _ => true
  | .saving _ _ _ | .saved _ => false

/-- A save has been asked for and has not started (R314, R320). -/
def SaveSt.asking : SaveSt → Bool
  | .asked _ _ _ => true
  | _ => false

/-- The strand is halted by a debugger (R327, R328). -/
def Strand.halted (x : Strand) : Bool := bit x.dbgctl.toNat 4

/-- The slot number under which the sequencer fills the output port at a block edge (R188): no node of a block. -/
def edgeSlot : Nat := 129

/-- What waits in a block may go on (R272, R314): no save holds the strand, and the block runs, of handler mode or not as the
wait is: a block that is suspended stands still. -/
def Strand.opens (x : Strand) (hand : Bool) : Bool := x.save.free && x.run.any fun r => r.hand == hand

/-- Outputs of the strand's block may move: it runs, or the sequencer forwards at its edge (R188), and no save holds the
strand (R314). -/
def Strand.working (x : Strand) : Bool := (x.phase == .run || x.phase == .edge) && x.save.free

/-- The strand, block and node of the firing under way: the strand runs the block, no save (R314) and no halt (R328)
holds it, and the node has not fired this iteration. -/
def State.here? (s : State) : Option (Strand × Run × Node) :=
  match s.strand? s.fire.k with
  | none => none
  | some x =>
    if x.phase = .run ∧ x.save.free ∧ ¬ x.halted then
      match x.run with
      | none => none
      | some r =>
        match r.node? s.fire.copy s.fire.slot with
        | none => none
        | some n => if n.fired ≤ s.fire.iter then some (x, r, n) else none
    else none

/-- The firing as one that waits for a response. -/
def Firing.req (f : Firing) : Req := .node f.k f.hand f.copy f.slot f.iter

/-- Marker bits of the left operand, none without one (R62, R129). -/
def Firing.marks (f : Firing) : BitVec 5 := match f.left with
  | some t => t.mark
  | none => 0

/-- The first POISON among the operands in the order left, right, predicate, third (R95). -/
def Firing.poison? (f : Firing) : Option Tok :=
  [f.left, f.right, f.pred, f.third].findSome? fun o => o.bind fun t => if t.tag = .poison then some t else none

/-- A predicate operand of a form that a node outside the float group does not admit (R161). -/
def Firing.badPred (f : Firing) : Bool := f.pred.any fun t => !(t.tag == .pred && t.scalar)

/-- Whether the predicate lets the node fire (R27, R134). A predicate that is no scalar PRED lets it fire: it is
POISON (R95), a lane mask of the float group (R161), or a tag that the node does not admit (R91). -/
def Firing.sense (f : Firing) (p : PMode) : Bool :=
  match p, f.pred with
  | .always, none => true
  | .always, some _ => false
  | _, none => false
  | .onTrue, some t => t.tag != .pred || !t.scalar || t.lane 1 0 == 1
  | .onFalse, some t => t.tag != .pred || !t.scalar || t.lane 1 0 == 0

/-- Operand items consumed by a firing (R133); in a control block the tokens stay (R113 discards them). -/
def Run.consume (r : Run) (f : Firing) : Run :=
  if r.blk.isFabric then
    { r with links := r.links.map fun l =>
        if l.copy = f.copy && l.slot = f.slot then { l with items := l.items.filter fun e => e.1 != f.iter } else l }
  else r

/-- The outputs of an iteration for targets A and B. -/
def outsOf (it : Nat) (a b : Tgt) (x y : Option Item) : List Out :=
  (match x with | some i => if a = .none then [] else [{ iter := it, tgt := a, b := false, item := i, reg := false }]
                | none => [])
  ++ (match y with | some i => if b = .none then [] else [{ iter := it, tgt := b, b := true, item := i, reg := false }]
                   | none => [])

/-- A firing that is done at once: operands consumed, outputs held for their targets (R112, R136). -/
def Run.finish (r : Run) (f : Firing) (a b : Tgt) (x y : Option Item) : Run :=
  (r.consume f).modNode f.copy f.slot fun n =>
    { n with fired := f.iter + 1, done := n.done + 1, out := n.out ++ outsOf f.iter a b x y }

/-- A firing that stays in flight (R112). -/
def Run.park (r : Run) (f : Firing) (why : Why) (acc : Option Access) (prog : List Nat) : Run :=
  (r.consume f).modNode f.copy f.slot fun n =>
    { n with fired := f.iter + 1, pend := n.pend ++ [{ fire := f, why := why, acc := acc, prog := prog, reg := false }] }

/-- The operation in flight of an iteration completes (R112). -/
def Run.settle (r : Run) (f : Firing) (a b : Tgt) (x y : Option Item) : Run :=
  r.modNode f.copy f.slot fun n =>
    { n with done := n.done + 1, pend := n.pend.filter fun p => p.fire.iter != f.iter,
             out := n.out ++ outsOf f.iter a b x y }

/-- The firing under way is done and offers these items to targets A and B. -/
def State.give (s : State) (a b : Tgt) (x y : Option Item) : State :=
  s.modRun s.fire.k fun r => r.finish s.fire a b x y

/-- The same token to both targets. -/
def State.emit (s : State) (a b : Tgt) (t : Tok) : State := s.give a b (some (.tok t)) (some (.tok t))

/-- The firing under way stays in flight. -/
def State.park (s : State) (why : Why) (acc : Option Access) (prog : List Nat) : State :=
  s.modRun s.fire.k fun r => r.park s.fire why acc prog

/-- A pending trap of a strand's running block, or, with none running, of its next edge (R117, R255). -/
def State.addTrap (s : State) (k : Nat) (t : Trap) : State :=
  s.modStrand k fun x =>
    match x.run with
    | some r => { x with run := some { r with traps := r.traps ++ [t] } }
    | none => { x with owed := x.owed ++ [t] }

/-- A pending trap that belongs to the strand's next edge (R211, R228, R160). -/
def State.oweTrap (s : State) (k : Nat) (t : Trap) : State := s.modStrand k fun x => { x with owed := x.owed ++ [t] }

/-- The origin word of the firing `f` (R94); the sequencer's at a block edge. -/
def State.originOf (s : State) (f : Firing) : Nat :=
  match s.strand? f.k with
  | none => 0
  | some x => if f.slot = edgeSlot then seqOrigin f.k 0 else match x.run with
    | none => seqOrigin f.k f.slot
    | some r => r.origin f.k x.region f.copy f.slot f.iter

/-- The origin word of the firing under way. -/
def State.origin (s : State) : Nat := s.originOf s.fire

/-- Whether the firing strand runs a fabric block. -/
def State.inFabric (s : State) (k : Nat) : Bool := match s.run? k with
  | some r => r.blk.isFabric
  | none => false

/-- Whether a faulting firing records its own trap: in a control block, and at a sink (R79, R143, R301). -/
def State.ownTrap (s : State) (sink : Bool) : Bool := sink || !s.inFabric s.fire.k

/-- The firing under way detects a fault: POISON of its own origin to each target, and its own trap where it is a sink
or stands in a control block (R91, R143, R301). -/
def State.failBoth (s : State) (sink : Bool) (a b : Tgt) (cause extra : Nat) : State :=
  let o := s.origin
  let s := if s.ownTrap sink then s.addTrap s.fire.k { cause := cause, origin := o, extra := extra, atExit := false }
    else s
  s.emit a b (Tok.poisonOf cause o s.fire.marks)

/-- As `failBoth` with target A only. -/
def State.fail (s : State) (sink : Bool) (a : Tgt) (cause extra : Nat) : State := s.failBoth sink a .none cause extra

/-- s31 of cause 0x04 at a sink: the token's cause (R143, R301); at a memory instruction of a control block the virtual
address, or 0 where the address token itself is POISON (R79; log 24). -/
def State.poisonExtra (s : State) (t : Tok) : Nat :=
  match s.run? s.fire.k with
  | none => t.cause
  | some r =>
    if ¬ r.blk.isFabric ∧ (r.blk.instr? s.fire.slot).any (fun i => i.fields.op / 16 == 8) then
      (s.fire.left.map fun l => if l.tag = .poison then 0 else l.word.toNat).getD 0
    else t.cause

/-- A firing that receives POISON: a copy to each target; a sink records cause 0x04 (R95, R143). -/
def State.poisoned (s : State) (sink : Bool) (a b : Tgt) (t : Tok) : State :=
  let s := if sink then
      s.addTrap s.fire.k { cause := 0x04, origin := t.origin, extra := s.poisonExtra t, atExit := false } else s
  s.emit a b t

/-- What every firing asks before its own effect: the node stands ready to fire, its predicate has the slot's sense
and the operands that `need` names are there; otherwise nothing happens. POISON goes on under R95. A vector PRED in the
predicate position outside the float group (`lanes`) is of a form the node does not admit (R161). -/
def State.firingWith (s : State) (lanes : Bool) (p : PMode) (need : Firing → Bool) (sink : Bool) (a b : Tgt)
    (body : State) : State :=
  match s.here? with
  | none => s
  | some _ =>
    if s.fire.sense p && need s.fire then
      match s.fire.poison? with
      | some t => s.poisoned sink a b t
      | none =>
        match s.fire.pred with
        | some t => if t.tag = .pred ∧ (t.scalar ∨ lanes) then body else s.failBoth sink a b 0x03 0x03
        | none => body
    else s

/-- `firingWith` for a node outside the float group. -/
def State.firing (s : State) (p : PMode) (need : Firing → Bool) (sink : Bool) (a b : Tgt) (body : State) : State :=
  s.firingWith false p need sink a b body

/-- The left operand is named. -/
def needL (f : Firing) : Bool := f.left.isSome
/-- Left and right operands are named. -/
def needLR (f : Firing) : Bool := f.left.isSome && f.right.isSome
/-- Left, right and third operands are named. -/
def needLRT (f : Firing) : Bool := f.left.isSome && f.right.isSome && f.third.isSome
/-- No operand is needed. -/
def need0 (_ : Firing) : Bool := true

/-- A meaning that computes one token from the operands: its token to both targets, or POISON with the cause. -/
def State.compute (s : State) (p : PMode) (need : Firing → Bool) (sink : Bool) (a b : Tgt)
    (f : Firing → Except Nat Tok) : State :=
  s.firing p need sink a b <|
    match f s.fire with
    | .ok t => s.emit a b t
    | .error c => s.failBoth sink a b c c

/-! ### Strand registers -/

/-- A strand register: s0 holds 0 with tag I64 (R110). -/
def Strand.readReg (x : Strand) (n : Nat) : Word × Tag :=
  if n % 32 = 0 then (0, .i64)
  else (x.regs[n % 32]'(Nat.mod_lt _ (by decide)), x.rtags[n % 32]'(Nat.mod_lt _ (by decide)))

/-- A strand register written; s0 is never written (R39, R110). -/
def Strand.writeReg (x : Strand) (n : Nat) (v : Word) (t : Tag) : Strand :=
  if n % 32 = 0 then x
  else { x with regs := x.regs.set (n % 32) v (Nat.mod_lt _ (by decide)),
                rtags := x.rtags.set (n % 32) t (Nat.mod_lt _ (by decide)) }

/-- READS emits the register as a scalar token of the stored tag, without markers (R110). -/
def Strand.regTok (x : Strand) (n : Nat) : Tok :=
  { tag := (x.readReg n).2, scalar := true, data := BitVec.ofNat 1024 (x.readReg n).1.toNat, side := 0, mark := 0 }

/-- A register write joins those held until the exit: the last of R40 stands; of writes of one slot and iteration, that of
the higher copy, and of one copy's two targets the later (log 34). -/
def Run.hold (r : Run) (w : RegWrite) : Run :=
  match r.regw.find? fun v => v.reg == w.reg with
  | none => { r with regw := r.regw ++ [w] }
  | some v =>
    if v.iter < w.iter || (v.iter == w.iter && (v.slot < w.slot || (v.slot == w.slot && v.copy ≤ w.copy))) then
      { r with regw := r.regw.map fun u => if u.reg = w.reg then w else u }
    else r

/-! ### Traps (R116 to R119) -/

/-- Handler mode (R118). -/
def Strand.hmode (x : Strand) : Bool := bit x.tstat.toNat 0
/-- TSTAT.susp (R118). -/
def Strand.suspBit (x : Strand) : Bool := bit x.tstat.toNat 1

/-- TSTAT after trap entry: hmode, susp, cause and the tags of s28 to s31 (R116, R118). -/
def trapStatus (cause : Nat) (susp : Bool) (t0 t1 t2 t3 : Tag) : Word :=
  BitVec.ofNat 64 (1 + (if susp then 2 else 0) + cause % 256 * 2 ^ 8 + t0.code * 2 ^ 16 + t1.code * 2 ^ 20
    + t2.code * 2 ^ 24 + t3.code * 2 ^ 28)

/-- THND.base as an address (R118). -/
def thndBase (v : Word) : Nat := bits v.toNat 55 4 * 16

/-- Trap entry (R116): TSAV and TSTAT save s28 to s31, which then hold cause, origin, block and extra; TRES holds the
resume address and BC the handler's. In handler mode, or with THND.base 0, a double trap: the strand stops with
TSTAT.dbl set (R117). -/
def Strand.enterTrap (x : Strand) (thnd : Word) (cause origin block extra tres : Nat) (susp : Bool) : Strand :=
  if x.hmode ∨ thndBase thnd = 0 then { x with tstat := x.tstat ||| 4, phase := .stopped }
  else
    let y := { x with
      tsav := #v[(x.readReg 28).1, (x.readReg 29).1, (x.readReg 30).1, (x.readReg 31).1]
      tstat := trapStatus cause susp (x.readReg 28).2 (x.readReg 29).2 (x.readReg 30).2 (x.readReg 31).2
      tres := BitVec.ofNat 64 tres
      bc := BitVec.ofNat 64 (thndBase thnd)
      phase := .enter }
    (((y.writeReg 28 (BitVec.ofNat 64 cause) .i64).writeReg 29 (BitVec.ofNat 64 origin) .i64).writeReg 30
      (BitVec.ofNat 64 block) .i64).writeReg 31 (BitVec.ofNat 64 extra) .i64

/-- s28 to s31 restored from TSAV with the tags of TSTAT.stag (R119). -/
def Strand.restoreTsav (x : Strand) : Strand :=
  let t := fun i => Tag.ofCode (bits x.tstat.toNat (19 + 4 * i) (16 + 4 * i))
  (((x.writeReg 28 (x.tsav[0]'(by decide)) (t 0)).writeReg 29 (x.tsav[1]'(by decide)) (t 1)).writeReg 30
    (x.tsav[2]'(by decide)) (t 2)).writeReg 31 (x.tsav[3]'(by decide)) (t 3)

/-- TSTAT with hmode and susp cleared (R119). -/
def clearModes (t : Word) : Word := t &&& ~~~3#64

/-- Return from a trap (R119): restore, address (TRES, or the left operand under `.A`), end code for the strand. An
address of 0 ends the strand as HALTS; TRES of a suspended block resumes it where it stood; else fetch. -/
def Strand.trapReturn (x : Strand) (restore : Bool) (at? : Option Nat) : Strand :=
  let y := if restore then x.restoreTsav else x
  let a := at?.getD x.tres.toNat
  let z := { y with tstat := clearModes y.tstat }
  if a = 0 then { z with phase := .ending 0, susp := none }
  else if x.suspBit ∧ a = x.tres.toNat ∧ x.susp.isSome then { z with phase := .run, run := x.susp, susp := none }
  else { z with phase := .enter, bc := BitVec.ofNat 64 a, susp := none }

end Sys2Proof.Machine
end

