-- ==== Sys2Proof/Machine/Operands.lean ====
section
/-! DEFINITION. Machine/Operands.lean: every form in which a meaning reads its token operands. An operand that a form
does not admit gives the cause that its rule names. -/

namespace Sys2Proof.Machine

open Sys2Proof

/-- IDX counts as I64 (R92). -/
def intTag : Tag → Tag
  | .idx => .i64
  | t => t

/-- A scalar integer operand (R129): its value as a pattern, and its width. -/
def intOperand (o : Option Tok) : Except Nat (Nat × Nat) :=
  match o with
  | none => .error 0x03
  | some t =>
    if t.scalar ∧ (t.tag.isInt ∨ t.tag = .idx) then .ok (t.lane t.tag.width 0, t.tag.width) else .error 0x03

/-- Two integer operands of one tag, IDX as I64 (R129): both values and the width. -/
def intPair (l r : Option Tok) : Except Nat (Nat × Nat × Nat) :=
  match intOperand l, intOperand r with
  | .ok (a, w), .ok (b, v) => if w = v then .ok (a, b, w) else .error 0x03
  | _, _ => .error 0x03

/-- An offset, count, index, handle or word: an integer tag or IDX, read unsigned (R149, R262, R321). -/
def wordOperand (o : Option Tok) : Except Nat Nat :=
  match intOperand o with
  | .ok (a, _) => .ok a
  | .error c => .error c

/-- An address token: tag I64 or IDX, else 0x03; bits [63:56] zero, else 0x06 (R55, R79, R82). -/
def addrOperand (o : Option Tok) : Except Nat Nat :=
  match o with
  | none => .error 0x03
  | some t =>
    if t.tag = .i64 ∨ t.tag = .idx then
      if bits t.word.toNat 63 56 = 0 then .ok t.word.toNat else .error 0x06
    else .error 0x03

/-- A scalar I64 word, such as a shape or a producer name (R151, R152, R155): 0x03 for another tag. -/
def i64Operand (o : Option Tok) : Except Nat Nat :=
  match o with
  | none => .error 0x03
  | some t => if t.scalar ∧ t.tag = .i64 then .ok t.word.toNat else .error 0x03

/-- A trigger: any tag, no value (R91). -/
def triggerOperand (_ : Option Tok) : Except Nat Unit := .ok ()

/-- Lane values of an operand read as a vector of n lanes of its own tag: a scalar stands in every lane (R90). -/
def Tok.lanesOf (t : Tok) (w n : Nat) : List Nat := (List.range n).map fun i => t.lane w (if t.scalar then 0 else i)

/-- Whether every operand given is a scalar (R90, R162). -/
def allScalar (l : List (Option Tok)) : Bool := l.all fun o => match o with
  | some t => t.scalar
  | none => true

/-- A token's data as it is written into a row: a scalar in every lane of its tag, a PRED scalar in every lane bit
(R150, R83). -/
def Tok.rowData (t : Tok) : BitVec 1024 :=
  if t.scalar ∧ t.tag.width ≠ 0 ∧ t.tag ≠ .raw ∧ t.tag ≠ .idx then
    BitVec.ofNat 1024 (lanesNat t.tag.width ((List.range (Tag.lanes t.tag)).map fun _ => t.lane t.tag.width 0))
  else t.data

end Sys2Proof.Machine
end

