-- ==== Sys2Proof/Machine/Flags.lean ====
section
/-! DEFINITION. Machine/Flags.lean: every flag, condition, saturation and status word that a rule computes: marker bits,
comparison conditions, saturation ranges, and the layouts of status values. -/

namespace Sys2Proof.Machine

open Sys2Proof

/-- Marker bit j of a token (R32). -/
def Tok.marker (t : Tok) (j : Nat) : Bool := bit t.mark.toNat j

/-- The condition of CMPS on two's-complement readings, of CMPU on unsigned ones (R129). -/
def cmpHolds (c : CmpC) (x y : Int) : Bool :=
  match c with
  | .eq => x == y
  | .ne => x != y
  | .lt => x < y
  | .le => x ≤ y

/-- A value clamped to a range. -/
def clamp (lo hi v : Int) : Int := if v < lo then lo else if hi < v then hi else v

/-- The signed range of w bits. -/
def clampS (w : Nat) (v : Int) : Int := clamp (-(2 ^ (w - 1) : Nat)) ((2 ^ (w - 1) : Nat) - 1) v

/-- The unsigned range of w bits. -/
def clampU (w : Nat) (v : Int) : Int := clamp 0 ((2 ^ w : Nat) - 1) v

/-- Marker bits of chain counts: bit j where every level up to j stands at its last count (R32, R137). -/
def markersOf (last : List Bool) : BitVec 5 :=
  let rec go (j : Nat) (ok : Bool) : List Bool → Nat
    | [] => 0
    | b :: bs => (if ok && b then 2 ^ j else 0) + go (j + 1) (ok && b) bs
  BitVec.ofNat 5 (go 0 true last)

/-- WEXT's status: extent [16:0], free [33:17], state [35:34], eos [36], a nonempty ring [37] (R152). -/
def extStatus (extent free state : Nat) (eos ring : Bool) : Nat :=
  extent % 2 ^ 17 + free % 2 ^ 17 * 2 ^ 17 + state % 4 * 2 ^ 34 + (if eos then 2 ^ 36 else 0) + if ring then 2 ^ 37 else 0

/-- s31 of a window fault: subcode [7:0], window [17:8] (R143). -/
def windowExtra (sub w : Nat) : Nat := sub % 256 + w % 1024 * 256

/-- s31 of a block check: slot [7:0], check code [15:8] (R50, R114). -/
def checkExtra (slot code : Nat) : Nat := slot % 256 + code % 256 * 256

end Sys2Proof.Machine
end

