-- ==== Sys2Proof/Machine/Control.lean ====
section
/-! DEFINITION. Machine/Control.lean: group 0x0 (R42, R122 to R128, R140) and TRAPRET (R119). An exit that fires is
recorded; it acts at the block edge (R113, R115). -/

namespace Sys2Proof.Machine

open Sys2Proof

/-- An exit that fired joins those of the block (R113, R140). -/
def Run.exited (r : Run) (f : Firing) (x : ExitAct) : Run :=
  { r.finish f .none .none none none with exits := r.exits ++ [(f.slot, f.copy, x)] }

/-- The firing is its copy's final iteration; a control block has one (R140). -/
def Run.isFinal (r : Run) (g : Region) (f : Firing) : Bool :=
  !r.blk.isFabric || f.iter + 1 == r.iters g f.copy 0

/-- An exit whose operand is poisoned or not admitted: a trap at the exit, so that the block itself is the resume
address (R116, R124, R125), and the exit counts as fired. -/
def State.exitFault (s : State) (r : Run) (final : Bool) (t : Trap) : State :=
  let s := s.addTrap s.fire.k t
  s.modRun s.fire.k fun q => if final then q.exited s.fire (.addr r.blk.addr) else q.finish s.fire .none .none none none

/-- An exit instruction fires (R113, R125, R140): in a fabric block it consumes a token of each iteration and acts on
the final one. POISON is a sink's on every iteration (R143). -/
def State.exiting (s : State) (p : PMode) (needLeft : Bool) (act : Strand → Firing → Except Nat ExitAct) : State :=
  match s.here? with
  | none => s
  | some (x, r, _) =>
    if s.fire.sense p && ((!needLeft && !r.blk.isFabric) || s.fire.left.isSome) then
      let final := r.isFinal x.region s.fire
      let own : Trap := { cause := 0x03, origin := s.origin, extra := 0x03, atExit := true }
      match s.fire.poison? with
      | some t => s.exitFault r final { cause := 0x04, origin := t.origin, extra := t.cause, atExit := true }
      | none =>
        if ¬ final then s.modRun s.fire.k fun q => q.finish s.fire .none .none none none
        else if s.fire.badPred then s.exitFault r final own
        else
          match act x s.fire with
          | .error _ => s.exitFault r final own
          | .ok e => s.modRun s.fire.k fun q => q.exited s.fire e
    else s

/-- NOP never fires and has no effect (R123). -/
def execNop (s : State) : Host.Outcome State Fault Refusal := .next s

/-- EXIT n (R124). -/
def execExit (p : PMode) (n : BitVec 4) (s : State) : Host.Outcome State Fault Refusal :=
  .next (s.exiting p false fun _ _ => .ok (.goto n.toNat))

/-- The condition of EXITC (R124): bit 0 of a PRED, or a value that is not 0. Of a vector token it is lane 0's (log 24). -/
def exitCond (o : Option Tok) : Except Nat Bool :=
  match o with
  | none => .error 0x03
  | some t =>
    if t.tag = .pred then .ok (t.lane 1 0 == 1)
    else if t.tag.isInt ∨ t.tag = .idx then .ok (t.lane t.tag.width 0 != 0)
    else .error 0x03

/-- EXITC t, f (R124, R140). -/
def execExitc (p : PMode) (f t : BitVec 4) (s : State) : Host.Outcome State Fault Refusal :=
  .next (s.exiting p true fun _ q => (exitCond q.left).map fun c => .goto (if c then t.toNat else f.toNat))

/-- The address operand of EXITI and TRAPRET.A: I64 or IDX (R119, R122); R47 and R48 check it at the fetch. Of a vector token
it is lane 0 (log 24). -/
def exitAddr (o : Option Tok) : Except Nat Nat :=
  match o with
  | none => .error 0x03
  | some t => if t.tag = .i64 ∨ t.tag = .idx then .ok t.word.toNat else .error 0x03

/-- EXITI (R124). -/
def execExiti (p : PMode) (s : State) : Host.Outcome State Fault Refusal :=
  .next (s.exiting p true fun _ q => (exitAddr q.left).map .addr)

/-- CALLB c, ret (R120, R124). -/
def execCallb (p : PMode) (r c : BitVec 4) (s : State) : Host.Outcome State Fault Refusal :=
  .next (s.exiting p false fun _ _ => .ok (.call c.toNat r.toNat))

/-- RETB (R120, R124). -/
def execRetb (p : PMode) (s : State) : Host.Outcome State Fault Refusal :=
  .next (s.exiting p false fun _ _ => .ok .ret)

/-- TRAPI code, n (R124, R128). -/
def execTrapi (p : PMode) (c : BitVec 6) (n : BitVec 4) (s : State) : Host.Outcome State Fault Refusal :=
  .next (s.exiting p false fun _ _ => .ok (.trapi c.toNat n.toNat))

/-- BRKS id, n (R124, R330). -/
def execBrks (p : PMode) (i : BitVec 6) (n : BitVec 4) (s : State) : Host.Outcome State Fault Refusal :=
  .next (s.exiting p false fun _ _ => .ok (.brks i.toNat n.toNat))

/-- HALTS (R126). -/
def execHalts (p : PMode) (s : State) : Host.Outcome State Fault Refusal :=
  .next (s.exiting p false fun _ _ => .ok .halts)

/-- TRAPRET[.A] restore (R119): an exit; the return itself is `Strand.trapReturn` at the edge. -/
def execTrapret (p : PMode) (x r : Bool) (s : State) : Host.Outcome State Fault Refusal :=
  .next (s.exiting p x fun _ q => if x then (exitAddr q.left).map fun a => .trapret r (some a) else .ok (.trapret r none))

/-- The register's own entry value for a register target of NULLW (R127). -/
def nullItem (x : Strand) (t : Tgt) : Option Item :=
  match t with
  | .reg n => some (.tok (x.regTok n.toNat))
  | _ => none

/-- NULLW (R127). -/
def execNullw (p : PMode) (a b : Tgt) (s : State) : Host.Outcome State Fault Refusal :=
  .next (s.firing p need0 false a b <|
    match s.strand? s.fire.k with
    | some x => s.give a b (nullItem x a) (nullItem x b)
    | none => s)

/-- READS sN: the entry value as a scalar token without markers (R110, R127). Register writes are held until the exit, so
the register holds its entry value; in a block that was suspended, a READS or NULLW that has not fired takes what the
register holds when the block goes on (log 34). -/
def execReads (p : PMode) (n : BitVec 5) (a : Tgt) (s : State) : Host.Outcome State Fault Refusal :=
  .next (s.firing p need0 false a .none <|
    match s.strand? s.fire.k with
    | some x => s.emit a .none (x.regTok n.toNat)
    | none => s)

/-- WRITES: a sink of POISON and of its own 0x03 (R125, R127), RAW and MARK data among it (R91); a register outside 1 to 31
or the write mask gives cause 0x01 with check 0x13; else the right token is held for the register at this slot's rank
(R40, R127). -/
def State.writesReg (s : State) (x : Strand) (r : Run) : State :=
  let f := s.fire
  let done := fun (s : State) => s.give .none .none none none
  let own : Trap := { cause := 0x03, origin := s.origin, extra := 0x03, atExit := false }
  match f.poison? with
  | some t => done (s.addTrap f.k { cause := 0x04, origin := t.origin, extra := t.cause, atExit := false })
  | none =>
    if f.badPred ∨ f.right.any (fun t => t.tag == .raw || t.tag == .mark) then done (s.addTrap f.k own)
    else
      match wordOperand f.left, f.right with
      | .ok i, some v =>
        if 1 ≤ i ∧ i ≤ 31 ∧ r.blk.wrmask.getLsbD i then
          (done s).modRun f.k fun q => q.hold
            { reg := i, iter := r.globalIter x.region f.copy f.iter, slot := f.slot, copy := f.copy, val := v.word,
              tag := v.tag }
        else done (s.addTrap f.k
          { cause := 0x01, origin := s.origin, extra := checkExtra f.slot 0x13, atExit := false })
      | _, _ => done (s.addTrap f.k own)

/-- WRITES (R125, R127). -/
def execWrites (p : PMode) (s : State) : Host.Outcome State Fault Refusal :=
  .next (match s.here? with
    | none => s
    | some (x, r, _) => if s.fire.sense p && needLR s.fire then s.writesReg x r else s)

/-- The scalar that LIT emits (R42). -/
def litTok (x : LitK) (v : BitVec 42) : Tok :=
  match x with
  | .s => Tok.i64 (wrap 64 (signed 42 v.toNat)) 0
  | .z => Tok.i64 v.toNat 0
  | .h => Tok.i64 (v.toNat * 2 ^ 22) 0
  | .f => Tok.scalarOf (Tag.ofCode (v.toNat / 2 ^ 32 % 16)) (v.toNat % 2 ^ 32) 0

/-- LIT (R42). -/
def execLit (p : PMode) (x : LitK) (v : BitVec 42) (a : Tgt) (s : State) : Host.Outcome State Fault Refusal :=
  .next (s.firing p need0 false a .none (s.emit a .none (litTok x v)))

/-- MOVT: the left token unchanged to both targets (R123). -/
def execMovt (p : PMode) (a b : Tgt) (s : State) : Host.Outcome State Fault Refusal :=
  .next (s.firing p needL false a b <|
    match s.fire.left with
    | some t => s.emit a b t
    | none => s)

/-- ENTER and LEAVE are held until the edge, in slot order (R121, R128); a POISON trigger is a sink (R122, R125). -/
def State.stackOp (s : State) (p : PMode) (o : Option Nat) : State :=
  s.firing p need0 true .none .none <|
    (s.give .none .none none none).modRun s.fire.k fun r => { r with stackOps := put s.fire.slot o r.stackOps }

/-- ENTER id (R121). -/
def execEnter (p : PMode) (i : BitVec 8) (s : State) : Host.Outcome State Fault Refusal :=
  .next (s.stackOp p (some i.toNat))

/-- LEAVE (R121). -/
def execLeave (p : PMode) (s : State) : Host.Outcome State Fault Refusal := .next (s.stackOp p none)

end Sys2Proof.Machine
end

