-- ==== Sys2Proof/Machine/Formats.lean ====
section
/-! DEFINITION. Machine/Formats.lean: the number formats to the bit, exact values and rounding (R96 to R101), and the
anchored accumulator (R102 to R105). Values are exact: m × 2^e with a sign; a result is rounded once. -/

namespace Sys2Proof.Machine

open Sys2Proof

/-- A float format: exponent bits, fraction bits, bias, and whether it has infinities (R96, R97). -/
structure FFmt where
  ebits : Nat
  mbits : Nat
  bias : Nat
  hasInf : Bool
  deriving DecidableEq, Repr

/-- The format of a tag; F32 for a tag that has none (R89, R96). -/
def ffmt : Tag → FFmt
  | .bf16 => ⟨8, 7, 127, true⟩
  | .f16 => ⟨5, 10, 15, true⟩
  | .f8e5 => ⟨5, 2, 15, true⟩
  | .f8e4 => ⟨4, 3, 7, false⟩
  | _ => ⟨8, 23, 127, true⟩

/-- What a pattern stands for: NaN, a signed infinity, or (-1)^neg × m × 2^e. -/
inductive FVal where
  | nan
  | inf (neg : Bool)
  | fin (neg : Bool) (m : Nat) (e : Int)
  deriving DecidableEq, Repr

/-- The canonical NaN (R96). -/
def FFmt.nan (f : FFmt) : Nat :=
  if f.hasInf then (2 ^ f.ebits - 1) * 2 ^ f.mbits + 2 ^ (f.mbits - 1) else 2 ^ (f.ebits + f.mbits) - 1

/-- The magnitude pattern of infinity; of the largest finite where the format has none (R97). -/
def FFmt.infBits (f : FFmt) : Nat :=
  if f.hasInf then (2 ^ f.ebits - 1) * 2 ^ f.mbits else 2 ^ (f.ebits + f.mbits) - 2

/-- The magnitude pattern of the largest finite value (R96). -/
def FFmt.maxBits (f : FFmt) : Nat := if f.hasInf then f.infBits - 1 else f.infBits

/-- The sign bit's place value. -/
def FFmt.sign (f : FFmt) (neg : Bool) : Nat := if neg then 2 ^ (f.ebits + f.mbits) else 0

/-- The value of a pattern (R96, R97). -/
def FFmt.decode (f : FFmt) (v : Nat) : FVal :=
  let neg := bit v (f.ebits + f.mbits)
  let ex := v / 2 ^ f.mbits % 2 ^ f.ebits
  let fr := v % 2 ^ f.mbits
  if f.hasInf ∧ ex = 2 ^ f.ebits - 1 then (if fr = 0 then .inf neg else .nan)
  else if ¬ f.hasInf ∧ ex = 2 ^ f.ebits - 1 ∧ fr = 2 ^ f.mbits - 1 then .nan
  else if ex = 0 then .fin neg fr (1 - (f.bias : Int) - f.mbits)
  else .fin neg (fr + 2 ^ f.mbits) ((ex : Int) - f.bias - f.mbits)

/-- Whether a magnitude with remainder `rem` of `full` (and, with sticky, something beyond) rounds up (R98). -/
def roundsUp (mode : RMode) (neg odd : Bool) (rem full : Nat) (sticky : Bool) : Bool :=
  match mode with
  | .rne => full < 2 * rem || (2 * rem == full && full != 0 && (sticky || odd))
  | .rz => false
  | .rd => neg && (rem != 0 || sticky)
  | .ru => !neg && (rem != 0 || sticky)

/-- m × 2^e as a multiple of 2^q under a mode: `sticky` says that the exact magnitude lies strictly between m × 2^e and
(m + 1) × 2^e. -/
def roundAt (mode : RMode) (neg : Bool) (m : Nat) (e q : Int) (sticky : Bool) : Nat :=
  if q ≤ e then
    let n := m * 2 ^ (e - q).toNat
    if sticky && roundsUp mode neg (n % 2 == 1) 0 1 sticky then n + 1 else n
  else
    let full := 2 ^ (q - e).toNat
    let n := m / full
    if roundsUp mode neg (n % 2 == 1) (m % full) full sticky then n + 1 else n

/-- An exact finite value rounded once into a format (R98): subnormals honoured, overflow by mode, the F8E4 clamp. -/
def FFmt.round (f : FFmt) (mode : RMode) (neg : Bool) (m : Nat) (e : Int) (sticky : Bool) : Nat :=
  if m = 0 ∧ ¬ sticky then f.sign neg
  else
    let emin : Int := 1 - f.bias
    let top : Int := if m = 0 then emin else Nat.log2 m + e
    let q := (if top < emin then emin else top) - f.mbits
    let n := roundAt mode neg m e q sticky
    let n2 := if 2 ^ (f.mbits + 1) ≤ n then n / 2 else n
    let q2 := if 2 ^ (f.mbits + 1) ≤ n then q + 1 else q
    let body : Nat := if n2 < 2 ^ f.mbits then n2
      else (q2 + f.mbits + f.bias).toNat * 2 ^ f.mbits + (n2 - 2 ^ f.mbits)
    if body ≤ f.maxBits then f.sign neg + body
    else f.sign neg + (match mode, neg with
      | .rne, _ => f.infBits
      | .rz, _ => f.maxBits
      | .rd, true => f.infBits
      | .rd, false => f.maxBits
      | .ru, true => f.maxBits
      | .ru, false => f.infBits)

/-- A value rounded into a format (R97, R98). -/
def FFmt.encode (f : FFmt) (mode : RMode) (v : FVal) : Nat :=
  match v with
  | .nan => f.nan
  | .inf neg => f.sign neg + f.infBits
  | .fin neg m e => f.round mode neg m e false

/-- A finite value as an integer multiple of 2^q, for q at most its exponent. -/
def scaled (neg : Bool) (m : Nat) (e q : Int) : Int :=
  let v : Int := (m * 2 ^ (e - q).toNat : Nat)
  if neg then -v else v

/-- An exact sum (R96): an exact zero is +0, or -0 under RD; two zeros of one sign keep it. -/
def FVal.add (mode : RMode) (x y : FVal) : FVal :=
  match x, y with
  | .nan, _ => .nan
  | _, .nan => .nan
  | .inf a, .inf b => if a = b then .inf a else .nan
  | .inf a, .fin _ _ _ => .inf a
  | .fin _ _ _, .inf b => .inf b
  | .fin a m e, .fin b n g =>
    let q := min e g
    let t := scaled a m e q + scaled b n g q
    if t = 0 then .fin (if m = 0 ∧ n = 0 ∧ a = b then a else mode == .rd) 0 q
    else .fin (t < 0) t.natAbs q

/-- Negation. -/
def FVal.neg : FVal → FVal
  | .nan => .nan
  | .inf a => .inf !a
  | .fin a m e => .fin (!a) m e

/-- An exact product. -/
def FVal.mul (x y : FVal) : FVal :=
  match x, y with
  | .nan, _ => .nan
  | _, .nan => .nan
  | .inf a, .inf b => .inf (a != b)
  | .inf a, .fin b m _ => if m = 0 then .nan else .inf (a != b)
  | .fin a m _, .inf b => if m = 0 then .nan else .inf (a != b)
  | .fin a m e, .fin b n g => .fin (a != b) (m * n) (e + g)

/-- Order of two values that are no NaN, -0 below +0: less or equal (R163). -/
def FVal.le (x y : FVal) : Bool :=
  match x, y with
  | .nan, _ => false
  | _, .nan => false
  | .inf a, .inf b => a || !b
  | .inf a, _ => a
  | _, .inf b => !b
  | .fin a m e, .fin b n g =>
    let q := min e g
    let s := scaled a m e q
    let t := scaled b n g q
    s < t || (s == t && (m != 0 || a || !b))

/-- Equality of values that are no NaN; +0 equals -0 (R163). -/
def FVal.eqv (x y : FVal) : Bool :=
  match x, y with
  | .inf a, .inf b => a == b
  | .fin a m e, .fin b n g =>
    let q := min e g
    scaled a m e q == scaled b n g q
  | _, _ => false

/-- NaN. -/
def FVal.isNan : FVal → Bool
  | .nan => true
  | _ => false

/-- FMIN and FMAX of two values (R164): `strict` is `.N`. -/
def FVal.pick (isMax strict : Bool) (x y : FVal) : FVal :=
  if x.isNan || y.isNan then
    if strict then .nan else if x.isNan then y else x
  else if isMax then (if y.le x then x else y) else (if x.le y then x else y)

/-- The integer square root, by bits from 2^i downwards. -/
def isqrt : Nat → Nat → Nat → Nat
  | 0, _, r => r
  | i + 1, n, r => isqrt i n (if (r + 2 ^ i) * (r + 2 ^ i) ≤ n then r + 2 ^ i else r)

/-- 1 / x rounded once (R163, R164). -/
def FFmt.rcp (f : FFmt) (mode : RMode) (x : FVal) : Nat :=
  match x with
  | .nan => f.nan
  | .inf a => f.sign a
  | .fin a m e =>
    if m = 0 then f.sign a + f.infBits
    else
      let k := Nat.log2 m + 64
      f.round mode a (2 ^ k / m) (-e - k) (2 ^ k % m != 0)

/-- Square root rounded once (R163, R164). -/
def FFmt.sqrt (f : FFmt) (mode : RMode) (x : FVal) : Nat :=
  match x with
  | .nan => f.nan
  | .inf a => if a then f.nan else f.infBits
  | .fin a m e =>
    if m = 0 then f.sign a
    else if a then f.nan
    else
      let sh : Nat := 64 + ((e % 2).toNat)
      let n := m * 2 ^ sh
      let r := isqrt 64 n 0
      f.round mode false r ((e - sh) / 2) (r * r != n)

/-- 2^(p / 2^k), 0 ≤ p < 2^k, as a 320-bit fraction: the product of the roots 2^(2^-i) that the bits of p name, each
rounded down (log 14). `root` is 2^(2^-i) for the bit under way. -/
def exp2Frac : Nat → Nat → Nat → Nat → Nat
  | 0, _, _, acc => acc
  | k + 1, p, root, acc =>
    let acc' := if bit p k then acc * root / 2 ^ 320 else acc
    exp2Frac k p (isqrt 330 (root * 2 ^ 320) 0) acc'

/-- 2^x rounded once (R163, R164; log 14). -/
def FFmt.exp2 (f : FFmt) (mode : RMode) (x : FVal) : Nat :=
  match x with
  | .nan => f.nan
  | .inf a => if a then 0 else f.infBits
  | .fin a m e =>
    if 11 ≤ (Nat.log2 m : Int) + e ∧ m ≠ 0 then f.round mode false 1 (if a then -4096 else 4096) false
    else if 0 ≤ e then f.round mode false 1 (scaled a m e 0) false
    else
      let k := (-e).toNat
      let v : Int := if a then -(m : Int) else m
      let n := v / (2 ^ k : Nat)
      let p := (v % (2 ^ k : Nat)).toNat
      if p = 0 then f.round mode false 1 n false
      else f.round mode false (exp2Frac k p (isqrt 330 (2 ^ 641) 0) (2 ^ 320)) (n - 320) true

/-- Bits of log2 y for y in [1, 2), y as a 256-bit fraction, by repeated squaring rounded down (log 14). -/
def log2Bits : Nat → Nat → Nat → Nat
  | 0, _, acc => acc
  | n + 1, y, acc =>
    let z := y * y / 2 ^ 256
    if 2 ^ 257 ≤ z then log2Bits n (z / 2) (2 * acc + 1) else log2Bits n z (2 * acc)

/-- log2 x rounded once (R163, R164; log 14). -/
def FFmt.log2 (f : FFmt) (mode : RMode) (x : FVal) : Nat :=
  match x with
  | .nan => f.nan
  | .inf a => if a then f.nan else f.infBits
  | .fin a m e =>
    if m = 0 then f.sign true + f.infBits
    else if a then f.nan
    else
      let l := Nat.log2 m
      let ex : Int := l + e
      if m = 2 ^ l then f.round mode (ex < 0) ex.natAbs 0 false
      else
        let v : Int := ex * (2 ^ 110 : Nat) + log2Bits 110 (m * 2 ^ 256 / 2 ^ l) 0
        if 0 ≤ v then f.round mode false v.natAbs (-110) true
        else f.round mode true (v.natAbs - 1) (-110) true

/-- x × 2^n, n clamped to -1,024 to 1,024 (R163). -/
def FFmt.scale (f : FFmt) (mode : RMode) (x : FVal) (n : Int) : Nat :=
  match x with
  | .nan => f.nan
  | .inf a => f.sign a + f.infBits
  | .fin a m e => if m = 0 then f.sign a else f.round mode a m (e + clamp (-1024) 1024 n) false

/-- The class bit of FCLASS (R163). -/
def FFmt.class (f : FFmt) (v : Nat) : Nat :=
  match f.decode v with
  | .nan => 1
  | .inf true => 2
  | .inf false => 256
  | .fin neg m _ =>
    if m = 0 then (if neg then 16 else 32)
    else if m < 2 ^ f.mbits then (if neg then 8 else 64)
    else if neg then 4 else 128

/-- A value rounded to an integer (R97). -/
def roundInt (mode : RMode) (neg : Bool) (m : Nat) (e : Int) : Int :=
  let n := roundAt mode neg m e 0 false
  if neg then -(n : Int) else n

/-- A float converted to a signed integer of w bits: rounded, then saturated; NaN gives 0 (R97). -/
def FVal.toInt (mode : RMode) (w : Nat) (x : FVal) : Int :=
  match x with
  | .nan => 0
  | .inf a => clampS w (if a then -(2 ^ w : Nat) else (2 ^ w : Nat))
  | .fin a m e => clampS w (roundInt mode a m e)

/-- An integer converted to a float (R167). -/
def FFmt.ofInt (f : FFmt) (mode : RMode) (v : Int) : Nat := f.round mode (v < 0) v.natAbs 0 false

/-! ### Block formats (R99 to R101) -/

/-- F of R101: 132 for BFX8, 130 for BFX6. -/
def bfxF (t : Tag) : Nat := if t = .bfx8 then 132 else 130
/-- Magnitude bits: 6 for BFX8, 4 for BFX6 (R99). -/
def bfxM (t : Tag) : Nat := if t = .bfx8 then 6 else 4
/-- Element width: 8 or 6 bits. -/
def bfxW (t : Tag) : Nat := if t = .bfx8 then 8 else 6

/-- The value of a block element under its block's exponents (R99). -/
def bfxValue (t : Tag) (e0 e1 v : Nat) : FVal :=
  let mb := bfxM t
  let sel := bit v (mb + 1)
  let neg := bit v mb
  let m := v % 2 ^ mb
  let ex := if sel then e1 else e0
  if ex = 255 then (if m = 0 then .inf neg else .nan) else .fin neg m ((ex : Int) - bfxF t)

/-- An element's bits. -/
def bfxElem (t : Tag) (sel neg : Bool) (m : Nat) : Nat :=
  (if sel then 2 ^ (bfxM t + 1) else 0) + (if neg then 2 ^ bfxM t else 0) + m

/-- The larger magnitude of two. -/
def magMax (a b : Nat × Int) : Nat × Int :=
  let q := min a.2 b.2
  if a.1 * 2 ^ (a.2 - q).toNat < b.1 * 2 ^ (b.2 - q).toNat then b else a

/-- PACKB of 32 values with k (R101): the elements and E0, E1. The rule gives no E0 for a block that holds a NaN, and bounds
E1 above only: the model stores E0 = 0, and 0 for an E1 that comes out below zero (log 35). -/
def packBlock (t : Tag) (k : Nat) (xs : List FVal) : List Nat × Nat × Nat :=
  let mmax := 2 ^ bfxM t - 1
  if xs.any FVal.isNan then (xs.map fun _ => bfxElem t true false 1, 0, 255)
  else
    let mags : List (Nat × Int) := xs.filterMap fun x => match x with
      | .fin _ m e => some (m, e)
      | _ => none
    let a := mags.foldl magMax (0, 0)
    let fl : Int := Nat.log2 a.1 + a.2
    let e1a : Int := if a.1 = 0 then k else fl - bfxM t + 1 + bfxF t
    let e1b : Int := if a.1 ≠ 0 ∧ mmax < roundAt .rne false a.1 a.2 (e1a - bfxF t) false then e1a + 1 else e1a
    let e1 : Int := min e1b 254
    let e0 : Int := max (e1 - k) 0
    let anyInf := xs.any fun x => match x with
      | .inf _ => true
      | _ => false
    let el := xs.map fun x => match x with
      | .fin neg m e =>
        let m0 := roundAt .rne false m e (e0 - bfxF t) false
        if anyInf then bfxElem t false neg (min m0 mmax)
        else if m0 ≤ mmax then bfxElem t false neg m0
        else bfxElem t true neg (min (roundAt .rne false m e (e1 - bfxF t) false) mmax)
      | .inf neg => bfxElem t true neg 0
      | .nan => bfxElem t true false 1
    (el, e0.toNat, if anyInf then 255 else e1.toNat)

/-! ### The anchored accumulator (R102 to R105) -/

/-- Acc as an integer. -/
def Acc.int (a : Acc) : Int := a.acc.toInt

/-- The lowest set bit of a positive number, with fuel. -/
def lowBit : Nat → Nat → Nat
  | 0, _ => 0
  | n + 1, m => if m % 2 = 1 then 0 else lowBit n (m / 2) + 1

/-- The exact sum T = Acc × 2^E + p placed under R104: `t × 2^q` is T, `lo` the product's lowest set bit, or E. -/
def Acc.place (a : Acc) (t q lo : Int) : Acc :=
  let e := a.anchor.toInt
  let hi : Int := if t = 0 then -1024 else (Nat.log2 t.natAbs + 1 : Nat) + q - 94
  if e ≤ lo ∧ hi ≤ e then { a with acc := BitVec.ofInt 96 (t * (2 ^ (q - e).toNat : Nat) / (2 ^ (e - q).toNat : Nat)) }
  else
    let e' := if a.pinned then max e hi else max (min e lo) hi
    if 511 < e' then { a with reanch := true, infp := a.infp || 0 < t, infn := a.infn || t < 0 }
    else
      let n := roundAt .rne false t.natAbs q e' false
      let v : Int := if t < 0 then -(n : Int) else n
      let exact := v * (2 ^ (e' - q).toNat : Nat) == t * (2 ^ (q - e').toNat : Nat)
      { a with acc := BitVec.ofInt 96 v, anchor := BitVec.ofInt 10 e', reanch := true,
               inexact := a.inexact || !exact }

/-- A product added to an accumulator (R103, R104). -/
def Acc.add (a : Acc) (p : FVal) : Acc :=
  if a.nan ∨ a.infp ∨ a.infn then
    match p with
    | .nan => { a with nan := true }
    | .inf neg => { a with infp := a.infp || !neg, infn := a.infn || neg }
    | .fin _ _ _ => a
  else
    match p with
    | .nan => { a with nan := true }
    | .inf neg => { a with infp := !neg, infn := neg }
    | .fin neg m e =>
      if m = 0 then
        if a.aset then a.place a.int a.anchor.toInt a.anchor.toInt else a
      else
        let b := if a.aset then a
          else { a with acc := 0, anchor := BitVec.ofInt 10 (Nat.log2 m + e - 62), aset := true }
        let q := min b.anchor.toInt e
        b.place (b.int * (2 ^ (b.anchor.toInt - q).toNat : Nat) + scaled neg m e q) q
          (e + (lowBit (Nat.log2 m + 1) m : Nat))

/-- The value that a drain rounds (R105). -/
def Acc.value (a : Acc) : FVal :=
  if a.nan ∨ (a.infp ∧ a.infn) then .nan
  else if a.infp then .inf false
  else if a.infn then .inf true
  else if a.aset then .fin (a.int < 0) a.int.natAbs a.anchor.toInt
  else .fin false 0 0

/-- A drained lane in a target format (R105, R179). -/
def Acc.drain (a : Acc) (t : Tag) : Nat :=
  match a.value with
  | .fin _ 0 _ => 0
  | v => if t = .i32 then wrap 32 (v.toInt .rne 32) else (ffmt t).encode .rne v

/-- The state word (R102). -/
def Acc.word (a : Acc) : Nat :=
  let f := fun (b : Bool) i => if b then 2 ^ i else 0
  a.acc.toNat + a.anchor.toNat * 2 ^ 96 + f a.aset 106 + f a.pinned 107 + f a.inexact 108 + f a.reanch 109 + f a.nan 110
    + f a.infp 111 + f a.infn 112 + a.tag.toNat * 2 ^ 113

/-- An accumulator from its state word (R102). -/
def Acc.ofWord (v : Nat) : Acc :=
  { acc := BitVec.ofNat 96 v, anchor := BitVec.ofNat 10 (v / 2 ^ 96), aset := bit v 106, pinned := bit v 107,
    inexact := bit v 108, reanch := bit v 109, nan := bit v 110, infp := bit v 111, infn := bit v 112,
    tag := BitVec.ofNat 4 (v / 2 ^ 113) }

end Sys2Proof.Machine
end

