-- ==== Sys2Proof/Machine/Fabric.lean ====
section
/-! DEFINITION. Machine/Fabric.lean: how the slots of a running block hang together: targets, links, iterations, and
when a node stands ready (R111, R133 to R137, R157, R158). -/

namespace Sys2Proof.Machine

open Sys2Proof

/-- Opcodes of form T2, whose [9:0] is target B (R38). -/
def opIsT2 (op : Nat) : Bool :=
  op == 0x06 || op == 0x0A || (0x10 ≤ op && op ≤ 0x25 && op != 0x14) || op == 0x28 || op == 0x29 || op == 0x2B
    || op == 0x2D || op == 0x2E || (0x30 ≤ op && op ≤ 0x3F) || (0x50 ≤ op && op ≤ 0x52)
    || op == 0x55 || op == 0x56 || (0x59 ≤ op && op ≤ 0x5F) || op == 0x8A || op == 0x8B || op == 0x92 || op == 0x99
    || op == 0xCC

/-- The target whose field is n (R37). -/
def targetOf (n : Nat) : Tgt :=
  match n / 128 with
  | 1 => .left (BitVec.ofNat 7 (n % 128))
  | 2 => .right (BitVec.ofNat 7 (n % 128))
  | 3 => .pred (BitVec.ofNat 7 (n % 128))
  | 4 => .third (BitVec.ofNat 7 (n % 128))
  | 5 => .reg (BitVec.ofNat 5 (n % 128))
  | 6 => .port (BitVec.ofNat 7 (n % 128))
  | 7 => .bus (BitVec.ofNat 7 (n % 128))
  | _ => .none

/-- Target A of an instruction (R37); none where its form has none. -/
def tgtA (i : Instr) : Tgt :=
  match i with
  | .loopn _ => .none
  | _ => targetOf i.fields.a

/-- Target B of an instruction of form T2 (R38). -/
def tgtB (i : Instr) : Tgt :=
  if opIsT2 i.fields.op then targetOf i.fields.b else .none

/-- The predicate mode of an instruction (R37). -/
def pmodeOf (i : Instr) : PMode :=
  match i with
  | .loopn _ => .always
  | _ => (PMode.ofNat? i.fields.p).getD .always

/-- The consumer slot and position that a target names (R39). -/
def Tgt.slotPos : Tgt → Option (Nat × Pos)
  | .left n => some (n.toNat, .left)
  | .right n => some (n.toNat, .right)
  | .pred n => some (n.toNat, .pred)
  | .third n => some (n.toNat, .third)
  | _ => none

/-- The position that an instruction carries (R172). -/
def carryPos : Instr → Option Pos
  | .scana _ _ _ _ | .rtree _ _ _ _ => some .right
  | .segsc _ _ _ _ => some .third
  | _ => none

/-- A slot that fires once, at configuration, and whose token stands for every iteration (R133). -/
def isConst : Instr → Bool
  | .lit _ _ _ _ | .reads _ _ _ => true
  | _ => false

/-- A slot that configures a chain or a tile's selection (R138). -/
def isChain : Instr → Bool
  | .kset _ _ _ _ | .kchain _ _ => true
  | _ => false

/-- A slot that fires once for each count of its chain, whatever feeds it (R137, R138). -/
def isCounter : Instr → Bool
  | .kidx _ _ _ _ | .klast _ _ _ _ => true
  | _ => false

/-- The links of one copy (R133, R157, R158): one for each target that names an operand position, for each broadcast
target and receiver of its identifier, and for each control channel. -/
def copyLinks (ins : List (Nat × Instr)) (copy : Nat) : List Link :=
  ins.flatMap fun (n, i) =>
    let mk := fun (b : Bool) (t : Tgt) =>
      match Tgt.slotPos t, t with
      | some (m, pos), _ =>
        if m = n ∧ carryPos i = some pos then []
        else [({ copy := copy, src := n, b := b, slot := m, pos := pos, items := [], const := none } : Link)]
      | none, .bus id => ins.filterMap fun (m, j) => match j with
        | .busrx _ id' _ => if id = id' then
            some { copy := copy, src := n, b := b, slot := m, pos := .left, items := [], const := none } else none
        | _ => none
      | none, _ => []
    mk false (tgtA i) ++ mk true (tgtB i) ++ match i with
      | .ctlsnd _ c => ins.filterMap fun (m, j) => match j with
        | .ctlrcv _ c' _ => if c = c' then
            some { copy := copy, src := n, b := false, slot := m, pos := .left, items := [], const := none } else none
        | _ => none
      | .bustx _ _ _ => ins.filterMap fun (m, j) => match j with
        | .busrx _ _ _ => some { copy := copy, src := n, b := false, slot := m, pos := .third, items := [], const := none }
        | _ => none
      | _ => []

/-- The nodes of one copy as block load leaves them. -/
def copyNodes (ins : List (Nat × Instr)) (copy : Nat) (cfg : Bool) : List Node :=
  ins.map fun (n, _) =>
    { copy := copy, slot := n, cfg := cfg, fired := 0, done := 0, pend := [], out := [], carry := none,
      stopped := false }

/-- The running state of a block that passed its load checks (R50, R111, R133). -/
def Run.start (b : Block) (g : Region) (head0 : BitVec 32) (kstore : Nat) (hand : Bool) : Run :=
  let ins := b.instrs
  let n := (b.copies g).length
  { blk := b, nodes := (List.range n).flatMap fun q => copyNodes ins q (!b.isFabric)
    links := (List.range n).flatMap fun q => copyLinks ins q
    regw := [], stackOps := [], traps := [], exits := [], chains := [], mstop := false, head0 := head0,
    kstore := kstore, hand := hand }

/-- The chain that a tile's KIDX nodes select: that of its KCHAIN, else k0 (R138). -/
def Block.chainSel (b : Block) (slot : Nat) : Nat :=
  (b.instrs.findSome? fun (n, i) => match i with
    | .kchain _ c => if n / 8 = slot / 8 then some c.toNat else none
    | _ => none).getD 0

/-- The KSET slots of a block, each with the number of its chain and its level (R138). -/
def ksetLevels (ins : List (Nat × Instr)) : List (Nat × Nat × Nat) :=
  let rec go (chain level : Nat) (first : Bool) : List (Nat × Instr) → List (Nat × Nat × Nat)
    | [] => []
    | (n, i) :: l => match i with
      | .kset _ _ g _ =>
        if g ∨ first then
          let c := if first then 0 else chain + 1
          (n, c, 0) :: go c 1 false l
        else (n, chain, level) :: go chain (level + 1) false l
      | _ => go chain level first l
  go 0 0 true ins

/-- Every chain level of the running block has been configured (R138). -/
def Run.chained (r : Run) : Bool :=
  (r.chains.map fun c => c.ext.length).sum == (ksetLevels r.blk.instrs).length

/-- KSET. -/
def isKset : Instr → Bool
  | .kset _ _ _ _ => true
  | _ => false

/-- A KSET's operand was refused (R91, R95, R138), which its node's stop says: the block's chains are not configured, and it
fires no iteration. -/
def Run.ksetFailed (r : Run) : Bool :=
  r.blk.isFabric && r.nodes.any fun n => n.stopped && (r.blk.instr? n.slot).any isKset

/-- The counts of chain c at a copy's iteration i, level 0 within the whole, and which of them is its level's last in
the copy's share (R32, R137). -/
def Run.counts (r : Run) (g : Region) (copy c i : Nat) : List Nat × List Bool :=
  match r.chains[c]? with
  | none => ([], [])
  | some ch =>
    let l := r.level0 g copy c
    let rest := (ch.ext.drop 1).foldl (fun (acc : Nat × List Nat × List Bool) e =>
      (acc.1 / e, acc.2.1 ++ [acc.1 % e], acc.2.2 ++ [acc.1 % e + 1 == e])) (i / max l.2 1, [], [])
    ((l.1 + i % max l.2 1) :: rest.2.1, (i % max l.2 1 + 1 == l.2) :: rest.2.2)

/-- Marker bits of a chain at an iteration (R32). -/
def Run.chainMarks (r : Run) (g : Region) (copy c i : Nat) : BitVec 5 := markersOf (r.counts g copy c i).2

/-- The marker bits of a copy's iteration (R62): those of k0; none in a block without chains (log 34). -/
def Run.iterMarks (r : Run) (g : Region) (copy i : Nat) : BitVec 5 :=
  if r.chains.isEmpty then 0 else r.chainMarks g copy 0 i

/-- How often a node fires at most, whatever feeds it (R133, R137, R138, R183). -/
def Run.ownCount (r : Run) (g : Region) (copy slot : Nat) : Nat :=
  match r.blk.instr? slot with
  | some (.kidx _ _ _ _) => r.iters g copy (r.blk.chainSel slot)
  | some (.klast _ n _ _) => r.iters g copy n.toNat
  | some (.lit _ _ _ _) | some (.reads _ _ _) | some (.kset _ _ _ _) | some (.kchain _ _) | some (.loopn _) => 1
  | some .nop | none => 0
  | some _ => r.iters g copy 0

/-- How often a node fires: its own count where no token feeds it, else the shortest of what feeds it, with fuel
(R137). -/
def Run.nodeCount (r : Run) (g : Region) (copy : Nat) : Nat → Nat → Nat
  | 0, slot => r.ownCount g copy slot
  | f + 1, slot =>
    let feeds := r.links.filter fun l => l.copy == copy && l.slot == slot && l.src != slot
      && !((r.blk.instr? l.src).any isConst)
    match feeds with
    | [] => r.ownCount g copy slot
    | l :: ls => ls.foldl (fun m l => min m (r.nodeCount g copy f l.src)) (r.nodeCount g copy f l.src)

/-- What an operand position offers a node for an iteration. -/
inductive PosVal where
  | absent
  | wait
  | skip
  | tok (t : Tok) (twice : Bool)
  deriving DecidableEq, Repr

/-- A link that carries what BUSTX sends to an identifier named at run time (R157): it ends at position third, which no
target of a BUSRX names. -/
def Run.isDynamic (r : Run) (l : Link) : Bool :=
  l.pos == .third && (match r.blk.instr? l.slot with
    | some (.busrx _ _ _) => true
    | _ => false)

/-- The links that a target A or B of a slot feeds. -/
def Run.outLinks (r : Run) (copy slot : Nat) (b : Bool) : List Link :=
  r.links.filter fun l => l.copy == copy && l.src == slot && l.b == b && !r.isDynamic l

/-- The links of an operand position; a BUSRX takes everything that is sent to it as its one operand (R157). -/
def Run.posLinks (r : Run) (n : Node) (pos : Pos) : List Link :=
  match r.blk.instr? n.slot with
  | some (.busrx _ _ _) => if pos = .left then r.links.filter fun l => l.copy == n.copy && l.slot == n.slot else []
  | _ => r.links.filter fun l => l.copy == n.copy && l.slot == n.slot && l.pos == pos

/-- What a link holds for iteration `it`: what stands for every iteration, or the item of that iteration. -/
def Link.at? (l : Link) (it : Nat) : Option Item :=
  match l.const with
  | some i => some i
  | none => (l.items.find? fun e => e.1 == it).map (·.2)

/-- Every BUSTX that may send to a node has fired or passed its iterations below `it` (R157). -/
def Run.busPassed (r : Run) (g : Region) (ls : List Link) (it : Nat) : Bool :=
  ls.all fun l => !r.isDynamic l || (r.node? l.copy l.src).any fun m =>
    decide (min it (r.nodeCount g l.copy 128 l.src) ≤ m.fired)

/-- What the links of a position offer for iteration `it` (R111, R133, R134): in a control block the token of any
alternative; in a fabric block every alternative must have come, and the one that is no skip is taken. A BUSRX passes
an iteration as skipped only once every BUSTX has passed it (R157). -/
def Run.posVal (r : Run) (g : Region) (n : Node) (pos : Pos) (it : Nat) : PosVal :=
  let ls := r.posLinks n pos
  if ls.isEmpty then
    match n.carry, (r.blk.instr? n.slot).bind carryPos with
    | some t, some q => if q = pos then .tok t false else .absent
    | _, _ => .absent
  else
    let toks := ls.filterMap fun l => match l.at? it with
      | some (.tok t) => some t
      | _ => none
    if ¬ r.blk.isFabric then
      match toks with
      | [] => .wait
      | t :: _ => .tok t false
    else if (ls.filter fun l => !r.isDynamic l).all fun l => (l.at? it).isSome then
      match toks with
      | [] => if (ls.all fun l => r.isDynamic l) ∨ ¬ r.busPassed g ls (it + 1) then .wait else .skip
      | [t] => .tok t false
      | t :: _ => .tok t true
    else .wait

/-- The iteration that a node fires next: a BUSRX fed by BUSTX alone takes the oldest that has come, once no sender can
send an older one (R157). -/
def Run.nextIter (r : Run) (g : Region) (n : Node) : Nat :=
  match r.blk.instr? n.slot with
  | some (.busrx _ _ _) =>
    let ls := r.links.filter fun l => l.copy == n.copy && l.slot == n.slot
    if ls.all fun l => r.isDynamic l then
      match ls.flatMap fun l => l.items.map (·.1) with
      | [] => n.fired
      | i :: is => let it := is.foldl min i
                   if r.busPassed g ls it then it else n.fired
    else n.fired
  | _ => n.fired

/-- Items and reservations of the links that a target feeds; each must stay below four (R133, R136). -/
def Run.hasRoom (r : Run) (n : Node) (b : Bool) (t : Tgt) : Bool :=
  match t with
  | .none | .reg _ => true
  | .port _ => (n.out.filter fun o => o.b == b).length + n.pend.length < 4
  | _ => (r.outLinks n.copy n.slot b).all fun l => l.items.length + (n.out.filter fun o => o.b == b).length + n.pend.length < 4

/-- The operands of a node for its next iteration. -/
def Run.operands (r : Run) (g : Region) (n : Node) : PosVal × PosVal × PosVal × PosVal :=
  let it := r.nextIter g n
  (r.posVal g n .left it, r.posVal g n .right it, r.posVal g n .pred it, r.posVal g n .third it)

/-- A predicate of the other sense, or a skip in its place (R27, R134). -/
def predOff (p : PMode) : PosVal → Bool
  | .skip => true
  | .tok t _ => t.tag == .pred && t.scalar && (t.lane 1 0 == 1) != (p == .onTrue)
  | _ => false

/-- The operand token of a position. -/
def PosVal.tok? : PosVal → Option Tok
  | .tok t _ => some t
  | _ => none

/-- How a node stands. -/
inductive Ready where
  | no
  | fire (f : Firing) (twice : Bool)
  | skip (it : Nat) (twice : Bool)
  deriving DecidableEq, Repr

/-- Two tokens have come to a position (R41). -/
def PosVal.twice : PosVal → Bool
  | .tok _ b => b
  | _ => false

/-- Whether a node may begin a firing, and with which operands (R111, R133, R134, R138, R141). A copy that receives no
count fires no node (R49): the other copies' LIT and READS wait for the chains. A POISON operand beside a predicate of
the other sense, or beside a skip, is discarded with the other operands (log 34). -/
def Run.ready (r : Run) (k : Nat) (g : Region) (n : Node) : Ready :=
  match r.blk.instr? n.slot with
  | none => .no
  | some i =>
    let early := isConst i || isChain i
    let it := r.nextIter g n
    let (l, rt, p, t) := r.operands g n
    let fed := r.links.any fun x => x.copy == n.copy && x.slot == n.slot && x.const.isNone
    let twice := l.twice || rt.twice || p.twice || t.twice
    if i = .nop ∨ ¬ n.cfg ∨ (¬ r.blk.isFabric ∧ n.fired ≠ 0) ∨ r.ksetFailed then .no
    else if r.blk.isFabric ∧ (if early then 1 ≤ it ∨ (n.copy ≠ 0 ∧ (¬ r.chained ∨ r.iters g n.copy 0 = 0)) else ¬ r.chained ∨ r.iters g n.copy 0 = 0
        ∨ ((¬ fed ∨ isCounter i) ∧ r.ownCount g n.copy n.slot ≤ it)) then .no
    else if l = .wait ∨ rt = .wait ∨ p = .wait ∨ t = .wait then .no
    else if r.blk.isFabric ∧ ¬ (r.hasRoom n false (tgtA i) ∧ r.hasRoom n true (tgtB i)) then .no
    else if n.stopped ∨ predOff (pmodeOf i) p ∨ l = .skip ∨ rt = .skip ∨ t = .skip then
      if r.blk.isFabric then .skip it twice else .no
    else
      .fire { k := k, hand := r.hand, copy := n.copy, slot := n.slot, iter := it, its := r.iterMarks g n.copy it,
              left := l.tok?, right := rt.tok?, pred := p.tok?, third := t.tok? } twice

end Sys2Proof.Machine
end

