-- ==== Sys2Proof/Machine/Errors.lean ====
section
/-! DEFINITION. Machine/Errors.lean: the error logs (R350), the predictive records (R351) and armed one-shot errors
(R354). -/

namespace Sys2Proof.Machine

open Sys2Proof

/-- The 32 bytes of an error-log entry (R350). -/
def LogEnt.bytes (e : LogEnt) : List Byte :=
  leBytes 8 e.addr.toNat ++ leBytes 4 e.syndrome.toNat ++ leBytes 1 e.array ++ leBytes 1 e.flags.toNat
    ++ leBytes 2 e.tile.toNat ++ leBytes 1 e.ctx.toNat ++ leBytes 3 0 ++ leBytes 4 e.seq.toNat ++ leBytes 8 e.cyc.toNat

/-- An error appended to the log of an array: the oldest of 1,024 is overwritten, and the digest goes on (R350). The
syndrome is measured (log 8). `who` is the tile of the array or of the accessing party, with its die above (256 × die + tile). -/
def Die.logError (y : Die) (d array addr flags who ctx : Nat) : Die :=
  let g := y.logs[array % 4]'(Nat.mod_lt _ (by decide))
  let e : LogEnt := { addr := BitVec.ofNat 64 addr, syndrome := Config.measured (8 * (16 * g.next + 4 * (d % 4) + array % 4)), array := array,
                      flags := BitVec.ofNat 8 flags, tile := BitVec.ofNat 16 (who / 256 % 4 + who % 256 * 4),
                      ctx := BitVec.ofNat 8 ctx, seq := BitVec.ofNat 32 g.next, cyc := y.cyc }
  let ents := g.ents ++ [e]
  let g' : ErrLog := { ents := if 1024 < ents.length then ents.drop 1 else ents, next := g.next + 1,
                       digest := Config.sha384 (leBytes 48 g.digest.toNat ++ e.bytes) }
  { y with logs := y.logs.set (array % 4) g' (Nat.mod_lt _ (by decide)) }

/-- A count of a predictive record advanced, saturating at 2^32 - 1 (R351). -/
def bumpPred (i : Nat) (extra cyc : BitVec 64) (l : List (Nat × Pred)) : List (Nat × Pred) :=
  let c := match look i l with
    | some p => p.count
    | none => 0
  put i { index := i, count := min (c + 1) (2 ^ 32 - 1), extra := extra, cyc := cyc } l

/-- A corrected DRAM error counted for a bank and for a row of it (R351): every row's count is kept, and the records show
the 64 with the most. Which bank and row an address lies in is measured (log 8). -/
def Die.countCorrected (y : Die) (pa : Nat) : Die :=
  let bank := (Config.measured (8 * pa + 1)).toNat % 384
  let place := bank + (Config.measured (8 * pa + 2)).toNat % 2 ^ 32 * 2 ^ 16
  { y with banks := bumpPred bank (BitVec.ofNat 64 bank) y.cyc y.banks
           rowsPred := bumpPred place (BitVec.ofNat 64 place) y.cyc y.rowsPred }

/-- A read of a location meets a one-shot error armed on die d (R354): the state with the error gone and logged, and
whether it is uncorrectable. `hit` tells the location, `who` the tile that the log names, `test` that SELFT or SCAN reads
(R350). -/
def State.sense (s : State) (d array : Nat) (hit : Nat → Bool) (home addr who ctx : Nat) (test : Bool := false) :
    State × Bool :=
  match (s.die d).armed.find? fun e => e.1 == array && hit e.2.1 with
  | none => (s, false)
  | some e =>
    let s := s.modDie d fun y => { y with armed := y.armed.erase e }
    let s := s.modDie home fun y => y.logError home array addr ((if e.2.2 then 3 else 2) + if test then 4 else 0) who ctx
    (if array = 3 && !e.2.2 then s.modDie home fun y => y.countCorrected addr else s, e.2.2)

/-- Location word of an array of a tile (R354): die [1:0], tile [9:2], offset or index above. -/
def armLoc (d tile off : Nat) : Nat := d % 4 + tile % 256 * 4 + off * 2 ^ 10

/-- A read of bytes or accumulators [lo, hi) of an array of a tile meets an armed error (R354). -/
def State.senseTile (s : State) (array d tile lo hi ctx : Nat) : State × Bool :=
  match (s.die d).armed.find? fun e => e.1 == array && e.2.1 % 2 ^ 10 == armLoc d tile 0 && lo ≤ e.2.1 / 2 ^ 10
      && e.2.1 / 2 ^ 10 < hi with
  | none => (s, false)
  | some e => s.sense d array (fun l => l == e.2.1) d (e.2.1 / 2 ^ 10) (strandKey d tile) ctx

end Sys2Proof.Machine
end

