-- ==== Sys2Proof/Machine/Space.lean ====
section
/-! DEFINITION. Machine/Space.lean: generic memory as the dies see it: translation (R302 to R305), homes and placements
(R55 to R57), the traffic counters (R58), the ordered paths with their numbers and stamps (R61 to R64), and accesses
that an agent makes in one step once its stamp is covered. -/

namespace Sys2Proof.Machine

open Sys2Proof

/-! ### Translation -/

/-- A valid leaf entry (R303): the physical address of the access, page size 0 to 2, placement and permissions. -/
structure Leaf where
  pa : Nat
  size : Nat
  place : Nat
  rd : Bool
  wr : Bool
  fx : Bool
  deriving DecidableEq, Repr

/-- Access kinds that permissions tell apart (R303, R79). -/
inductive AccK where
  | rd | wr | fx | mona
  deriving DecidableEq, Repr

/-- An entry as a leaf of page bits `pb` and page kind `kd`, or none where it is absent (R303). -/
def leafOf (e va pb kd : Nat) : Option Leaf :=
  let addr := bits e 49 10 * 1024
  if addr % 2 ^ pb = 0 then
    some { pa := addr + va % 2 ^ pb, size := kd, place := bits e 6 4, rd := bit e 1, wr := bit e 2, fx := bit e 3 }
  else none

/-- One level of the walk (R302, R303): the entry that `entry` gives at `table + 8 × index`; `next` goes on with the next
table's address, whose alignment is 2^nb; `pb` is the page size of a leaf here, if any. -/
def walkLevel (entry : Nat → Nat) (table index va : Nat) (leaf : Option (Nat × Nat)) (nb : Option Nat)
    (next : Nat → Option Leaf) : Option Leaf :=
  let e := entry (table + 8 * index)
  if ¬ bit e 0 ∨ bit e 9 ∨ bits e 63 50 ≠ 0 then none
  else if bits e 8 7 = 3 then
    match nb with
    | none => none
    | some n => let a := bits e 49 10 * 1024
                if a % 2 ^ n = 0 then next a else none
  else
    match leaf with
    | none => none
    | some (pb, kd) => if bits e 8 7 = kd then leafOf e va pb kd else none

/-- The walk from the root (R302): none where it meets an absent entry. -/
def walkTable (entry : Nat → Nat) (root va : Nat) : Option Leaf :=
  walkLevel entry root (bits va 55 39) va none (some 12) fun t1 =>
    walkLevel entry t1 (bits va 38 30) va (some (30, 2)) (some 12) fun t2 =>
      walkLevel entry t2 (bits va 29 21) va (some (21, 1)) (some 10) fun t3 =>
        walkLevel entry t3 (bits va 20 14) va (some (14, 0)) none fun _ => none

/-- The entries that a walk from a table reads, by their addresses, for the indexes left (R302). -/
def walkReads (entry : Nat → Nat) : List Nat → Nat → List Nat
  | [], _ => []
  | i :: is, t =>
    let a := t + 8 * i
    let e := entry a
    a :: if bit e 0 ∧ bits e 8 7 = 3 then walkReads entry is (bits e 49 10 * 1024) else []

/-- The entries that the walk of an address reads (R302). -/
def walkEntries (entry : Nat → Nat) (root va : Nat) : List Nat :=
  walkReads entry [bits va 55 39, bits va 38 30, bits va 29 21, bits va 20 14] root

/-- The level-0 table of a context (R321). -/
def Ctx.root (c : Ctx) : Nat := bits c.ptroot.toNat 55 20 * 2 ^ 20

/-- The home die of an access by die d (R56): none for placement 111. -/
def homeDie (d place pa : Nat) : Nat :=
  match place with
  | 0 => bits pa 13 12 ^^^ bits pa 23 22 ^^^ bits pa 33 32
  | 5 => bits pa 17 16 ^^^ bits pa 27 26 ^^^ bits pa 37 36
  | 6 => d
  | p => p - 1

/-- Bytes of a compute die's bonded DRAM, and of the package's (R17). -/
def dieDram : Nat := 72000000000
/-- See `dieDram`. -/
def installedDram : Nat := 4 * dieDram

/-- A physical address that something stands behind (R55, R339). The spec gives no effect for an address below 2^40 beyond
the installed bytes (R17): the model keeps a byte there as anywhere below 2^40 (log 22). -/
def State.paMapped (s : State) (pa : Nat) : Bool :=
  pa < 2 ^ 44 || (pa < 2 ^ 49 && (look (pa / 2 ^ 30) s.aperture).isSome)

/-- Where a physical address is kept in memory: an address of the aperture with what its granule is mapped onto, so that
granules mapped onto one target share its bytes (R339). -/
def State.backing (s : State) (pa : Nat) : Nat :=
  if pa < 2 ^ 44 then pa
  else match look (pa / 2 ^ 30) s.aperture with
    | some (.pooled n) => 2 ^ 50 + n % 2 ^ 29 * 2 ^ 30 + pa % 2 ^ 30
    | some (.dram p n) => 2 ^ 60 + p * 2 ^ 40 + n % 2 ^ 10 * 2 ^ 30 + pa % 2 ^ 30
    | none => pa

/-- The page-table entry at a physical address, which may lie in a mapped granule of the aperture (R302, R303, R339). -/
def State.entryAt (s : State) (pa : Nat) : Nat := s.mem.readNat (s.backing pa) 8

/-- The walk of an address from a root (R302). -/
def State.walk (s : State) (root va : Nat) : Option Leaf := walkTable s.entryAt root va

/-- The recorded placement of the frame of a bonded DRAM address (R57). -/
def State.framePlace (s : State) (pa : Nat) : Nat := (look (pa / 2 ^ 14) s.frames).getD 0

/-- Whether a leaf admits an access (R56, R57, R79, R303, R339). -/
def State.leafOk (s : State) (l : Leaf) (k : AccK) : Bool :=
  (match k with
   | .rd => l.rd
   | .wr => l.wr && l.place != 6
   | .fx => l.fx
   | .mona => l.rd && l.wr && l.place != 6 && l.pa < 2 ^ 40)
  && l.place != 7 && s.paMapped l.pa && (2 ^ 40 ≤ l.pa || s.framePlace l.pa == l.place)

/-- What a translation gives. -/
inductive Xr where
  | absent
  | refused
  | ok (pa home : Nat)
  deriving DecidableEq, Repr

/-- The page table's answer to an access of a context from a die, whatever a cache holds. -/
def State.translate (s : State) (c d va : Nat) (k : AccK) : Xr :=
  match s.ctx? c with
  | none => .refused
  | some x =>
    match s.walk x.root va with
    | none => .absent
    | some l => if s.leafOk l k then .ok (s.backing l.pa) (homeDie d l.place l.pa) else .refused

/-- The translation that a tile's cache holds for an address (R304). -/
def Die.cached? (y : Die) (tile c va : Nat) : Option Leaf :=
  (y.tlb.find? fun x => x.tile == tile && x.ctx == c && va / 2 ^ (14 + [0, 7, 16].getD x.size 0) == x.page).map fun x =>
    { pa := x.pa + va % 2 ^ (14 + [0, 7, 16].getD x.size 0), size := x.size, place := x.place, rd := x.rd, wr := x.wr,
      fx := x.fx }

/-- A leaf entered in a tile's cache of 64 entries, the oldest dropped (R304). -/
def Die.cache (y : Die) (tile c va : Nat) (l : Leaf) : Die :=
  let sb := 14 + [0, 7, 16].getD l.size 0
  let e : Xlat := { tile := tile, ctx := c, page := va / 2 ^ sb, size := l.size, pa := l.pa - va % 2 ^ sb,
                    place := l.place, rd := l.rd, wr := l.wr, fx := l.fx }
  let others := y.tlb.filter fun x => !(x.tile == tile && x.ctx == c && x.page == e.page && x.size == e.size)
  let mine := others.filter fun x => x.tile == tile
  let kept := if mine.length < 64 then others
    else match mine with
      | [] => others
      | x :: _ => others.filter fun z => z != x
  { y with tlb := kept ++ [e] }

/-- Walks that are under way or queue at the walker, those whose page was declined apart (R304). -/
def Die.active (y : Die) : List Walk := y.walks.filter fun w => !w.declined

/-- The larger count of each die. -/
def Stamp.join (a b : Stamp) : Stamp := Vector.ofFn fun i => max a[i] b[i]

/-- One more access waits for a walk, which takes the higher priority (R257, R304). -/
def Walk.share (w v : Walk) : Walk :=
  { w with who := w.who ++ v.who.filter (fun r => !w.who.contains r), stamp := w.stamp.join v.stamp
           prio := max w.prio v.prio }

/-- A walk joins the queue behind those of its priority or a higher one (R304). -/
def queueWalk (w : Walk) (l : List Walk) : List Walk :=
  l.takeWhile (fun v => w.prio ≤ v.prio) ++ [w] ++ l.dropWhile (fun v => w.prio ≤ v.prio)

/-- A walk asked for: misses to one page of one context share one (R304); beyond 32 they queue by effective priority, then
by arrival (R257). -/
def Die.askWalk (y : Die) (w : Walk) : Die :=
  let act := y.active
  let off := y.walks.filter (·.declined)
  let same := fun (v : Walk) => v.ctx == w.ctx && v.page == w.page
  let back := act.drop 32
  if (act.take 32).any same then { y with walks := (act.map fun v => if same v then v.share w else v) ++ off }
  else if act.length < 32 then { y with walks := act ++ [w] ++ off }
  else match back.find? same with
    | some v => { y with walks := act.take 32 ++ (if v.prio < w.prio then queueWalk (v.share w) (back.erase v)
                                                  else back.map fun u => if u = v then v.share w else u) ++ off }
    | none => { y with walks := act.take 32 ++ queueWalk w back ++ off }

/-- An access takes the decline of a walk it waited for (R80, R305): the walk goes with the last of them. -/
def Die.takeDecline (y : Die) (c page : Nat) (r : Req) : Die :=
  { y with walks := y.walks.filterMap fun w =>
      if w.declined ∧ w.ctx = c ∧ w.page = page then
        let who := w.who.filter (· != r)
        if who.isEmpty then none else some { w with who := who }
      else some w }

/-- The strand that a request belongs to. -/
def Req.strand : Req → Nat
  | .node k _ _ _ _ | .chain k _ | .coll k _ | .geode k _ | .seq k => k
  | _ => 0

/-- Who makes an access: the tile whose translation cache and log entries it concerns, and what waits. -/
structure Asker where
  tile : Nat
  req : Req

/-- A strand's sequencer, on its lead tile. -/
def Strand.asker (x : Strand) : Asker := ⟨x.lead, .seq (strandKey x.die x.lead)⟩

/-- Effective priority of what waits (R257, R304): its strand's; a generator's is that of the strand it works for. -/
def State.prioOf (s : State) (r : Req) : Nat :=
  let k := match r with
    | .gen d tile g => ((look (tile * 4 + g) (s.die d).streams).map (·.k)).getD 0
    | r => r.strand
  ((s.strand? k).map (·.eff)).getD 0

/-! ### Traffic counters (R58) -/

/-- Lines of 64 bytes that an access touches. -/
def linesOf (a n : Nat) : Nat := if n = 0 then 0 else (a + n - 1) / 64 - a / 64 + 1

/-- Reads counted on a die (R58). -/
def Die.countReads (y : Die) (local? : Bool) (n : Nat) : Die :=
  if local? then { y with mrdloc := y.mrdloc + BitVec.ofNat 64 n } else { y with mrdrem := y.mrdrem + BitVec.ofNat 64 n }

/-- Stores counted on a die (R58). -/
def Die.countStores (y : Die) (n : Nat) : Die := { y with mstcnt := y.mstcnt + BitVec.ofNat 64 n }

/-! ### Paths, numbers and stamps (R61 to R64) -/

/-- A stamp with one die's count raised to n. -/
def Stamp.raise (a : Stamp) (d n : Nat) : Stamp :=
  a.set (d % 4) (max n (a[d % 4]'(Nat.mod_lt _ (by decide)))) (Nat.mod_lt _ (by decide))

/-- A stamp's count of a die. -/
def Stamp.at (a : Stamp) (d : Nat) : Nat := a[d % 4]'(Nat.mod_lt _ (by decide))

/-- Operations that a home applies as writes (R58, R69, R84, R250, R251). -/
def HomeOp.isWrite : HomeOp → Bool
  | .read _ _ | .mona _ _ => false
  | _ => true

/-- The path from a die to a home. -/
def Die.path (y : Die) (h : Nat) : List Msg := y.paths[h % 4]'(Nat.mod_lt _ (by decide))

/-- A path replaced. -/
def Die.setPath (y : Die) (h : Nat) (l : List Msg) : Die :=
  { y with paths := y.paths.set (h % 4) l (Nat.mod_lt _ (by decide)) }

/-- The messages of a path that are in flight: at most 4,096 writes, and the reads among them; what follows waits in order
at the issuing die (R64). -/
def inFlight : Nat → List Msg → List Msg
  | _, [] => []
  | n, m :: l => if m.op.isWrite then (if n = 0 then [] else m :: inFlight (n - 1) l) else m :: inFlight n l

/-- The messages in flight from a die to a home (R64). -/
def Die.flying (y : Die) (h : Nat) : List Msg := inFlight 4096 (y.path h)

/-- An operation sent from die d towards home h with a stamp (R63): a write takes the die's next number. The answer is
the number and the state. -/
def State.send (s : State) (d h : Nat) (stamp : Stamp) (op : HomeOp) (req : Req) : Nat × State :=
  let y := s.die d
  let n := if op.isWrite then y.wcount + 1 else y.wcount
  (n, s.modDie d fun y => { y.setPath h (y.path h ++ [{ num := n, stamp := stamp, op := op, req := req }]) with
    wcount := n })

/-- Every write that a stamp covers has been applied: none stands on a path (R63). -/
def State.quiet (s : State) (st : Stamp) : Bool :=
  (List.range 4).all fun d => (List.range 4).all fun h =>
    ((s.die d).path h).all fun m => !(m.op.isWrite && m.num ≤ st.at d)

/-- What a home knows of every die's writes: its dependency vector joined over the homes of the package, what a reader
of any of them takes on (R63). -/
def State.depAll (s : State) : Stamp :=
  ((s.die 0).dep.join (s.die 1).dep).join ((s.die 2).dep.join (s.die 3).dep)

/-! ### Accesses made in one step (log 13) -/

/-- A range of virtual addresses cut at the ends of 64-byte lines, with fuel. -/
def lineCuts : Nat → Nat → Nat → List (Nat × Nat)
  | 0, _, _ => []
  | f + 1, a, n => if n = 0 then [] else
      let m := min n (64 - a % 64)
      (a, m) :: lineCuts f (a + m) (n - m)

/-- Pieces of a range, at most a line each. -/
def pieces (a n : Nat) : List (Nat × Nat) := lineCuts (n / 64 + 2) a n

/-- How a direct access stands: to be tried again, a cause with its address, or its result. -/
inductive Direct (α : Type) where
  | wait (s : State)
  | fail (s : State) (cause va : Nat)
  | ok (v : α)

/-- The access kind as a fault record gives it (R305): bit 0 read, bit 1 write, bit 2 fetch. -/
def AccK.kindBit : AccK → Nat
  | .wr => 2
  | .fx => 4
  | .rd | .mona => 1

/-- Fault records that a context's ring holds, as a power of two; 0 without a ring (R305). -/
def Ctx.fltSize (c : Ctx) : Nat := bits c.fltring.toNat 4 0

/-- The physical address and home of an address that an access touches. An absent page waits for the fault service (R80,
R305): a walk is asked for, and a decline gives 0x05; with no fault ring the decline is immediate. -/
def State.physAddr (s : State) (c d : Nat) (w : Asker) (st : Stamp) (k : AccK) (va : Nat) : Direct (Nat × Nat) :=
  match s.translate c d va k with
  | .ok pa h => .ok (pa, h)
  | .refused => .fail s 0x06 va
  | .absent =>
    let page := va / 2 ^ 14
    if (s.ctx? c).all (fun x => x.fltSize == 0) then .fail s 0x05 va
    else if (s.die d).walks.any fun v => v.declined && v.ctx == c && v.page == page && v.who.contains w.req then
      .fail (s.modDie d fun y => y.takeDecline c page w.req) 0x05 va
    else .wait (s.modDie d fun y => y.askWalk
      { ctx := c, page := page, acc := k.kindBit, tile := w.tile,
        prio := s.prioOf w.req, seq := none, declined := false, who := [w.req], stamp := st })

/-- The physical pieces of a range, each with its home, up to the first that does not translate. -/
def State.physPieces (s : State) (c d : Nat) (w : Asker) (st : Stamp) (k : AccK) :
    List (Nat × Nat) → Direct (List (Nat × Nat × Nat))
  | [] => .ok []
  | q :: l =>
    match s.physAddr c d w st k q.1 with
    | .wait t => .wait t
    | .fail t e a => .fail t e a
    | .ok p =>
      match s.physPieces c d w st k l with
      | .wait t => .wait t
      | .fail t e a => .fail t e a
      | .ok ps => .ok ((p.1, p.2, q.2) :: ps)

/-- Reads counted for pieces of a die's access (R58). -/
def State.countPieces (s : State) (d : Nat) (ps : List (Nat × Nat × Nat)) : State :=
  ps.foldl (fun s p => s.modDie d fun y => y.countReads (p.2.1 == d % 4) 1) s

/-- The first line of the pieces that meets an uncorrectable error (R79, R354), and the state with errors logged. -/
def State.sensePieces (s : State) (d tile ctx : Nat) : List (Nat × Nat × Nat) → State × Option Nat
  | [] => (s, none)
  | p :: ps =>
    let line := p.1 / 64 * 64
    let (t, u) := s.sense 0 3 (fun l => l == line) p.2.1 line (tile + 256 * d) ctx
    if u then (t, some line) else t.sensePieces d tile ctx ps

/-- The walks that translate an access's pieces meet an uncorrectable error in a page-table entry (R304, R354; log 30): its
line, and the state with errors logged. -/
def State.senseWalks (s : State) (d tile ctx : Nat) (ps : List (Nat × Nat)) : State × Option Nat :=
  if (s.die 0).armed.isEmpty then (s, none)
  else match s.ctx? ctx with
    | none => (s, none)
    | some x => s.sensePieces d tile ctx (ps.flatMap fun p => (walkEntries s.entryAt x.root p.1).map fun a =>
        (a, homeDie d (s.framePlace a) a, 8))

/-- Bytes read from a virtual range in one step, once the stamp is covered: the bytes, the stamp with what the homes
know, and the state with the reads counted where `count`. -/
def State.dread (s : State) (c d : Nat) (w : Asker) (st : Stamp) (k : AccK) (count : Bool) (va n : Nat) :
    Direct (List Byte × Stamp × State) :=
  if ¬ s.quiet st then .wait s
  else
    match s.physPieces c d w st k (pieces va n) with
    | .wait t => .wait t
    | .fail t e a => .fail t e a
    | .ok ps =>
      match s.senseWalks d w.tile c (pieces va n) with
      | (t, some pa) => .fail t 0x10 pa
      | (s, none) =>
      let s := if count then s.countPieces d ps else s
      match s.sensePieces d w.tile c ps with
      | (t, some pa) => .fail t 0x10 pa
      | (t, none) => .ok (ps.flatMap fun p => t.mem.readN p.1 p.2.2, st.join t.depAll, t)

/-- The lines of a range that has been read, counted once the act that read it has gone through (R58). -/
def State.countRange (s : State) (c d : Nat) (k : AccK) (va n : Nat) : State :=
  match s.physPieces c d ⟨0, .nobody⟩ Stamp.zero k (pieces va n) with
  | .ok ps => s.countPieces d ps
  | _ => s

/-- Bytes cut into pieces of the lengths given. -/
def cutBytes : List (Nat × Nat × Nat) → List Byte → List (Nat × Nat × List Byte)
  | [], _ => []
  | (pa, h, n) :: ps, bs => (pa, h, bs.take n) :: cutBytes ps (bs.drop n)

/-- The pieces of a range whose page a tile's cache does not hold: an access to them walks (R304). -/
def State.misses (s : State) (c d tile : Nat) (ps : List (Nat × Nat)) : List (Nat × Nat) :=
  ps.filter fun p => ((s.die d).cached? tile c p.1).isNone

/-- The leaves that the walks of a range's pieces found enter a tile's cache (R304). -/
def State.keepLeaves (s : State) (c d tile : Nat) (ps : List (Nat × Nat)) : State :=
  ps.foldl (fun s p => match (s.ctx? c).bind fun x => s.walk x.root p.1 with
    | some l => s.modDie d fun y => y.cache tile c p.1 l
    | none => s) s

/-- A range to be written translates now: the stamp with which its writes go out, its pieces, and the state. A walk that
translates a piece is an acquire after the earlier accesses that the stamp covers (R304), and may meet an uncorrectable error
(R354); a page that the tile's cache holds needs none. -/
def State.reach (s : State) (c d : Nat) (w : Asker) (st : Stamp) (va n : Nat) :
    Direct (Stamp × List (Nat × Nat × Nat) × State) :=
  let miss := s.misses c d w.tile (pieces va n)
  if ¬ (miss.isEmpty ∨ s.quiet st) then .wait s
  else match s.physPieces c d w st .wr (pieces va n) with
  | .wait t => .wait t
  | .fail t e a => .fail t e a
  | .ok ps =>
    match s.senseWalks d w.tile c miss with
    | (t, some pa) => .fail t 0x10 pa
    | (t, none) => .ok (if miss.isEmpty then st else st.join t.depAll, ps, t.keepLeaves c d w.tile miss)

/-- Writes sent for pieces, one message a line (R58, R61, R63): the stamp with the last number, and the state. -/
def State.dsend (s : State) (d : Nat) (st : Stamp) (req : Req) (count : Bool) (ps : List (Nat × Nat × Nat)) (bs : List Byte) :
    Stamp × State :=
  (cutBytes ps bs).foldl (fun (acc : Stamp × State) p =>
    let (n, t) := acc.2.send d p.2.1 acc.1 (.write p.1 p.2.2) req
    (acc.1.raise d n, if count then t.modDie d fun y => y.countStores 1 else t)) (st, s)

/-- A virtual range written by an agent in one act: how many messages, the stamp with the last number, and the state. -/
def State.dwrite (s : State) (c d : Nat) (w : Asker) (st : Stamp) (req : Req) (count : Bool) (va : Nat) (bs : List Byte) :
    Direct (Nat × Stamp × State) :=
  match s.reach c d w st va bs.length with
  | .wait t => .wait t
  | .fail t e a => .fail t e a
  | .ok (st, ps, s) =>
    let (st, s) := s.dsend d st req count ps bs
    .ok (ps.length, st, s)

/-- Monitors on lines that a write of n bytes at pa touches are set, on every die (R88). -/
def State.setMonitors (s : State) (pa n : Nat) : State :=
  { s with dies := s.dies.map fun y => { y with monitors := y.monitors.map fun m =>
      if pa / 64 ≤ m.2.1 ∧ m.2.1 ≤ (pa + n - 1) / 64 then (m.1, m.2.1, true) else m } }

/-- A write applied at its home (R56, R88). -/
def State.poke (s : State) (pa : Nat) (bs : List Byte) : State :=
  ({ s with mem := s.mem.writeN pa bs }).setMonitors pa bs.length

/-- A write applied in one step at the homes of a virtual range, for records that hardware units write (R256, R305,
R333); where the range does not translate, nothing is written. -/
def State.vpoke (s : State) (c d va : Nat) (bs : List Byte) : State :=
  match s.physPieces c d ⟨0, .nobody⟩ Stamp.zero .wr (pieces va bs.length) with
  | .ok ps => (cutBytes ps bs).foldl (fun s p => s.poke p.1 p.2.2) s
  | _ => s

/-- Bytes at a virtual range as a hardware unit reads them back; zeros where the range does not translate. -/
def State.vpeek (s : State) (c d va n : Nat) : List Byte :=
  match s.physPieces c d ⟨0, .nobody⟩ Stamp.zero .rd (pieces va n) with
  | .ok ps => ps.flatMap fun p => s.mem.readN p.1 p.2.2
  | _ => List.replicate n 0

end Sys2Proof.Machine
end

