-- ==== Sys2Proof/Machine/Rows.lean ====
section
/-! DEFINITION. Machine/Rows.lean: a window as data: derived quantities, rows, markers, fills, shrinks, the stamps of its
slots, and its image (R67, R145, R147, R150, R152). -/

namespace Sys2Proof.Machine

open Sys2Proof

/-- Capacity (R145). -/
def Win.cap (w : Win) : Nat := w.capm1.toNat + 1
/-- Extent (R145). -/
def Win.extent (w : Win) : Nat := (w.tail - w.head).toNat
/-- Free elements (R145). -/
def Win.free (w : Win) : Nat := w.cap - w.extent
/-- Element size in bytes (R145). -/
def Win.elem (w : Win) : Nat := 64 * 2 ^ w.esz.toNat
/-- Token rows per element (R145). -/
def Win.rpe (w : Win) : Nat := max 1 (w.elem / 128)
/-- Data bytes a row (R152). -/
def Win.rowBytes (w : Win) : Nat := min w.elem 128
/-- Entries in the spill ring (R145). -/
def Win.ring (w : Win) : Nat := (w.rtail - w.rhead).toNat

/-- Valid bits of a full row (R152). -/
def Win.allValid (w : Win) : BitVec 32 := BitVec.ofNat 32 (2 ^ (w.rowBytes / 4) - 1)

/-- Row r of the element at absolute count c. -/
def Win.rowAt (w : Win) (c : BitVec 32) (r : Nat) : Row := (look (c.toNat * w.rpe + r) w.rows).getD Row.zero

/-- Row r of the element at offset e. -/
def Win.row (w : Win) (e r : Nat) : Row := w.rowAt (w.head + BitVec.ofNat 32 e) r

/-- The kind of a marker at offset e, or none (R147). -/
def Win.markerAt (w : Win) (e : Nat) : Option Nat :=
  if (w.row e 0).tag = .mark then some ((w.row e 0).data.toNat % 256) else none

/-- Byte offset in the tile's SRAM of a row of the element at absolute count c (R145). -/
def Win.sram (w : Win) (c : BitVec 32) (r : Nat) : Nat := w.base.toNat * 64 + c.toNat % w.cap * w.elem + r * 128

/-- An end-of-stream element lies at an offset below e (R150). -/
def Win.eosBelow (w : Win) (e : Nat) : Bool :=
  w.eos && (List.range (min e w.extent)).any fun i => w.markerAt i == some 0x01

/-- A token as a row of this window (R150): data beyond the element's bytes is dropped. -/
def Win.rowOf (w : Win) (t : Tok) : Row :=
  { data := BitVec.ofNat 1024 (t.rowData.toNat % 2 ^ (8 * w.rowBytes)), side := t.side, tag := t.tag,
    valid := w.allValid, bad := false }

/-- The rows of a marker element (R147). -/
def Win.markerRow (w : Win) (payload : Nat) : Row :=
  { data := BitVec.ofNat 1024 (payload % 2 ^ 64), side := 0, tag := .mark, valid := w.allValid, bad := false }

/-- The next row filled at the tail; the last row of an element advances the tail (R150). -/
def Win.putRow (w : Win) (r : Row) : Win :=
  let w := { w with rows := put (w.tail.toNat * w.rpe + w.frow) r w.rows }
  if w.frow + 1 = w.rpe then { w with frow := 0, tail := w.tail + 1 } else { w with frow := w.frow + 1 }

/-- A marker element filled at the tail (R147). Where an element stands begun there, the marker takes its place and its rows
are dropped (log 36). -/
def Win.putMarker (w : Win) (payload : Nat) : Win :=
  let zero := w.markerRow 0
  let rows := (List.range w.rpe).foldl
    (fun l i => put (w.tail.toNat * w.rpe + i) (if i = 0 then w.markerRow payload else zero) l) w.rows
  { w with rows := rows, tail := w.tail + 1, frow := 0, eos := w.eos || payload % 256 == 0x01 }

/-- What the last fill of an element slot, and the shrink that freed it, had seen (R67); the ring's entries stand from 65,536
on. -/
def Win.stampAt (w : Win) (n : Nat) : Stamp := (look n w.stamps).getD Stamp.zero

/-- The slot of the element at absolute count c (R145). -/
def Win.slot (w : Win) (c : BitVec 32) : Nat := c.toNat % w.cap

/-- The slots of the n elements from absolute count c on. -/
def Win.slots (w : Win) (c : BitVec 32) (n : Nat) : List Nat := (List.range n).map fun i => w.slot (c + BitVec.ofNat 32 i)

/-- Slots take a stamp on (R67). -/
def joinStamps (l : List Nat) (t : Stamp) (m : List (Nat × Stamp)) : List (Nat × Stamp) :=
  l.foldl (fun m n => put n (((look n m).getD Stamp.zero).join t) m) m

/-- What the slots of a list have seen together (R67). -/
def Win.seen (w : Win) (l : List Nat) : Stamp := l.foldl (fun t n => t.join (w.stampAt n)) Stamp.zero

/-- The slots that a fill touches which makes `v` of `w`: those of the elements from the old tail to the new, and of an
element that stands begun. -/
def Win.touched (w v : Win) : List Nat := w.slots w.tail ((v.tail - w.tail).toNat + if v.frow = 0 then 0 else 1)

/-- The head moved past n elements by a drainer that has seen `t`: their rows go, an end-of-stream element among them clears
eos, and what fills their slots again comes after (R67, R147, R150). -/
def Win.shrink (w : Win) (n : Nat) (t : Stamp) : Win :=
  { w with head := w.head + BitVec.ofNat 32 n
           stamps := joinStamps (w.slots w.head n) t w.stamps
           eos := w.eos && !((List.range n).any fun i => w.markerAt i == some 0x01)
           rows := w.rows.filter fun e => n ≤ (BitVec.ofNat 32 (e.1 / w.rpe) - w.head).toNat }

/-- A row of an element at offset e replaced (R150). -/
def Win.setRow (w : Win) (e r : Nat) (x : Row) : Win :=
  { w with rows := put ((w.head + BitVec.ofNat 32 e).toNat * w.rpe + r) x w.rows }

/-- The descriptor as a number (R145). -/
def Win.descriptor (w : Win) : Nat :=
  w.head.toNat + w.tail.toNat * 2 ^ 32 + w.capm1.toNat * 2 ^ 64 + w.esz.toNat * 2 ^ 80 + w.tag.code * 2 ^ 83
    + w.base.toNat * 2 ^ 87 + (if w.vmode then 2 ^ 102 else 0) + (if w.spill then 2 ^ 103 else 0)
    + (match w.state with | .closed => 0 | .opened => 1 | .linked => 2) * 2 ^ 104 + (if w.eos then 2 ^ 106 else 0)
    + w.filler.toNat * 2 ^ 112 + w.drainer.toNat * 2 ^ 128 + w.rbase.toNat * 2 ^ 144 + w.rsize.toNat * 2 ^ 200
    + w.rhead.toNat * 2 ^ 208 + w.rtail.toNat * 2 ^ 224

/-- The image that WSAVE writes: the descriptor and the filled extent (R152). -/
def Win.image (w : Win) : List Byte :=
  leBytes 32 w.descriptor ++ (List.range w.extent).flatMap fun e => (List.range w.rpe).flatMap fun r =>
    (w.row e r).image w.rowBytes

/-- A window as WOPEN leaves it (R148). -/
def Win.opened (k tile index capm1 esz : Nat) (tag : Tag) (base : Nat) (vmode : Bool) : Win :=
  { head := 0, tail := 0, capm1 := BitVec.ofNat 16 capm1, esz := BitVec.ofNat 3 esz, tag := tag,
    base := BitVec.ofNat 15 base, vmode := vmode, spill := false, state := .opened, eos := false,
    filler := BitVec.ofNat 16 (strandId k), drainer := BitVec.ofNat 16 (strandId k), rbase := 0, rsize := 0, rhead := 0,
    rtail := 0, tile := tile, index := index, rows := [], frow := 0, rrow := 0, closing := false, link := [],
    producer := none, stamps := [] }

/-- A channel fill finds a credit: room in the window behind an empty ring, or in the ring; later rows of an element
begun go where it began (R155, R156). -/
def Win.credit (w : Win) : Bool :=
  w.frow != 0 || w.rrow != 0 || (w.free != 0 && w.ring == 0) || (w.spill && !w.closing && w.ring < 2 ^ w.rsize.toNat)

end Sys2Proof.Machine
end

