-- ==== Sys2Proof/Machine/Trace.lean ====
section
/-! DEFINITION. Machine/Trace.lean: the trace ring (R332, R333) and record and replay (R334 to R337). -/

namespace Sys2Proof.Machine

open Sys2Proof

/-- Base of a ring register with base in [55:12]. -/
def ringBase (v : Word) : Nat := bits v.toNat 55 12 * 2 ^ 12
/-- Size field of a ring register: 2^size slots. -/
def ringSize (v : Word) : Nat := bits v.toNat 4 0

/-- The transient rsid: that of the running block; it vanishes at the edge (R121). -/
def Strand.topRsid (x : Strand) : Nat := if x.phase = .edge then 0 else x.run.elim 0 (·.blk.rsid)

/-- A transient rsid stands on top (R332). -/
def Strand.transient (x : Strand) : Bool := x.topRsid != 0

/-- The region-stack identifiers of a trace record, top first, a transient rsid on top (R121, R332). -/
def Strand.topIds (x : Strand) : List Nat :=
  (if x.transient then [x.topRsid] else []) ++ x.rstack.reverse.map (·.toNat)

/-- The 32 bytes of a trace record (R332). -/
def traceBytes (x : Strand) (k : Nat) (cyc : BitVec 64) (kind block tag payload : Nat) : List Byte :=
  leBytes 8 cyc.toNat ++ leBytes 2 (strandId k) ++ leBytes 1 kind
    ++ leBytes 1 (x.rstack.length % 32 + (if x.rovf then 32 else 0) + if x.transient then 64 else 0)
    ++ (List.range 4).flatMap (fun i => leBytes 1 (x.topIds.getD i 0))
    ++ leBytes 7 block ++ leBytes 1 tag ++ leBytes 8 payload

/-- A trace record of a kind, where tracing is on and the kind enabled: written, or dropped and counted on a full ring
(R333). Where no page lies under its slot it is never applied, and neither TRCTAIL nor TRCDROP counts it (log 31). -/
def State.trace (s : State) (k kind block tag payload : Nat) : State :=
  match s.strand? k with
  | none => s
  | some x =>
    match s.ctx? x.ctx with
    | none => s
    | some c =>
      if bit c.trcctl.toNat 0 ∧ bit c.trcctl.toNat kind ∧ ringSize c.trcbuf ≠ 0 then
        let n := 2 ^ ringSize c.trcbuf
        let slot := ringBase c.trcbuf + c.trctail.toNat % n * 32
        let lies : Bool := match s.translate x.ctx x.die slot .wr with
          | .ok _ _ => true
          | _ => false
        if (c.trctail - c.trchead).toNat = n then s.modCtx x.ctx fun c => { c with trcdrop := c.trcdrop + 1 }
        else if ¬ lies then s
        else
          let s := s.vpoke x.ctx x.die slot (traceBytes x k (s.die x.die).cyc kind block tag payload)
          s.modCtx x.ctx fun c => { c with trctail := c.trctail + 1 }
      else s

/-- Record mode (R334). -/
def Ctx.recording (c : Ctx) : Bool := bit c.recctl.toNat 0
/-- Replay mode (R334). -/
def Ctx.playing (c : Ctx) : Bool := bit c.recctl.toNat 1

/-- Units of 16 bytes of a record of a kind (R335). -/
def recordUnits (kind : Nat) : Nat := if kind = 2 then 9 else if kind = 8 then 2 else 1

/-- The bytes of a log record (R335). -/
def recordBytes (k kind seq : Nat) (pay : List Byte) : List Byte :=
  let n := 16 * recordUnits kind - 8
  leBytes 2 (strandId k) ++ leBytes 1 kind ++ leBytes 1 (recordUnits kind) ++ leBytes 4 seq
    ++ (pay ++ List.replicate n 0).take n

/-- Bytes of the log at a unit, around the ring. -/
def State.logUnits (s : State) (c d : Nat) (x : Ctx) (u n : Nat) : List Byte :=
  (List.range n).flatMap fun i =>
    let va := ringBase x.recbuf + (u + i) % 2 ^ ringSize x.recbuf * 16
    match s.translate c d va .rd with
    | .ok pa _ => s.mem.readN pa 16
    | _ => List.replicate 16 0

/-- Log bytes written at a unit, around the ring. -/
def State.pokeUnits (s : State) (c d : Nat) (x : Ctx) (u : Nat) (bs : List Byte) : State :=
  (List.range (bs.length / 16)).foldl (fun s i =>
    s.vpoke c d (ringBase x.recbuf + (u + i) % 2 ^ ringSize x.recbuf * 16) ((bs.drop (16 * i)).take 16)) s

/-- The strand's next record from unit u on, below `top`, with fuel (R337): kind and payload. -/
def State.findRecord (s : State) (c d : Nat) (x : Ctx) (k seq top : Nat) : Nat → Nat → Option (Nat × List Byte)
  | 0, _ => none
  | f + 1, u =>
    if top ≤ u then none
    else
      let h := s.logUnits c d x u 1
      let n := max 1 (leNat ((h.drop 3).take 1))
      if leNat (h.take 2) = strandId k ∧ leNat ((h.drop 4).take 4) = seq then
        some (leNat ((h.drop 2).take 1), (s.logUnits c d x u n).drop 8)
      else s.findRecord c d x k seq top f (u + n)

/-- The strand's next log record in replay (R337). -/
def State.nextRecord (s : State) (k : Nat) : Option (Nat × List Byte) :=
  match s.strand? k with
  | none => none
  | some x =>
    match s.ctx? x.ctx with
    | none => none
    | some c =>
      let top := c.rechead.toNat
      let start := if top ≤ 2 ^ ringSize c.recbuf then 0 else c.rectail.toNat
      s.findRecord x.ctx x.die c k x.seqc.toNat top (2 ^ ringSize c.recbuf + 1) start

/-- A logged outcome of a kind (R335, R337): in record mode it is appended, none while the log is full; in replay the
logged bytes take its place, none while the strand's next record is of another kind or missing; else the live bytes. -/
def State.outcome (s : State) (k kind : Nat) (live : List Byte) : Option (List Byte × State) :=
  match s.strand? k with
  | none => some (live, s)
  | some x =>
    match s.ctx? x.ctx with
    | none => some (live, s)
    | some c =>
      let n := recordUnits kind
      let count := fun (s : State) =>
        (s.modCtx x.ctx fun c => { c with rectail := c.rectail + BitVec.ofNat 64 n }).modStrand k fun x =>
          { x with seqc := x.seqc + 1 }
      if c.recording then
        if 2 ^ ringSize c.recbuf < (c.rectail - c.rechead).toNat + n then none
        else some (live, count (s.pokeUnits x.ctx x.die c c.rectail.toNat (recordBytes k kind x.seqc.toNat live)))
      else if c.playing then
        match s.nextRecord k with
        | some (j, bs) => if j = kind then some (bs, count s) else none
        | none => none
      else some (live, s)

/-- Whether outcomes of a context are logged or replayed at all. -/
def State.logs (s : State) (k : Nat) : Bool :=
  match (s.strand? k).bind fun x => s.ctx? x.ctx with
  | some c => c.recording || c.playing
  | none => false

/-- Whether reads of the reader's own die are logged (R334). -/
def State.logsLocal (s : State) (k : Nat) : Bool :=
  match (s.strand? k).bind fun x => s.ctx? x.ctx with
  | some c => bit c.recctl.toNat 2
  | none => false

end Sys2Proof.Machine
end

