-- ==== Sys2Proof/Machine/Waits.lean ====
section
/-! DEFINITION. Machine/Waits.lean: the wait-for table: entries, owners, walks, charges, the deadlock record, overflow
and inheritance (R252 to R260, R153, R212, R230, R290, R328, R329). -/

namespace Sys2Proof.Machine

open Sys2Proof

/-- Window identity: die [1:0], tile [9:2], index [15:10] (R204, R252). -/
def Win.ident (w : Win) (k : Nat) : Nat := k / 256 % 4 + w.tile % 256 * 4 + w.index % 64 * 2 ^ 10

/-- Identity of a stream generator (R252). -/
def genId (d tile g : Nat) : Nat := 0xA000 + d % 4 * 2 ^ 11 + tile % 256 * 2 ^ 3 + g % 8

/-- Identity of an engine of die d in the wait-for table (R252). -/
def engineId (kind d : Nat) : Nat := kind * 2 ^ 13 + d % 4 * 2 ^ 11

/-- Identity of an engine as filler or drainer of a window of a tile (R145). -/
def engineIdent (kind d tile : Nat) : Nat := engineId kind d + tile % 256 * 2 ^ 3

/-- The owner that a filler or drainer stands for (R252): an engine's identity holds no tile there, and a channel's filler
is its producer strand. -/
def ownerIdent (v : Nat) : Nat :=
  match v / 2 ^ 13 with
  | 2 => engineId 2 (bits v 12 11)
  | 3 => engineId 3 (bits v 12 11)
  | 4 => 0x2000 + v % 2 ^ 13 / 8 * 8
  | _ => v

/-- The window an entry of a strand's directory holds. -/
def State.win? (s : State) (k w : Nat) : Option Win := (s.strand? k).bind fun x => look w x.wins

/-- Who must move for a copy chain to go on (R212). -/
def State.chainOwner (s : State) (k : Nat) (c : CopyChain) : Nat :=
  match c.cstate with
  | .running => if c.serv then 0 else engineId 2 (k / 256)
  | .waiting => match c.win.bind fun e => s.win? e.1 e.2 with
    | some w => ownerIdent w.drainer.toNat
    | none => 0
  | .eventq => strandId k
  | _ => 0

/-- Who must move for a collective chain to go on (R230). -/
def collOwner (k : Nat) (c : CollChain) : Nat :=
  match c.cstate with
  | .running | .waiting => if c.serv then 0 else engineId 6 (k / 256)
  | .eventq => strandId k
  | _ => 0

/-- Who fills the window at entry e of strand k (R145, R252): the filler, a channel's producer strand, or what the
filling copy chain waits for. -/
def State.fillerOf (s : State) (k e : Nat) (w : Win) : Nat :=
  match w.filler.toNat / 2 ^ 13 with
  | 2 =>
    match s.strands.findSome? fun (j, x) => x.copies.findSome? fun (_, c) =>
        if c.win = some (k, e) ∧ (c.cstate = .running ∨ c.cstate = .waiting ∨ c.cstate = .eventq) then some (j, c)
        else none with
    | some (j, c) => s.chainOwner j c
    | none => engineId 2 (k / 256)
  | _ => ownerIdent w.filler.toNat

/-- A copy chain may still push an event record (R212, R214): a published record not yet captured counts as possibly
flagged. -/
def CopyChain.mayEvent (c : CopyChain) : Bool :=
  match c.cstate with
  | .halted => false
  | .eventq => true
  | .idle => c.tail != c.pos
  | _ => c.recd.isEmpty || bit (leNat ((c.recd.drop 49).take 1)) 5 || c.tail != c.pos

/-- A collective chain may still push an event record (R230, R214). -/
def CollChain.mayEvent (c : CollChain) : Bool :=
  match c.cstate with
  | .halted => false
  | .eventq => true
  | .idle => c.tail != c.pos
  | _ => c.step.all (fun t => bit t.flags.toNat 5) || c.tail != c.pos

/-- The owner of an EVPOP's wait (R212, R230). -/
def State.eventOwner (s : State) (k : Nat) : Nat :=
  match s.strand? k with
  | none => 0
  | some x =>
    match x.copies.find? fun c => c.2.mayEvent with
    | some (_, c) => s.chainOwner k c
    | none => match x.colls.find? fun c => c.2.mayEvent with
      | some (_, c) => collOwner k c
      | none => 0

/-- The strand whose TCUR holds a handle (R252). -/
def State.taskOwner (s : State) (h : Nat) : Nat :=
  match s.strands.find? fun e => e.2.tcur.toNat == h && h != 0 with
  | some (k, _) => strandId k
  | none => 0

/-- The member that a gang's phase waits for: the one not in A with the lowest die and lead tile (R252). -/
def Gang.missing (g : Gang) : Nat :=
  match g.members.filter fun m => !g.arrived.contains m with
  | [] => 0
  | m :: ms => strandId (ms.foldl min m)

/-- The holder of a lock word (R250). -/
def State.lockHolder (s : State) (pa : Nat) : Nat := if bit (s.mem.readNat pa 8) 63 then s.mem.readNat pa 2 else 0

/-- The owner of the oldest live ticket of a die, while its strand stands (R282, R290). -/
def State.oldestIssuer (s : State) (d : Nat) : Nat :=
  let best := (s.die d).tickets.foldl (fun (m : Option Ticket) e =>
    match m with
    | none => some e.2
    | some t => if e.2.order < t.order then some e.2 else m) none
  match best with
  | some t => if (s.strand? t.issuer).isSome then strandId t.issuer else 0
  | none => 0

/-- What a wait registers (R153, R252): kind, object identity, offset and owner; none for a wait that registers no
entry. -/
def State.waitInfo (s : State) (k : Nat) (why : Why) : Option (Nat × Nat × Nat × Nat) :=
  match why with
  | .winRead j w off => (s.win? j w).map fun x => (0, x.ident j, off, s.fillerOf j w x)
  | .winFill j w off => (s.win? j w).map fun x => (1, x.ident j, off, ownerIdent x.drainer.toNat)
  | .opRead d tile off => some (0, d % 4 + tile % 256 * 4, off, strandId k)
  | .opFill d tile => some (1, d % 4 + tile % 256 * 4,
      (match look tile (s.die d).opwins with
       | some o => (o.tail - o.head).toNat
       | none => 0), strandId k)
  | .gang g ph => some (2, g % 256 + ph % 2 ^ 32 * 2 ^ 8, 0,
      match (s.strand? k).bind fun x => (s.ctx? x.ctx).bind fun c => look g c.gangs with
      | some q => q.missing
      | none => 0)
  | .lock pa => some (3, pa, 0, s.lockHolder pa)
  | .queue pa => some (4, pa, 0, 0)
  | .monitor pa => some (5, pa, 0, 0)
  | .copySeq ch _ => some (6, strandId k + ch % 256 * 2 ^ 16, 0,
      match (s.strand? k).bind fun x => look ch x.copies with
      | some c => s.chainOwner k c
      | none => 0)
  | .events => some (6, strandId k + 0xFF * 2 ^ 16, 0, s.eventOwner k)
  | .collSeq ch _ => some (7, strandId k + ch % 256 * 2 ^ 16, 0,
      match (s.strand? k).bind fun x => look ch x.colls with
      | some c => collOwner k c
      | none => 0)
  | .task h => some (8, h, 0, s.taskOwner h)
  | .geode _ 0 _ _ _ => none
  | .geode t reason off j w => some (9, strandId k + t % 16 * 2 ^ 16 + reason % 16 * 2 ^ 20, off,
      match reason with
      | 1 => s.oldestIssuer (k / 256)
      | 2 => match s.win? j w with
        | some x => ownerIdent x.drainer.toNat
        | none => 0
      | 3 => match s.win? j w with
        | some x => s.fillerOf j w x
        | none => 0
      | 4 => engineId 3 (k / 256)
      | _ => 0)
  | _ => none

/-- The strand of an identity is halted by a debugger (R252, R328). -/
def State.haltedId (s : State) (i : Nat) : Bool :=
  i / 2 ^ 13 == 1 && ((s.strand? (idKey i)).map fun x => bit x.dbgctl.toNat 4).getD false

/-- Waiter identity of a reference (R253). -/
def waiterIdent : WaiterRef → Nat
  | .node k _ _ => strandId k
  | .gen d tile g => genId d tile g
  | .entry _ _ => 0

/-- All entries of the package in the order (die, entry number). -/
def State.entries (s : State) : List (Nat × Nat × WfEnt) :=
  (List.range 4).flatMap fun d => (s.die d).wft.map fun e => (d, e.1, e.2)

/-- The walk of R254, with fuel: the entries of a path from identity x back to the waiter, or none. -/
def walkFrom (es : List (Nat × Nat × WfEnt)) (waiter : Nat) : Nat → Nat → Option (List WfEnt)
  | 0, _ => none
  | f + 1, x =>
    if x = waiter then some []
    else if f = 0 ∨ ¬ (x / 2 ^ 13 = 1 ∨ x / 2 ^ 13 = 5) then none
    else es.findSome? fun e =>
      if e.2.2.waiter.toNat = x then (walkFrom es waiter f e.2.2.owner.toNat).map fun l => e.2.2 :: l else none

/-- The cycle that entry e closes, e first (R254, R256). -/
def State.cycleOf (s : State) (fuel : Nat) (e : WfEnt) : Option (List WfEnt) :=
  (walkFrom s.entries e.waiter.toNat fuel e.owner.toNat).map fun l => e :: l

/-- Bytes of a wait-for entry (R252). -/
def WfEnt.bytes (e : WfEnt) : List Byte :=
  leBytes 8 e.obj.toNat ++ leBytes 4 e.off.toNat ++ leBytes 2 e.waiter.toNat ++ leBytes 2 e.owner.toNat
    ++ leBytes 8 (e.kind % 16 + 2 ^ 4 + (if e.hmark then 2 ^ 5 else 0) + (if e.sw then 2 ^ 6 else 0)
        + e.ctx % 64 * 2 ^ 7)

/-- The 320 bytes of the deadlock record (R256). -/
def deadlockRecord (cyc : List WfEnt) (sweep : Bool) : List Byte :=
  let es := cyc.take 16
  leBytes 2 es.length ++ leBytes 1 ((if 16 < cyc.length then 1 else 0) + if sweep then 2 else 0) ++ leBytes 5 0
    ++ leBytes 4 (if sweep then cyc.length else 0) ++ leBytes 52 0
    ++ (es.flatMap fun e => leBytes 2 e.waiter.toNat ++ leBytes 1 e.kind ++ leBytes 1 0 ++ leBytes 4 e.off.toNat
        ++ leBytes 8 e.obj.toNat)
    ++ leBytes (16 * (16 - es.length)) 0

/-- s31 of cause 0x09 (R256). -/
def deadlockExtra (cyc : List WfEnt) (sweep : Bool) : Nat :=
  min cyc.length 16 + (if 16 < cyc.length then 32 else 0) + if sweep then 64 else 0

/-- Stores of a strand that a unit performs for it at once (R256): numbered and counted as the strand's own (R58, R63);
where the range does not translate, nothing is written. -/
def State.strandStore (s : State) (k va : Nat) (bs : List Byte) : State :=
  match s.strand? k with
  | none => s
  | some x =>
    match s.physPieces x.ctx x.die ⟨x.lead, .seq k⟩ x.stamp .wr (pieces va bs.length) with
    | .ok ps => (cutBytes ps bs).foldl (fun s p =>
        let n := (s.die x.die).wcount + 1
        let s := (s.poke p.1 p.2.2).modDie x.die fun y => { y.countStores 1 with wcount := n }
        (s.modDie p.2.1 fun y => { y with dep := y.dep.raise x.die n }).modStrand k fun x =>
          { x with stamp := x.stamp.raise x.die n }) s
    | _ => s

/-- The record written for a strand, where its context has a record area (R256). -/
def State.writeDeadlock (s : State) (k : Nat) (cyc : List WfEnt) (sweep : Bool) : State :=
  match (s.strand? k).bind fun x => (s.ctx? x.ctx).map fun c => (x, c) with
  | none => s
  | some (_, c) =>
    if c.wfrb = 0 then s
    else s.strandStore k (ringBase c.wfrb + 512 * (128 * (k / 256) + k % 256 / 2)) (deadlockRecord cyc sweep)

/-- A ring record appended to a die's overflow ring (R258). -/
def State.ringRecord (s : State) (d : Nat) (e : WfEnt) (op : Nat) : State :=
  let y := s.die d
  let n := 2 ^ ringSize y.wfring
  (s.poke (ringBase y.wfring + y.wfrecs % n * 32) (e.bytes ++ leBytes 1 op ++ leBytes 7 0)).modDie d fun y =>
    { y with wfrecs := y.wfrecs + 1 }

/-- The overflow ring takes another record (R258). -/
def Die.ringRoom (y : Die) : Bool := ringSize y.wfring != 0 && y.wfrecs < 2 ^ ringSize y.wfring

/-- Host-assisted mode is left below 3,072 entries with no overflowed wait (R258). -/
def Die.leaveHost (y : Die) : Die :=
  if y.wfhost ∧ y.wft.length < 3072 ∧ y.wfover.isEmpty then { y with wfhost := false, wfrecs := 0 } else y

/-- Overflowed waits that `gone` picks have ended: the ring gets their removals (R258). -/
def State.endOverflowed (s : State) (d : Nat) (gone : WfEnt → Bool) : State :=
  let s := ((s.die d).wfover.filter gone).foldl
    (fun s e => if (s.die d).ringRoom then s.ringRecord d e 2 else s) s
  s.modDie d fun y => Die.leaveHost { y with wfover := y.wfover.filter fun e => !gone e }

/-- Entries and overflowed waits that `gone` picks removed on every die (R252, R258). -/
def State.removeEntries (s : State) (gone : WfEnt → Bool) : State :=
  (List.range 4).foldl (fun s d =>
    (s.modDie d fun y => { y with wft := y.wft.filter fun e => !gone e.2 }).endOverflowed d gone) s

/-- A node wait of strand k, not one that software entered. -/
def WfEnt.nodeOf (e : WfEnt) (k : Nat) : Bool :=
  !e.sw && match e.who with
    | .node j _ _ => j == k
    | _ => false

/-- Entries of the node waits of a strand's running block removed; software entries stay (R116, R153). -/
def State.dropBlockEntries (s : State) (k : Nat) : State := s.removeEntries fun e => e.nodeOf k

/-- Every wait of a run registers again: no entry of it stands (R116, R153, R272). -/
def Run.unregistered (r : Run) : Run :=
  { r with nodes := r.nodes.map fun n =>
      { n with pend := n.pend.map fun p => { p with reg := false }, out := n.out.map fun o => { o with reg := false } } }

/-- Context register THND of a strand. -/
def State.thndOf (s : State) (x : Strand) : Word := ((s.ctx? x.ctx).map fun c => c.thnd).getD 0

/-- Trap entry of a strand with its trace record of kind 2 (R116, R332). -/
def State.trapNow (s : State) (k cause origin block extra tres : Nat) (susp : Bool) : State :=
  match s.strand? k with
  | none => s
  | some x =>
    let s := s.trace k 2 block 0 (cause % 256 + origin / 2 ^ 8 % 2 ^ 32 * 2 ^ 8)
    s.modStrand k fun _ => x.enterTrap (s.thndOf x) cause origin block extra tres susp

/-- Cause 0x09 or 0x0A of a strand at once (R116, R255, R258): its waiting block is suspended; with no block running the
trap is taken at its next edge. In handler mode it is a double trap, and the block stays as it is. -/
def State.chargeStrand (s : State) (k cause origin extra : Nat) : State :=
  match s.strand? k with
  | none => s
  | some x =>
    match x.phase, x.run with
    | .run, some r =>
      if x.hmode ∨ thndBase (s.thndOf x) = 0 then s.trapNow k cause origin r.blk.addr extra r.blk.addr true
      else
        let s := s.dropBlockEntries k
        (s.trapNow k cause origin r.blk.addr extra r.blk.addr true).modStrand k fun y =>
          { y with susp := some r.unregistered, run := none }
    | _, _ => s.oweTrap k { cause := cause, origin := origin, extra := extra, atExit := false }

/-- The origin word of LOOPN: its high half holds the iteration count (R183). -/
def loopOrigin (o i : Nat) : Nat := o % 2 ^ 32 + i % 2 ^ 32 * 2 ^ 32

/-- A node of a strand's running block is a LOOPN, whose iterations are its own (R183). -/
def State.loops (s : State) (k slot : Nat) : Bool :=
  match (s.run? k).bind fun r => r.blk.instr? slot with
  | some (.loopn _) => true
  | _ => false

/-- The iteration of a wait (R274): that of its firing, and of a LOOPN the one that it has come to. -/
def State.waitIter (s : State) (p : Pend) : Nat :=
  if s.loops p.fire.k p.fire.slot then p.prog.headD 0 else p.fire.iter

/-- The strand a waiter's charge falls on, with its origin word: of a node, that of the iteration whose wait it is (R255,
R274). -/
def State.chargeOf (s : State) (e : WfEnt) : Nat × Nat :=
  match e.who with
  | .node k copy slot =>
    let o := s.originOf { Firing.zero with k := k, copy := copy, slot := slot, iter := e.iter }
    (k, if s.loops k slot then loopOrigin o e.iter else o)
  | .gen d tile g =>
    match look (tile * 4 + g) (s.die d).streams with
    | some t => (t.k, seqOrigin t.k 0)
    | none => (0, 0)
  | .entry _ _ => (idKey e.waiter.toNat, seqOrigin (idKey e.waiter.toNat) 0)

/-- The context of an entry detects with Jasper (R259). -/
def State.hostDetects (s : State) (ctx : Nat) : Bool := ((s.ctx? ctx).map fun c => bit c.wfmode.toNat 0).getD false

/-- The entries of a cycle that has been reported without a trap (R254). -/
def State.tellCycle (s : State) (cyc : List WfEnt) : State :=
  let tell := fun (e : Nat × WfEnt) => if cyc.contains e.2 then (e.1, { e.2 with told := true }) else e
  { s with dies := s.dies.map fun (y : Die) => { y with wft := y.wft.map tell } }

/-- A cycle found (R255, R259, R329): a debug stall where an entry is marked, a post to Jasper in host-assisted
detection, else cause 0x09 of the charged waiter, whose entry goes. A software entry is charged at the next edge and
its block is not suspended (R264). -/
def State.foundCycle (s : State) (d n : Nat) (e : WfEnt) (cyc : List WfEnt) (sweep : Bool) : State :=
  let (k, origin) := s.chargeOf e
  if cyc.any fun f => f.hmark then
    ((s.tellCycle cyc).writeDeadlock k cyc sweep).trace k 5 (((s.run? k).map fun r => r.blk.addr).getD 0) 0
      (min cyc.length 16)
  else if s.hostDetects e.ctx then
    (s.tellCycle cyc).modCtx e.ctx fun c => if c.posts.contains (3, e.waiter.toNat) then c
      else { c with posts := c.posts ++ [(3, e.waiter.toNat)] }
  else
    let s := s.modDie d fun y => { y with wft := del n y.wft }
    let s := s.writeDeadlock k cyc sweep
    let extra := deadlockExtra cyc sweep
    if e.sw then s.addTrap k { cause := 0x09, origin := origin, extra := extra, atExit := false }
    else s.chargeStrand k 0x09 origin extra

/-- An entry enters the table of die d and is walked (R254), or overflows (R258). -/
def State.enterWait (s : State) (d : Nat) (e : WfEnt) : State :=
  let e := { e with hmark := s.haltedId e.owner.toNat }
  let y := s.die d
  if y.wfhost ∨ 4096 ≤ y.wft.length then
    if y.ringRoom then
      (s.ringRecord d e 1).modDie d fun y =>
        { y with wfhost := true, wfovf := y.wfovf + 1, wfover := y.wfover ++ [e] }
    else
      let (k, origin) := s.chargeOf e
      s.chargeStrand k 0x0A origin 0
  else
    match freeKey 4096 y.wft with
    | none => s
    | some n =>
      let s := s.modDie d fun y => { y with wft := put n e y.wft }
      match s.cycleOf 32 e with
      | some cyc => s.foundCycle d n e cyc false
      | none => s

/-- The entry of a wait of an iteration (R252). -/
def waitEntry (i : Nat × Nat × Nat × Nat) (who : WaiterRef) (ctx it : Nat) : WfEnt :=
  { obj := BitVec.ofNat 64 i.2.1, off := BitVec.ofNat 32 i.2.2.1, waiter := BitVec.ofNat 16 (waiterIdent who),
    owner := BitVec.ofNat 16 i.2.2.2, kind := i.1, hmark := false, sw := false, ctx := ctx, who := who, iter := it,
    told := false }

/-- A wait that has ended leaves the table, or the ring gets its removal (R252, R258). Waits of one waiter are told
apart by kind, object and iteration. -/
def State.leaveWait (s : State) (who : WaiterRef) (kind obj it : Nat) : State :=
  let d := waiterIdent who / 2 ^ 11 % 4
  let mine := fun (e : WfEnt) => e.who = who && e.kind == kind && e.obj.toNat == obj && e.iter == it && !e.sw
  let y := s.die d
  match y.wft.find? fun e => mine e.2 with
  | some (n, _) => s.modDie d fun y => Die.leaveHost { y with wft := del n y.wft }
  | none => match y.wfover.find? mine with
    | none => s
    | some e =>
      (if y.ringRoom then s.ringRecord d e 2 else s).modDie d fun y =>
        Die.leaveHost { y with wfover := y.wfover.erase e }

/-- The entry of an operation in flight removed, where it stands (R252). -/
def State.endWait (s : State) (p : Pend) : State :=
  if p.reg then
    match s.waitInfo p.fire.k p.why with
    | some i => s.leaveWait (.node p.fire.k p.fire.copy p.fire.slot) i.1 i.2.1 (s.waitIter p)
    | none => s
  else s

/-- The window a port target of strand k fills: the consumer's entry where it is a channel, else the strand's own
(R154, R155). -/
def Strand.portWin (x : Strand) (k n : Nat) : Nat × Nat :=
  match look n x.chans with
  | some (j, e) => (j, e)
  | none => (k, n)

/-- WFINJ (R259, R260): Jasper's write names a strand, which takes cause 0x09. -/
def execWfinj (c : Nat) (i : BitVec 16) (s : State) : Host.Outcome State Fault Refusal :=
  .next (match s.ctx? c, s.strand? (idKey i.toNat) with
    | some _, some x =>
      if x.ctx = c ∧ i.toNat / 2 ^ 13 = 1 then
        let k := idKey i.toNat
        let s := s.modCtx c fun y => { y with wfinj := i.setWidth 64, posts := y.posts.filter fun p =>
          p != (3, i.toNat) }
        let full := (List.range 4).flatMap fun d => (s.die d).wfover
        let origin := match (s.entries.map (·.2.2) ++ full).find? fun e => e.waiter == i && !e.sw with
          | some e => (s.chargeOf e).2
          | none => seqOrigin k 0
        s.chargeStrand k 0x09 origin 0
      else s.modCtx c fun y => { y with wfinj := i.setWidth 64 }
    | some _, none => s.modCtx c fun y => { y with wfinj := i.setWidth 64 }
    | none, _ => s)

/-- Effective priority of an identity, with the depth left (R257). -/
def State.effDepth (s : State) : Nat → Nat → Nat
  | 0, i => if i / 2 ^ 13 = 1 then ((s.strand? (idKey i)).map fun x => x.base).getD 0 else 0
  | f + 1, i =>
    let own := if i / 2 ^ 13 = 1 then ((s.strand? (idKey i)).map fun x => x.base).getD 0 else 0
    (s.entries.filter fun e => e.2.2.owner.toNat == i && (i / 2 ^ 13 == 1 || i / 2 ^ 13 == 5)).foldl
      (fun m e => max m (s.effDepth f e.2.2.waiter.toNat)) own

/-- Effective priorities settle (R257). -/
def State.settlePrio (s : State) : State :=
  { s with strands := s.strands.map fun e => (e.1, { e.2 with eff := s.effDepth 8 (strandId e.1) }) }

end Sys2Proof.Machine
end

