-- ==== Sys2Proof/Machine/Seq.lean ====
section
/-! DEFINITION. Machine/Seq.lean: the memory sequence (R60, R61, R65, R85), the order of fills (R146), and operations
that may have to wait (R112, R153). -/

namespace Sys2Proof.Machine

open Sys2Proof

/-- Slots that hold a place in the strand's memory sequence: those of R60, and the other instructions whose entries
make their accesses sequence members (R152, R189, R214, R261, R321). -/
def isMember : Instr → Bool
  | .ldg _ u _ _ | .stg _ u _ _ | .ldgv _ u _ _ | .stgv _ u _ _ => !u
  | .amog .. | .fence .. | .acq .. | .rel .. | .mseq .. | .mona .. | .mwait .. => true
  | .wsave .. | .wrest .. | .cqapp .. | .cqtail .. | .clapp .. | .cltail .. => true
  | .tspawn .. | .trange .. | .tdone .. | .gbar .. | .lkacq .. | .lkrel .. | .qpush .. | .qpop .. => true
  | .splack .. | .stgst .. | .stgld .. | .ctxsv .. | .ctxrs .. | .scan .. | .elogrd .. | .attest .. => true
  | _ => false

/-- Members that write (R85: what waits behind FENCE.REL). -/
def isStore : Instr → Bool
  | .stg .. | .stgv .. | .rel .. | .amog .. | .wsave .. | .cqapp .. | .clapp .. | .lkacq .. | .lkrel .. | .qpush ..
  | .qpop .. | .stgst .. | .elogrd .. | .attest .. => true
  | _ => false

/-- Iterations of a node whose access has been issued or given up (R61): an access that waits for its translation has
not been issued, and MWAIT holds its position until it returns (log 15). -/
def Node.issuedTo (n : Node) : Nat :=
  match n.pend.find? fun p => match p.why with
    | .xlat _ | .monitor _ => true
    | _ => false with
  | some p => p.fire.iter
  | none => n.fired

/-- A node of a control block that has fired still owes its targets something. -/
def Node.owes (n : Node) : Bool := n.fired != 0 && (!n.pend.isEmpty || !n.out.isEmpty)

/-- Control-block slots that may still fire, given those known to (R61, R111): each unfilled position has a source that
owes or may fire. -/
def Run.aliveStep (r : Run) (known : List Nat) : List Nat :=
  (r.nodes.filter fun n => n.fired == 0 &&
    !predOff ((r.blk.instr? n.slot).elim .always pmodeOf) (r.posVal Region.zero n .pred 0) &&
    [Pos.left, .right, .pred, .third].all fun pos =>
      let ls := r.links.filter fun l => l.slot == n.slot && l.pos == pos
      ls.isEmpty || ls.any fun l => !l.items.isEmpty || known.contains l.src ||
        (r.nodes.any fun m => m.slot == l.src && m.owes)).map (·.slot)

/-- Control-block slots that may still fire. -/
def Run.alive (r : Run) : List Nat := (r.nodes.foldl (fun known _ => r.aliveStep known) [])

/-- Iterations below which member m has been issued or given up, as its successors see it (R61). -/
def Run.passed (r : Run) (g : Region) (m : Node) : Nat :=
  if r.blk.isFabric then
    let t := m.issuedTo
    if r.nodeCount g m.copy 128 m.slot ≤ t then t + r.iters g m.copy 0 + 1 else t
  else if m.fired = 0 ∧ !r.alive.contains m.slot then 1 else m.issuedTo

/-- Whether an earlier operation in flight holds back a later member (R83, R84, R85): an acquire, that of a gang's phase,
a lock's grant or a task's completion among them (R249, R250, R262), or, for a store, a release fence. An LKACQ goes out
beside a TDEP.W that waits, as the worked case of R257 shows. -/
def holdsBack (i : Instr) (store lock : Bool) : Bool :=
  match i with
  | .acq .. | .mwait .. | .gbar .. | .lkacq .. => true
  | .tdep _ x _ => x == .w && !lock
  | .amog _ _ d _ _ _ => d == .acquire || d == .both
  | .fence _ x _ _ => x != .rel || store
  | _ => false

/-- LKACQ. -/
def isLock : Instr → Bool
  | .lkacq .. => true
  | _ => false

/-- Accesses outside the sequence (R60). -/
def isLoose : Instr → Bool
  | .ldg _ u _ _ | .stg _ u _ _ | .ldgv _ u _ _ | .stgv _ u _ _ => u
  | _ => false

/-- Earlier in the memory sequence of one copy (R61). -/
def earlier (it slot it' slot' : Nat) : Bool := it < it' || (it == it' && slot < slot')

/-- A member's turn has come (R61): every member before it has been issued or has given up, and none in flight holds it
back. -/
def Run.turn (r : Run) (g : Region) (f : Firing) (store : Bool) : Bool :=
  r.nodes.all fun m =>
    if m.copy != f.copy then true
    else
      match r.blk.instr? m.slot with
      | none => true
      | some i =>
        (!isMember i || (if m.slot = f.slot then f.iter ≤ m.issuedTo
            else if m.slot < f.slot then f.iter < r.passed g m else f.iter ≤ r.passed g m)) &&
          m.pend.all fun p => !(earlier p.fire.iter m.slot f.iter f.slot && holdsBack i store ((r.blk.instr? f.slot).any isLock))

/-- An operation in flight that is an access not yet performed (R62, R65). -/
def Pend.isAccess (p : Pend) : Bool :=
  match p.why with
  | .memory | .xlat _ | .lock _ | .queue _ | .log => true
  | _ => false

/-- Slots that cannot fire before the firing: it, the members behind it, and what their outputs lead to. -/
def Run.behind (r : Run) (f : Firing) : List Nat :=
  let start := f.slot :: (r.nodes.filter fun m => m.copy == f.copy && decide (f.slot < m.slot) &&
    (r.blk.instr? m.slot).any isMember).map (·.slot)
  r.nodes.foldl (fun known _ => known ++ ((r.links.filter fun l => l.copy == f.copy && known.contains l.src &&
    !known.contains l.slot).map (·.slot)).eraseDups) start

/-- No earlier access outside the sequence is still to come: a release waits for it as for the members (R65, R219). One that
takes what the release, or a member behind it, gives comes after it. -/
def Run.looseDone (r : Run) (g : Region) (f : Firing) : Bool :=
  r.nodes.all fun m => m.copy != f.copy || !((r.blk.instr? m.slot).any isLoose) ||
    !earlier (r.nextIter g m) m.slot f.iter f.slot || (r.behind f).contains m.slot ||
    if r.blk.isFabric then decide (r.nodeCount g m.copy 128 m.slot ≤ r.nextIter g m)
    else m.fired != 0 || !r.alive.contains m.slot

/-- Every access of the block has been performed: a release of package scope or wider waits for it; one of die scope or
narrower only for the issue of earlier members (R65). -/
def Run.performed (r : Run) (g : Region) (f : Firing) (sc : Scope) : Bool :=
  r.looseDone g f && match sc with
  | .tile | .region | .die => r.nodes.all fun m => m.pend.all fun p => match p.why with
    | .xlat _ => false
    | _ => true
  | _ => r.nodes.all fun m => m.pend.all fun p => !p.isAccess

/-! ### The order of fills (R146) -/

/-- Directory entries that an instruction fills itself. -/
def fillsEntry (i : Instr) (e : Nat) : Bool :=
  match i with
  | .wfl _ w _ | .wflb _ w _ | .wmark _ w _ | .weos _ w _ => w.toNat == e
  | .psnk _ _ n _ => n.toNat == e
  | .splins _ w _ | .splrem _ w _ | .splbnd _ w _ => w.toNat == e
  | .gtdesc _ w _ _ => w.toNat == e
  | _ => false

/-- A target that fills an entry (R154). -/
def portOf (t : Tgt) (e : Nat) : Bool := match t with
  | .port n => n.toNat == e
  | _ => false

/-- Iterations of node m whose fills of entry e have been applied or skipped (R146). -/
def Run.filled (r : Run) (g : Region) (m : Node) (i : Instr) (e : Nat) : Nat :=
  let own := if fillsEntry i e then m.done else m.fired
  let outs := (m.out.filter fun o => portOf o.tgt e).map (·.iter)
  let pends := m.pend.map fun p => p.fire.iter
  let t := (outs ++ pends).foldl min own
  if r.blk.isFabric then
    if r.nodeCount g m.copy 128 m.slot ≤ t then t + r.iters g m.copy 0 + 1 else t
  else if m.fired = 0 ∧ !r.alive.contains m.slot then 1 else t

/-- Every fill of entry e before the firing's in the order (copy, iteration, slot) has been applied or skipped
(R146). -/
def Run.fillTurn (r : Run) (g : Region) (f : Firing) (e : Nat) : Bool :=
  r.nodes.all fun m =>
    if m.copy == f.copy && m.slot == f.slot then true
    else
      match r.blk.instr? m.slot with
      | none => true
      | some i =>
        if fillsEntry i e || portOf (tgtA i) e || portOf (tgtB i) e then
          let t := r.filled g m i e
          if m.copy = f.copy then (if m.slot < f.slot then f.iter < t else f.iter ≤ t)
          else f.copy < m.copy || r.iters g m.copy 0 < t
        else true

/-! ### Operations that may have to wait -/

/-- How an operation stands: it has not begun and is tried again later (R80); it waits in flight, with what it has done
so far (R112); it is done, with its items for targets A and B; or it fails with a cause and s31. -/
inductive Try where
  | stay (s : State)
  | wait (s : State) (why : Why) (acc : Option Access) (prog : List Nat)
  | done (s : State) (x y : Option Item)
  | fault (s : State) (cause extra : Nat)

/-- Done with one token for target A and target B. -/
def Try.tok (s : State) (t : Tok) : Try := .done s (some (.tok t)) (some (.tok t))

/-- Done with a completion token (R149). -/
def Try.complete (s : State) : Try := .tok s (Tok.done s.fire.its)

/-- The firing under way begins an operation: it is done, fails or stays in flight. -/
def State.begin (sink : Bool) (a b : Tgt) (t : Try) : State :=
  match t with
  | .stay u => u
  | .done u x y => u.give a b x y
  | .fault u c e => u.failBoth sink a b c e
  | .wait u why acc prog => u.park why acc prog

/-- The operation in flight of the firing under way is settled with its items (R112). -/
def State.settle (s : State) (a b : Tgt) (x y : Option Item) : State :=
  s.modRun s.fire.k fun r => r.settle s.fire a b x y

/-- It is settled with a fault, as `failBoth`. -/
def State.settleFault (s : State) (sink : Bool) (a b : Tgt) (cause extra : Nat) : State :=
  let o := s.origin
  let s := if s.ownTrap sink then s.addTrap s.fire.k { cause := cause, origin := o, extra := extra, atExit := false }
    else s
  let p := Tok.poisonOf cause o s.fire.marks
  s.settle a b (some (.tok p)) (some (.tok p))

/-- The operation p in flight is tried again; the latch holds its firing meanwhile. -/
def State.again (s : State) (p : Pend) (sink : Bool) (a b : Tgt) (t : State → Try) : State :=
  let old := s.fire
  let u := match t { s with fire := p.fire } with
    | .stay u => u
    | .done u x y => (u.endWait p).settle a b x y
    | .fault u c e => (u.endWait p).settleFault sink a b c e
    | .wait u why acc prog =>
      if why = p.why ∧ prog = p.prog ∧ acc = p.acc then u
      else (u.endWait p).modRun p.fire.k fun r => r.modNode p.fire.copy p.fire.slot fun n =>
        { n with pend := n.pend.map fun q => if q = p then { q with why := why, acc := acc, prog := prog, reg := false }
                   else q }
  { u with fire := old }

/-- The firing under way, where no earlier operation of its node is in flight: nodes of this kind perform their
operations in iteration order (R146, R177). -/
def State.inOrder (s : State) (body : State) : State :=
  match s.here? with
  | some (_, _, n) => if n.pend.isEmpty then body else s
  | none => s

/-- A firing that may wait, in iteration order. -/
def State.tries (s : State) (p : PMode) (need : Firing → Bool) (sink : Bool) (a b : Tgt) (t : State → Try) : State :=
  s.firing p need sink a b (s.inOrder (State.begin sink a b (t s)))

/-- A firing that is a member of the memory sequence and whose turn has come (R61); `rel` asks besides that earlier
accesses be performed at a scope (R65). -/
def State.member (s : State) (p : PMode) (need : Firing → Bool) (sink : Bool) (a b : Tgt) (store : Bool)
    (rel : Option Scope) (t : State → Try) : State :=
  s.firing p need sink a b <|
    match s.here? with
    | some (x, r, _) =>
      if r.turn x.region s.fire store && rel.all fun sc => r.performed x.region s.fire sc then State.begin sink a b (t s) else s
    | none => s

end Sys2Proof.Machine
end

