-- ==== Sys2Proof/Machine/WaitEvents.lean ====
section
/-! DEFINITION. Machine/WaitEvents.lean: the registration of waits and the sweep (R153, R253, R254). -/

namespace Sys2Proof.Machine

open Sys2Proof

/-- The wait of a port fill that has its turn and finds no room (R153). -/
def State.outWait (s : State) (k copy slot : Nat) (o : Out) : Option Why :=
  match o.tgt, o.item, s.strand? k with
  | .port n, .tok t, some x =>
    if t.tag = .poison then none
    else
    let (j, e) := x.portWin k n.toNat
    let f := { Firing.zero with k := k, copy := copy, slot := slot, iter := o.iter }
    match s.win? j e with
    | some w =>
      if w.credit ∨ ¬ x.run.any (fun r => r.fillTurn x.region f n.toNat) then none
      else some (.winFill j e (if w.spill then 0 else w.extent))
    | none => none
  | _, _, _ => none

/-- A wait of strand k still lasts: its answer has not come, the element or the room it waits for is not there, its gang's
phase has not passed. One that is over registers no more (R153, R252, R272). -/
def State.lasts (s : State) (k : Nat) (p : Pend) : Bool :=
  !((s.die (k / 256)).resps.any fun r => r.req == p.fire.req) && match p.why with
    | .winRead j w off => (s.win? j w).any fun x => decide (x.extent ≤ off)
    | .winFill j w _ => (s.win? j w).any fun x => !x.credit || (s.run? k).any fun r =>
        match r.blk.instr? p.fire.slot with
        | some (.wflb _ _ _) | some (.wspl _ _ _ _) => true
        | _ => false
    | .gang g ph => match ((s.strand? k).bind fun x => s.ctx? x.ctx).bind fun c => look g c.gangs with
      | some q => decide (q.phase.toNat = ph)
      | none => false
    | .task _ => p.prog.isEmpty
    | _ => true

/-- The first operation in flight of a node that waits and does not stand in the table. -/
def Node.unregistered? (n : Node) (s : State) (k : Nat) : Option (Pend × (Nat × Nat × Nat × Nat)) :=
  n.pend.findSome? fun p => if p.reg || !s.lasts k p then none else (s.waitInfo k p.why).map fun i => (p, i)

/-- The first output of a node whose port fill waits and does not stand in the table. -/
def Node.unregisteredOut? (n : Node) (s : State) (k : Nat) : Option (Out × (Nat × Nat × Nat × Nat)) :=
  n.out.findSome? fun o => if o.reg then none else
    (s.outWait k n.copy n.slot o).bind fun w => (s.waitInfo k w).map fun i => (o, i)

/-- A node's wait registers (R153, R253, R254). -/
def State.registerNode (s : State) (k copy slot : Nat) : State :=
  match s.strand? k with
  | none => s
  | some x =>
    if x.working then
      match x.run.bind fun r => r.node? copy slot with
      | none => s
      | some n =>
        match n.unregistered? s k with
        | some (p, i) =>
          let s := s.modRun k fun r => r.modNode copy slot fun n =>
            { n with pend := n.pend.map fun q => if q = p then { q with reg := true } else q }
          s.enterWait x.die (waitEntry i (.node k copy slot) x.ctx (s.waitIter p))
        | none =>
          match n.unregisteredOut? s k with
          | some (o, i) =>
            let s := s.modRun k fun r => r.modNode copy slot fun n =>
              { n with out := n.out.map fun q => if q = o then { q with reg := true } else q }
            s.enterWait x.die (waitEntry i (.node k copy slot) x.ctx o.iter)
          | none => s
    else s

/-- A little-endian field of a record. -/
def fieldOf (bs : List Byte) (o n : Nat) : Nat := leNat ((bs.drop o).take n)

/-- Flags byte of a captured record (R159, R160). -/
def Stream.flags (t : Stream) : Nat := fieldOf t.recd (if t.run then 28 else 48) 1

/-- Elements of an SGEN stream (R159). -/
def Stream.total (t : Stream) : Nat := fieldOf t.recd 32 4 * fieldOf t.recd 36 4 * fieldOf t.recd 40 4

/-- The stream has filled its last element. -/
def Stream.atEnd (t : Stream) : Bool := if t.run then decide (fieldOf t.recd 8 4 ≤ t.pos) else decide (t.total ≤ t.pos)

/-- The next thing a generator does is to fill an element (R159, R160). -/
def Stream.fillsNext (t : Stream) : Bool :=
  t.captured && t.wait == 0 && (if t.atEnd then bit t.flags 5 else !t.run || t.ent != [])

/-- What a generator waits for (R159, R160, R253): a free element of its window, a task, or room in the task store (R347: or Jasper). -/
def State.genWait (s : State) (t : Stream) : Option (Nat × Nat × Nat × Nat) :=
  match t.wait with
  | 2 => some (8, t.handle, 0, s.taskOwner t.handle)
  | 3 | 4 => some (8, 0, 0, 0)
  | _ => match s.win? t.k t.w with
    | some w => if t.fillsNext ∧ w.free = 0 then some (1, w.ident t.k, w.extent, ownerIdent w.drainer.toNat) else none
    | none => none

/-- A generator's wait registers (R160, R253). -/
def State.registerGen (s : State) (d tile g : Nat) : State :=
  match look (tile * 4 + g) (s.die d).streams with
  | none => s
  | some t =>
    if t.reg then s
    else match s.genWait t, s.strand? t.k with
      | some i, some x =>
        let s := s.modDie d fun y => { y with streams := put (tile * 4 + g) { t with reg := true } y.streams }
        s.enterWait d (waitEntry i (.gen d tile g) x.ctx 0)
      | _, _ => s

/-- Waits of a strand that can still register: an upper bound. -/
def Strand.waits (x : Strand) : List (Nat × Nat) :=
  x.run.elim [] fun r => r.nodes.flatMap fun n =>
    (n.pend.map fun _ => (n.copy, n.slot)) ++ n.out.map fun _ => (n.copy, n.slot)

/-- Every wait of a strand's block registers, before any node of it fires: after TRAPRET resumes the block and after a
restore (R116, R153, R272, R321). -/
def State.registerAll (s : State) (k : Nat) : State :=
  match s.strand? k with
  | none => s
  | some x => x.waits.foldl (fun s n => s.registerNode k n.1 n.2) s

/-- Waits of a strand's generators that stand in no table register again (R255). -/
def State.registerGens (s : State) (k : Nat) : State :=
  (List.range 4).foldl (fun s d =>
    ((s.die d).streams.filter fun t => t.2.k == k).foldl (fun s t =>
      if (s.entries.map (·.2.2) ++ (s.die d).wfover).any fun e => e.who == .gen d (t.1 / 4) (t.1 % 4) then s
      else (s.modDie d fun y => { y with streams := modAt t.1 (fun t => { t with reg := false }) y.streams }).registerGen
        d (t.1 / 4) (t.1 % 4)) s) s

/-- The present owner of an entry, from the wait it stands for (R253). -/
def State.ownerNow (s : State) (e : WfEnt) : Nat :=
  if e.sw then e.owner.toNat
  else match e.who with
    | .gen d tile g => match (look (tile * 4 + g) (s.die d).streams).bind fun t => s.genWait t with
      | some i => i.2.2.2
      | none => 0
    | .node k copy slot =>
      match (s.run? k).bind fun r => r.node? copy slot with
      | none => 0
      | some n =>
        let ws := n.pend.filterMap (fun p => s.waitInfo k p.why)
          ++ n.out.filterMap fun o => (s.outWait k copy slot o).bind fun w => s.waitInfo k w
        match ws.find? fun i => i.1 == e.kind && i.2.1 == e.obj.toNat with
        | some i => i.2.2.2
        | none => 0
    | .entry _ _ => 0

/-- An entry whose owner or mark has changed is written anew and walked as at a registration (R253, R328); of an overflowed
wait, numbered from 4,096 on, the ring gets the change (R258). -/
def State.refreshEntry (s : State) (d n : Nat) : State :=
  match if n < 4096 then look n (s.die d).wft else (s.die d).wfover[n - 4096]? with
  | none => s
  | some e =>
    let o := s.ownerNow e
    let h := s.haltedId o
    let e' := { e with owner := BitVec.ofNat 16 o, hmark := h, told := false }
    if o = e.owner.toNat ∧ h = e.hmark then s
    else if 4096 ≤ n then
      if (s.die d).ringRoom then
        (s.ringRecord d e' 3).modDie d fun y => { y with wfover := y.wfover.set (n - 4096) e' }
      else s
    else
      let s := s.modDie d fun y => { y with wft := put n e' y.wft }
      match s.cycleOf 32 e' with
      | some cyc => s.foundCycle d n e' cyc false
      | none => s

/-- Every wait-for entry is refreshed: marks follow the halted strands (R253, R328). -/
def State.refreshAll (s : State) : State := s.entries.foldl (fun s e => s.refreshEntry e.1 e.2.1) s

/-- The strand is halted (R328). -/
def State.halt (s : State) (k : Nat) : State :=
  (s.modStrand k fun x => { x with dbgctl := x.dbgctl ||| 16 }).refreshAll

/-- WAITFOR_REGISTER (R254): a wait registers, or an entry whose owner changed is walked again. -/
def execWaitforRegister (w : WaiterRef) (s : State) : Host.Outcome State Fault Refusal :=
  .next (match w with
    | .node k copy slot => s.registerNode k copy slot
    | .gen d tile g => s.registerGen d tile g
    | .entry d n => s.refreshEntry d n)

/-- One entry of the sweep (R254): a cycle through it that has not been reported is charged to it. -/
def State.sweepEntry (s : State) (d n : Nat) : State :=
  match look n (s.die d).wft with
  | none => s
  | some e =>
    match s.cycleOf (s.entries.length + 2) e with
    | some cyc => if cyc.any fun f => !f.told then s.foundCycle d n e cyc true else s
    | none => s

/-- WAITFOR_SWEEP (R254): each cycle of any length that no walk has reported is charged to the waiter of its entry with
the lowest die and number. -/
def execWaitforSweep (s : State) : Host.Outcome State Fault Refusal :=
  .next (s.entries.foldl (fun s e => s.sweepEntry e.1 e.2.1) s)

end Sys2Proof.Machine
end

