-- ==== Sys2Proof/Machine/Windows.lean ====
section
/-! DEFINITION. Machine/Windows.lean: windows, ports, channels and spill rings: group 0x7 and the port nodes (R144 to
R156, R187, R199, R271, R273), and the events that end their waits. -/

namespace Sys2Proof.Machine

open Sys2Proof

/-! ### A window's state -/

/-- A window of a strand changed. -/
def State.modWin (s : State) (k e : Nat) (f : Win → Win) : State :=
  s.modStrand k fun x => { x with wins := modAt e f x.wins }

/-- The 256-byte line of a row of the element at absolute count c is dirty (R316). -/
def State.soilRow (s : State) (k : Nat) (w : Win) (c : BitVec 32) (r : Nat) : State := s.soil k w.tile 0 (w.sram c r / 256)

/-- Every row of the element at absolute count c is dirty. -/
def State.soilElem (s : State) (k : Nat) (w : Win) (c : BitVec 32) : State :=
  (List.range w.rpe).foldl (fun s r => s.soilRow k w c r) s

/-- Rows or a marker fill a window in place: the lines of the elements from the old tail to the new are dirty, and of an
element that stands begun the rows that it has (R316); their slots take the filler's stamp on (R67). -/
def State.fillWin (s : State) (k e : Nat) (t : Stamp) (f : Win → Win) : State :=
  match s.win? k e with
  | none => s
  | some w =>
    let v := f w
    let s := s.modWin k e fun w => { f w with stamps := joinStamps (w.touched v) t w.stamps }
    let s := (List.range (v.tail - w.tail).toNat).foldl (fun s i => s.soilElem k w (w.tail + BitVec.ofNat 32 i)) s
    (List.range v.frow).foldl (fun s r => s.soilRow k w v.tail r) s

/-- A strand has seen what a stamp covers. -/
def State.sees (s : State) (k : Nat) (t : Stamp) : State := s.modStrand k fun x => { x with stamp := x.stamp.join t }

/-- A strand's stamp. -/
def State.stampOf (s : State) (k : Nat) : Stamp := (s.strand? k).elim Stamp.zero (·.stamp)

/-- Strand j fills the window of strand k at entry e (R67): the fill comes after the shrinks that freed its slots, and the
slots take on what the strand has seen. -/
def State.fillBy (s : State) (j k e : Nat) (f : Win → Win) : State :=
  match s.win? k e with
  | none => s
  | some w =>
    let s := s.sees j (w.seen (w.touched (f w)))
    s.fillWin k e (s.stampOf j) f

/-- A filler that has seen `t`, and is no strand, fills the window of strand k at entry e (R67): what it has seen then, and
the state. -/
def State.fillSeen (s : State) (k e : Nat) (t : Stamp) (f : Win → Win) : Stamp × State :=
  match s.win? k e with
  | none => (t, s)
  | some w =>
    let t := t.join (w.seen (w.touched (f w)))
    (t, s.fillWin k e t f)

/-- Elements of a window of strand k from offset e on have been read, n of them: the reader comes after their fills (R67). -/
def State.readElems (s : State) (k : Nat) (v : Win) (e n : Nat) : State :=
  s.sees k (v.seen (v.slots (v.head + BitVec.ofNat 32 e) n))

/-- Strand k shrinks its window at entry e by n (R67, R150). -/
def State.shrinkWin (s : State) (k e n : Nat) : State := s.modWin k e fun v => v.shrink n (s.stampOf k)

/-- No save holds the strand whose window this is (R314). -/
def State.openTo (s : State) (k : Nat) : Bool := (s.strand? k).any fun x => x.save.free

/-! ### Faults -/

/-- A window fault of a node (R143). -/
def Try.win (s : State) (sub w : Nat) : Try := .fault s 0x07 (windowExtra sub w)

/-- A window of the firing strand, open under the name w; a port bound as a channel is closed to it (R148). -/
def State.withWin (s : State) (w : Nat) (f : Strand → Win → Try) : Try :=
  match s.strand? s.fire.k with
  | none => .done s none none
  | some x => match look w x.wins with
    | some v => f x v
    | none => Try.win s 0x03 w

/-- Only the drainer's strand updates, shrinks or frees (R146). -/
def State.asDrainer (s : State) (w : Nat) (v : Win) (t : Try) : Try :=
  if v.drainer.toNat = strandId s.fire.k then t else Try.win s 0x02 w

/-- A read of the stage input in a block of htype 3 that reaches a splice marker (R187). -/
def Strand.stopsAt (x : Strand) (w : Nat) (v : Win) (e : Nat) : Bool :=
  (x.run.any fun r => r.blk.htype == 3) && bit x.stgcfg.toNat 7 && bits x.stgcfg.toNat 17 8 == w &&
    (List.range (min (e + 1) v.extent)).any fun i => v.markerAt i == some 0x02 || v.markerAt i == some 0x03

/-- A marker stop: a skip for the iteration and for every later read by the node (R187). -/
def Try.markerStop (s : State) : Try :=
  let s := s.modRun s.fire.k fun r =>
    { (r.modNode s.fire.copy s.fire.slot fun n => { n with stopped := true }) with mstop := true }
  .done s (some .skip) (some .skip)

/-! ### Reads, updates and shrinks -/

/-- Rows `[lo, lo + 128)` of a tile's SRAM, or a marked row, meet an uncorrectable error (R318, R354). -/
def State.senseRow (s : State) (x : Strand) (v : Win) (e r : Nat) : State × Bool :=
  let a := v.sram (v.head + BitVec.ofNat 32 e) r
  let (s, u) := s.senseTile 0 x.die v.tile a (a + v.rowBytes) x.ctx
  (s, u || (v.row e r).bad)

/-- The lowest 32-bit word of a row whose valid bit is clear (R150, R331). -/
def Win.invalidWord (v : Win) (r : Row) : Option Nat :=
  (List.range (v.rowBytes / 4)).find? fun i => !r.valid.getLsbD i

/-- A row as the token that a read emits (R150, R199). -/
def Row.tok (r : Row) (mark : BitVec 5) : Tok :=
  { tag := r.tag, scalar := false, data := r.data, side := r.side, mark := mark }

/-- The read of row v of window w (R150): the state, which may have logged or traced, and the token or a cause. -/
def State.readRow (s : State) (x : Strand) (w : Nat) (v : Win) (e r n : Nat) (mark : BitVec 5) (k : State → Tok → Try) :
    Try :=
  match s.senseRow x v e r with
  | (s, true) => let (a, s) := s.fresh
                 .fault s 0x10 a.toNat
  | (s, false) =>
    match v.invalidWord (v.row e r) with
    | some i =>
      if v.vmode then
        .fault (s.trace s.fire.k 6 (((s.run? s.fire.k).map fun r => r.blk.addr).getD 0) 0
          (n % 2 ^ 32 + w * 2 ^ 32 + i * 2 ^ 42)) 0x11 0x11
      else k s ((v.row e r).tok mark)
    | none => k s ((v.row e r).tok mark)

/-- WRD and the read half of PSRC (R150, R154): offset n in rows. -/
def tryRead (w n : Nat) (take : Bool) (s : State) : Try :=
  s.withWin w fun x v =>
    let e := n / v.rpe
    let go : Try :=
      if x.stopsAt w v e then Try.markerStop s
      else if v.cap ≤ e then Try.win s 0x01 w
      else if v.eosBelow e then Try.win s 0x04 w
      else if v.extent ≤ e then .wait s (.winRead s.fire.k w e) none []
      else s.readRow x w v e (n % v.rpe) n (if take then 0 else s.fire.marks) fun s t =>
        let s := s.readElems s.fire.k v e 1
        Try.tok (if take then s.shrinkWin s.fire.k w 1 else s) t
    if take then s.asDrainer w v go else go

/-- WRD w (R150). -/
def tryWrd (w : Nat) (s : State) : Try :=
  match wordOperand s.fire.left with
  | .error c => .fault s c c
  | .ok n => tryRead w n false s

/-- PSRC pN (R154, R271): its token carries no markers. -/
def tryPsrc (w : Nat) (s : State) : Try := tryRead w 0 true s

/-- WUP w (R150). -/
def tryWup (w : Nat) (s : State) : Try :=
  match wordOperand s.fire.left, s.fire.right with
  | .error c, _ => .fault s c c
  | .ok _, none => .done s none none
  | .ok n, some t =>
    s.withWin w fun _ v => s.asDrainer w v <|
      let e := n / v.rpe
      if v.cap ≤ e then Try.win s 0x01 w
      else if v.eosBelow e then Try.win s 0x04 w
      else if v.extent ≤ e then .wait s (.winRead s.fire.k w e) none []
      else if (v.row e 0).tag = .mark then Try.win s 0x08 w
      else if t.tag ≠ v.tag ∧ v.tag ≠ .raw then .fault s 0x03 0x03
      else Try.complete (((s.readElems s.fire.k v e 1).modWin s.fire.k w fun v => v.setRow e (n % v.rpe) (v.rowOf t)).soil
        s.fire.k v.tile 0 (v.sram (v.head + BitVec.ofNat 32 e) (n % v.rpe) / 256))

/-- WSH w (R150, R187). -/
def tryWsh (w : Nat) (s : State) : Try :=
  match wordOperand s.fire.left with
  | .error c => .fault s c c
  | .ok n =>
    s.withWin w fun x v => s.asDrainer w v <|
      if n ≠ 0 ∧ x.stopsAt w v (n - 1) then Try.markerStop s
      else if v.cap < n then Try.win s 0x01 w
      else if v.extent < n then .wait s (.winRead s.fire.k w (n - 1)) none []
      else Try.complete (s.shrinkWin s.fire.k w n)

/-- The shape operand of WRDB and WFLB (R151): rows, lane0 and lanes, or none where it breaks a limit. -/
def shapeOf (v lanes : Nat) : Option (Nat × Nat × Nat) :=
  let rows := bits v 7 0
  let lane0 := bits v 15 8
  let n := bits v 23 16
  if v / 2 ^ 24 = 0 ∧ 1 ≤ rows ∧ rows ≤ 128 ∧ 1 ≤ n ∧ n ≤ 128 ∧ rows * n ≤ lanes ∧ lane0 + n ≤ lanes then
    some (rows, lane0, n)
  else none

/-- A window that WRDB and WFLB admit (R151). -/
def Win.shaped (v : Win) : Bool :=
  v.elem == 128 && v.tag != .raw && v.tag != .bfx8 && v.tag != .bfx6 && v.tag != .mark

/-- Rows of elements off to off + n - 1 read one after another, with the first error or undefined word. -/
def State.readRows (s : State) (x : Strand) (w : Nat) (v : Win) (off : Nat) : Nat → Nat → (State → Try) → Try
  | 0, _, k => k s
  | n + 1, i, k => s.readRow x w v (off + i) 0 (off + i) 0 fun s _ => s.readRows x w v off n (i + 1) k

/-- WRDB w (R151, R199). -/
def tryWrdb (w : Nat) (s : State) : Try :=
  match wordOperand s.fire.left, i64Operand s.fire.right with
  | .ok off, .ok sh =>
    s.withWin w fun x v =>
      if ¬ v.shaped then .fault s 0x03 0x03
      else match shapeOf sh (Tag.lanes v.tag) with
        | none => Try.win s 0x07 w
        | some (rows, lane0, n) =>
          let e := off + rows - 1
          if x.stopsAt w v e then Try.markerStop s
          else if v.cap ≤ e then Try.win s 0x01 w
          else if v.eosBelow e then Try.win s 0x04 w
          else if v.extent ≤ e then .wait s (.winRead s.fire.k w e) none []
          else s.readRows x w v off rows 0 fun s =>
            Try.tok (s.readElems s.fire.k v off rows) (Tok.vectorOf v.tag ((List.range (Tag.lanes v.tag)).map fun i =>
              if i < rows * n then
                ((v.row (off + i / n) 0).tok 0).lane v.tag.width (lane0 + i % n)
              else 0) s.fire.marks)
  | .error c, _ => .fault s c c
  | _, .error c => .fault s c c

/-! ### Fills -/

/-- Where fills through directory entry n of strand k go: the window's owner and entry, and whether it is a channel
(R154, R155). -/
def Strand.fillDest (x : Strand) (k n : Nat) : Option (Nat × Nat × Bool) :=
  match look n x.chans with
  | some (j, e) => some (j, e, true)
  | none => (look n x.wins).map fun _ => (k, n, false)

/-- What a fill carries: a token, a marker payload, or the rows of several elements. -/
inductive FillBody where
  | tok (t : Tok)
  | marker (payload : Nat)
  | rows (l : List Row)

/-- Elements that must be free before a fill begins (R150, R151). -/
def FillBody.needs : FillBody → Nat
  | .rows l => l.length
  | _ => 1

/-- Rows that a fill writes into a window one after another. -/
def FillBody.put (b : FillBody) (w : Win) : Win :=
  match b with
  | .tok t => if t.tag = .mark then w.putMarker (t.data.toNat % 2 ^ 64) else w.putRow (w.rowOf t)
  | .marker p => w.putMarker p
  | .rows l => l.foldl (fun w r => w.putRow r) w

/-- Whether the window takes a fill's tag (R150). -/
def FillBody.fits (b : FillBody) (w : Win) : Bool :=
  match b with
  | .tok t => t.tag == w.tag || w.tag == .raw
  | _ => true

/-- How far a fill of entry n by the firing node has come. -/
inductive FillTry where
  | ordered
  | fault (cause extra : Nat)
  | wait (why : Why)
  /-- it has been put on the channel's link -/
  | linked (s : State) (why : Why)
  | filled (s : State)

/-- A fill of directory entry n (R146, R150, R154, R155): in its turn, by the filler, not past an end of stream, into
free space, and then of the window's tag; a channel fill goes on the link, and its tag is checked where it is applied.
`there` tells that it lies on the link already. -/
def State.fillStep (s : State) (n : Nat) (b : FillBody) (there : Bool) : FillTry :=
  match s.strand? s.fire.k with
  | none => .ordered
  | some x =>
    if ¬ (x.run.any fun r => r.fillTurn x.region s.fire n) then .ordered
    else match x.fillDest s.fire.k n with
      | none => .fault 0x07 (windowExtra 0x03 n)
      | some (j, e, chan) =>
        match s.win? j e with
        | none => .fault 0x07 (windowExtra 0x03 n)
        | some w =>
          let why := Why.winFill j e (if chan ∧ w.spill then 0 else w.extent)
          if there then .wait why
          else if ¬ chan ∧ w.filler.toNat ≠ strandId s.fire.k then .fault 0x07 (windowExtra 0x02 n)
          else if w.eos then .fault 0x07 (windowExtra 0x05 n)
          else if chan then
            let row := match b with
              | .tok t => w.rowOf t
              | .marker p => w.markerRow p
              | .rows l => l.headD Row.zero
            let f : Fill :=
              { k := s.fire.k, hand := x.run.any (·.hand), copy := s.fire.copy, slot := s.fire.slot, row := row
                marker := row.tag == .mark, fits := b.fits w, stamp := x.stamp }
            .linked (s.modWin j e fun w => { w with link := w.link ++ [f] }) why
          else if ¬ s.openTo j ∨ (w.frow = 0 ∧ w.free < b.needs) then .wait why
          else if ¬ b.fits w then .fault 0x03 0x03
          else .filled (s.fillBy s.fire.k j e b.put)

/-- A fill as an operation that may wait: progress [1] once it lies on a link. -/
def State.tryFill (s : State) (n : Nat) (b : FillBody) (prog : List Nat) : Try :=
  match s.fillStep n b (prog == [1]) with
  | .ordered => .wait s .order none []
  | .fault c e => .fault s c e
  | .wait why => .wait s why none prog
  | .linked s why => .wait s why none [1]
  | .filled s => Try.complete s

/-- WFL w (R150). -/
def tryWfl (w : Nat) (prog : List Nat) (s : State) : Try :=
  match s.fire.left with
  | some t => s.tryFill w (.tok t) prog
  | none => .done s none none

/-- The payload of WMARK: I64 or RAW, of a kind that is not reserved (R147, R149). Kind 0x00, which R147's table does not
name, fills a marker that no read acts on (log 36). -/
def tryWmark (w : Nat) (prog : List Nat) (s : State) : Try :=
  match s.fire.left with
  | some t =>
    if t.tag ≠ .i64 ∧ t.tag ≠ .raw then .fault s 0x03 0x03
    else
      let p := t.lane 64 0
      if 0x04 ≤ p % 256 ∧ p % 256 ≤ 0x0F then Try.win s 0x07 w else s.tryFill w (.marker p) prog
  | none => .done s none none

/-- WEOS w (R150). -/
def tryWeos (w : Nat) (prog : List Nat) (s : State) : Try := s.tryFill w (.marker 0x01) prog

/-- An address operand of group 0xD (R189): tag, [63:56], then alignment. -/
def spliceAddr (align : Nat) (o : Option Tok) : Except (Nat × Nat) Nat :=
  match o with
  | none => .error (0x03, 0x03)
  | some t =>
    if t.tag ≠ .i64 ∧ t.tag ≠ .idx then .error (0x03, 0x03)
    else if 2 ^ 56 ≤ t.word.toNat then .error (0x06, t.word.toNat)
    else if t.word.toNat % align ≠ 0 then .error (0x08, t.word.toNat)
    else .ok t.word.toNat

/-- SPLINS, SPLREM and SPLBND w (R185, R189): the marker of op 0, 1 or 2 that names the descriptor. -/
def trySpl (op w : Nat) (prog : List Nat) (s : State) : Try :=
  match spliceAddr 64 s.fire.left with
  | .error (c, e) => .fault s c e
  | .ok a => s.tryFill w (.marker (0x02 + op * 2 ^ 8 + a * 2 ^ 8)) prog

/-- PSNK pN, j (R154): end of stream on the iteration whose left token carries marker j. -/
def tryPsnk (j n : Nat) (prog : List Nat) (s : State) : Try :=
  match s.fire.left with
  | some t => if t.marker j then s.tryFill n (.marker 0x01) prog else Try.complete s
  | none => .done s none none

/-- WFLB w (R151): element k receives data lanes k × lanes upward at lane0. -/
def tryWflb (w : Nat) (prog : List Nat) (s : State) : Try :=
  match s.fire.left, i64Operand s.fire.right with
  | some t, .ok sh =>
    s.withWin w fun _ v =>
      if ¬ v.shaped then .fault s 0x03 0x03
      else match shapeOf sh (Tag.lanes v.tag) with
        | none => Try.win s 0x07 w
        | some (rows, lane0, n) =>
          if v.cap < rows then Try.win s 0x01 w
          else if t.tag ≠ v.tag then .fault s 0x03 0x03
          else s.tryFill w (.rows ((List.range rows).map fun k =>
            v.rowOf (Tok.vectorOf v.tag ((List.range (Tag.lanes v.tag)).map fun i =>
              if lane0 ≤ i ∧ i < lane0 + n then t.lane v.tag.width (if t.scalar then 0 else k * n + i - lane0) else 0)
              0))) prog
  | _, .error c => .fault s c c
  | none, _ => .done s none none

/-! ### The control members (R152) -/

/-- WEXT w (R152). -/
def tryWext (w : Nat) (s : State) : Try :=
  s.withWin w fun _ v =>
    Try.tok s (Tok.i64 (extStatus v.extent v.free (match v.state with | .closed => 0 | .opened => 1 | .linked => 2) v.eos
      (v.ring != 0)) s.fire.marks)

/-- WFREE w (R152): the element being filled keeps its rows. -/
def tryWfree (w : Nat) (s : State) : Try :=
  s.withWin w fun _ v => s.asDrainer w v (Try.complete (s.shrinkWin s.fire.k w v.extent))

/-- The SRAM of a tile that a window of the strand occupies meets the range [lo, hi). -/
def Strand.sramMeets (x : Strand) (tile lo hi : Nat) : Bool :=
  x.wins.any fun e => e.2.tile == tile && e.2.base.toNat * 64 < hi && lo < e.2.base.toNat * 64 + e.2.elem * e.2.cap

/-- WOPEN w (R148, R152): shape out of range 0x07, resources 0x06. -/
def tryWopen (w : Nat) (s : State) : Try :=
  match i64Operand s.fire.left, s.strand? s.fire.k with
  | .error c, _ => .fault s c c
  | .ok _, none => .done s none none
  | .ok v, some x =>
    let r := bits v 31 28
    let c := bits v 27 24
    let t := Tag.ofCode (bits v 22 19)
    let tile := 16 * (x.region.r + r) + x.region.c + c
    let base := bits v 52 38
    let len := 64 * 2 ^ bits v 18 16 * (bits v 15 0 + 1)
    if v / 2 ^ 53 ≠ 0 ∨ t = .mark ∨ t = .poison then Try.win s 0x07 w
    else if (look w x.wins).isSome ∨ (look w x.chans).isSome ∨ x.region.rows ≤ r ∨ x.region.cols ≤ c
        ∨ (tile / 16 + tile) % 2 ≠ 0 ∨ x.wins.any (fun e => e.2.tile == tile && e.2.index == bits v 37 32)
        ∨ 2 ^ 21 < base * 64 + len ∨ x.sramMeets tile (base * 64) (base * 64 + len) then Try.win s 0x06 w
    else Try.complete (s.modStrand s.fire.k fun x => { x with
      wins := put w (Win.opened s.fire.k tile (bits v 37 32) (bits v 15 0) (bits v 18 16) t base (bit v 23)) x.wins })

/-- A fill of the window has been issued and not yet applied (R152). -/
def Win.filling (v : Win) : Bool :=
  v.filler.toNat / 2 ^ 13 == 2 || v.filler.toNat / 2 ^ 13 == 3 || v.filler.toNat / 2 ^ 13 == 5 || !v.link.isEmpty
    || v.ring != 0 || v.rrow != 0

/-- WCLOSE w (R148, R152): the producer's port is bound no longer, so that its fills fault (R155). -/
def tryWclose (w : Nat) (s : State) : Try :=
  s.withWin w fun _ v =>
    if v.filling then Try.win s 0x0B w
    else
      let s := match v.producer with
        | some (j, n) => s.modStrand j fun y => { y with chans := y.chans.filter fun c => c != (n, s.fire.k, w) }
        | none => s
      Try.complete (s.modStrand s.fire.k fun x => { x with wins := del w x.wins })

/-- The address of WSAVE and WREST (R149, R152). -/
def imageAddr (o : Option Tok) : Except (Nat × Nat) Nat :=
  match wordOperand o with
  | .error c => .error (c, c)
  | .ok a => if a % 64 ≠ 0 then .error (0x08, a) else if 2 ^ 56 ≤ a then .error (0x06, a) else .ok a

/-- WSAVE w (R152, R58): the image's lines are written; it is done when they have been acknowledged. -/
def tryWsave (w : Nat) (s : State) : Try :=
  match imageAddr s.fire.left with
  | .error (c, e) => .fault s c e
  | .ok a =>
    s.withWin w fun x v =>
      match s.dwrite x.ctx x.die ⟨x.lead, s.fire.req⟩ (x.stamp.join (v.seen (v.slots v.head v.extent))) s.fire.req true a
          v.image with
      | .wait u => .stay u
      | .fail u c va => .fault u c va
      | .ok (n, st, u) => .wait (u.modStrand s.fire.k fun x => { x with stamp := st }) .memory none [n]

/-- Rows of an image of n rows of rb data bytes (R152). -/
def imageRows (rb : Nat) : Nat → List Byte → List Row
  | 0, _ => []
  | n + 1, bs => Row.ofImage (bs.take (16 + rb)) :: imageRows rb n (bs.drop (16 + rb))

/-- WREST w (R152). The header's line counts as a read whether or not the image is taken (R58). -/
def tryWrest (w : Nat) (s : State) : Try :=
  match imageAddr s.fire.left with
  | .error (c, e) => .fault s c e
  | .ok a =>
    s.withWin w fun x v =>
      match s.dread x.ctx x.die ⟨x.lead, s.fire.req⟩ x.stamp .rd false a 32 with
      | .wait u => .stay u
      | .fail u c va => .fault u c va
      | .ok (hd, _, u) =>
        let d := leNat hd
        let n := (BitVec.ofNat 32 (bits d 63 32) - BitVec.ofNat 32 (bits d 31 0)).toNat
        if v.state ≠ .opened ∨ v.extent ≠ 0 ∨ bits d 82 80 ≠ v.esz.toNat ∨ bits d 86 83 ≠ v.tag.code ∨ v.cap < n then
          Try.win (u.countRange x.ctx x.die .rd a 32) 0x09 w
        else
          match s.dread x.ctx x.die ⟨x.lead, s.fire.req⟩ x.stamp .rd true a (32 + n * v.rpe * (16 + v.rowBytes)) with
          | .wait u => .stay u
          | .fail u c va => .fault (if c = 0x10 then u else u.countRange x.ctx x.die .rd a 32) c va
          | .ok (bs, st, u) =>
            let rows := imageRows v.rowBytes (n * v.rpe) (bs.drop 32)
            let h := bits d 31 0
            let keyed := rows.zipIdx.foldl (fun l e =>
              put ((BitVec.ofNat 32 (h + e.2 / v.rpe)).toNat * v.rpe + e.2 % v.rpe) e.1 l) []
            let v' := { v with head := BitVec.ofNat 32 h, tail := BitVec.ofNat 32 (bits d 63 32), rows := keyed, frow := 0 }
            let v'' := { v' with eos := (List.range n).any fun i => v'.markerAt i == some 0x01
                                 stamps := joinStamps (v'.slots v'.head n) st v.stamps }
            let u := u.modStrand s.fire.k fun x => { x with stamp := st, wins := modAt w (fun _ => v'') x.wins }
            Try.complete ((List.range n).foldl (fun u i => u.soilElem s.fire.k v'' (v''.head + BitVec.ofNat 32 i)) u)

/-- The strand has not begun to end (R126). -/
def Strand.lives (x : Strand) : Bool :=
  match x.phase with
  | .ending _ | .stopped => false
  | _ => true

/-- WLINK w (R155). -/
def tryWlink (w : Nat) (s : State) : Try :=
  match i64Operand s.fire.left with
  | .error c => .fault s c c
  | .ok p =>
    s.withWin w fun _ v =>
      let j := strandKey (bits p 1 0) (bits p 9 2)
      let n := bits p 16 10
      if p / 2 ^ 17 ≠ 0 then Try.win s 0x07 w
      else if v.state = .linked then Try.win s 0x0A w
      else match s.strand? j with
        | none => Try.win s 0x0A w
        | some y =>
          if (look n y.wins).isSome ∨ (look n y.chans).isSome ∨ ¬ y.lives then Try.win s 0x0A w
          else
            let s := s.modStrand j fun y => { y with chans := put n (s.fire.k, w) y.chans }
            Try.complete (s.modWin s.fire.k w fun v => { v with
              state := .linked, filler := BitVec.ofNat 16 (0x8000 + strandId j % 2 ^ 13), producer := some (j, n) })

/-! ### Channel fills (R155, R156) -/

/-- An output that has been accepted leaves its node. -/
def State.dropOut (s : State) (k copy slot : Nat) (o : Out) : State :=
  s.modRun k fun r => r.modNode copy slot fun n => { n with out := n.out.erase o }

/-- The wait-for entry of a port fill removed (R153). -/
def State.endOutWait (s : State) (k copy slot : Nat) (o : Out) : State :=
  if o.reg then
    match o.tgt, s.strand? k with
    | .port n, some x =>
      let (j, e) := x.portWin k n.toNat
      match s.win? j e with
      | some w => s.leaveWait (.node k copy slot) 1 (w.ident j) o.iter
      | none => s
    | _, _ => s
  else s

/-- Slot number of the end-of-stream marker that a producer's end leaves on a link (R155). -/
def eosSlot : Nat := 128

/-- Elements that strand j passes on at its edge still lie on the link of window w of strand k (R193). -/
def State.stillPasses (s : State) (j k w : Nat) : Bool :=
  (s.win? k w).any fun v => v.link.any fun g => g.k == j && g.slot == edgeSlot

/-- The producer's node learns that its fill of window w of strand k has been applied, or has failed. -/
def State.fillSettled (s : State) (k w : Nat) (f : Fill) (bad : Option (Nat × Nat)) : State :=
  match s.run? f.k with
  | none => s
  | some r =>
    match r.node? f.copy f.slot, if f.slot = edgeSlot then some .nop else r.blk.instr? f.slot with
    | some n, some i =>
      let waits := fun (p : Pend) => p.prog == [1] && match p.why with
        | .winFill j e _ => j == k && e == w
        | _ => false
      match n.pend.find? waits with
      | some p =>
        if bad.isNone ∧ f.slot = edgeSlot ∧ s.stillPasses f.k k w then
          (s.endWait p).modRun f.k fun r => r.modNode f.copy f.slot fun n =>
            { n with pend := n.pend.map fun q => if q = p then { q with reg := false } else q }
        else s.again p true (tgtA i) (tgtB i) fun s =>
          match bad with
          | none => Try.complete s
          | some (c, e) => .fault s c e
      | none =>
        match n.out.find? fun o => match o.tgt, s.strand? f.k with
            | .port m, some x => x.portWin f.k m.toNat == (k, w)
            | _, _ => false with
        | some o =>
          let s := (s.endOutWait f.k f.copy f.slot o).dropOut f.k f.copy f.slot o
          match bad with
          | none => s
          | some (c, e) =>
            s.addTrap f.k { cause := c, origin := s.originOf { Firing.zero with
              k := f.k, copy := f.copy, slot := f.slot, iter := o.iter }, extra := e, atExit := false }
        | none =>
          match n.pend.find? fun p => p.prog.getD 1 0 == 2 && match p.why with
            | .geode _ _ _ _ _ => true
            | _ => false with
          | some p => s.again p true (tgtA i) .none fun s =>
              match bad, p.why with
              | none, .geode t _ _ _ _ => .wait s (.geode t 0 0 k w) none [p.prog.headD 0 + 1, 0, 0]
              | some (c, x), _ =>
                let q := Tok.poisonOf c (seqOrigin f.k 0) s.fire.marks
                .done (s.addTrap f.k { cause := c, origin := seqOrigin f.k 0, extra := x, atExit := false })
                  (some (.tok q)) none
              | none, _ => .stay s
          | none => s
    | _, _ => s

/-- Bytes of an element place of the ring (R156). -/
def Win.placeBytes (w : Win) : Nat := w.rpe * (16 + w.rowBytes)

/-- Address of row r of ring entry n (R156). -/
def Win.placeAt (w : Win) (n r : Nat) : Nat :=
  w.rbase.toNat + n % 2 ^ w.rsize.toNat * w.placeBytes + r * (16 + w.rowBytes)

/-- The ring's pages as physical pieces, where they translate; otherwise the entry waits for the fault service, again after
a decline (log 23). -/
def State.ringPieces (s : State) (k : Nat) (w : Win) (kd : AccK) (va n : Nat) :
    Except State (List (Nat × Nat × Nat)) :=
  match s.strand? k with
  | none => .error s
  | some x =>
    match s.physPieces x.ctx x.die ⟨w.tile, .nobody⟩ Stamp.zero kd (pieces va n) with
    | .ok ps => .ok ps
    | .wait t => .error t
    | .fail t _ _ => .error t

/-- Where the stamp of an entry of the ring stands among a window's stamps. -/
def ringKey (n : BitVec 16) : Nat := 2 ^ 16 + n.toNat

/-- A row, or a marker's rows, written at the ring's tail, counted on the window's die (R58, R156). -/
def State.ringPut (s : State) (k e : Nat) (w : Win) (f : Fill) : State × Bool :=
  let rows := if f.marker then f.row :: List.replicate (w.rpe - 1) (w.markerRow 0) else [f.row]
  let bs := rows.flatMap fun r => r.image w.rowBytes
  match s.ringPieces k w .wr (w.placeAt w.rtail.toNat w.rrow) bs.length with
  | .error t => (t, false)
  | .ok ps =>
    let s := (cutBytes ps bs).foldl (fun s p => s.poke p.1 p.2.2) s
    let s := s.modDie (k / 256) fun y => y.countStores ps.length
    (s.modWin k e fun w =>
      let w := { w with stamps := joinStamps [ringKey w.rtail] f.stamp w.stamps }
      if f.marker ∨ w.rrow + 1 = w.rpe then { w with rrow := 0, rtail := w.rtail + 1 } else { w with rrow := w.rrow + 1 },
     true)

/-- The head of a channel's link enters the window or the ring (R155, R156): whether it did. The producer, while it stands,
comes after the shrinks that freed the slot (R67). -/
def State.linkStep (s : State) (k e : Nat) (w : Win) (f : Fill) : State × Bool :=
  if w.frow ≠ 0 ∨ (w.rrow = 0 ∧ w.free ≠ 0 ∧ w.ring = 0) then
    let fill := fun (w : Win) => if f.marker then w.putMarker f.row.data.toNat else w.putRow f.row
    ((if f.slot = eosSlot then s else s.sees f.k (w.seen (w.touched (fill w)))).fillWin k e f.stamp fill, true)
  else if w.rrow ≠ 0 ∨ (w.spill ∧ ¬ w.closing ∧ w.ring < 2 ^ w.rsize.toNat) then s.ringPut k e w f
  else (s, false)

/-- A fill may be performed: the producer's block that issued it runs, or forwards at its edge, and no save holds the strand
(R188, R272, R314). What a removed stage passes on goes its way also once the stage has left its edge (R193). -/
def State.active (s : State) (f : Fill) : Bool :=
  match s.strand? f.k with
  | some x => x.save.free && (f.slot == edgeSlot || (x.working && x.run.any fun r => r.hand == f.hand))
  | none => f.slot == edgeSlot

/-- The oldest fill on the link of window w of strand k that may be performed is performed, fails, or waits (R155,
R156). -/
def State.fillOnce (s : State) (k w : Nat) : State :=
  match s.win? k w with
  | none => s
  | some v =>
    match v.link.find? fun f => f.slot == eosSlot || s.active f with
    | none => s
    | some f =>
      if ¬ s.openTo k ∨ f.slot = eosSlot then s
      else
        let off := fun (s : State) => s.modWin k w fun v => { v with link := v.link.erase f }
        if v.eos then
          let n := ((s.strand? f.k).bind fun x => (x.chans.find? fun c => c.2 == (k, w)).map (·.1)).getD 0
          (off s).fillSettled k w f (some (0x07, windowExtra 0x05 n))
        else if ¬ f.fits ∧ v.credit then (off s).fillSettled k w f (some (0x03, 0x03))
        else
          match s.linkStep k w v f with
          | (t, true) => (off t).fillSettled k w f none
          | (t, false) => t

/-- The end-of-stream marker at the head of a link enters the window or the ring; no marker joins an end of stream that lies
there. The filler becomes none (R155). -/
def State.eosOnce (s : State) (k w : Nat) : State :=
  match s.win? k w with
  | none => s
  | some v =>
    match v.link with
    | [] => s
    | f :: l =>
      if ¬ s.openTo k ∨ f.slot ≠ eosSlot then s
      else
        let off := fun (s : State) => s.modWin k w fun v => { v with link := l, filler := 0, producer := none }
        if v.eos then off s
        else match s.linkStep k w v f with
          | (t, true) => off t
          | (t, false) => t

/-- A fill of this node lies on the link of the window that its port fills. -/
def State.onLink (s : State) (f : Firing) (n : Nat) : Bool :=
  match s.strand? f.k with
  | none => false
  | some x =>
    let (j, e) := x.portWin f.k n
    let hand := x.run.any (·.hand)
    (s.win? j e).any fun w => w.link.any fun g => g.k == f.k && g.hand == hand && g.copy == f.copy && g.slot == f.slot

/-- A port's output that waits in the table and lies on no link yet goes onto the link and is evaluated (R273). -/
def State.fillOut (s : State) (j n k w : Nat) (o : Nat × Nat × Out) : State :=
  match o.2.2.item with
  | .skip => s
  | .tok t =>
    let f := { Firing.zero with k := j, copy := o.1, slot := o.2.1, iter := o.2.2.iter }
    match ({ s with fire := f } : State).fillStep n (.tok t) (s.onLink f n) with
    | .linked u _ => { u with fire := s.fire }.fillOnce k w
    | _ => s

/-- The outputs of a channel's producer whose port fills stand in the wait-for table. -/
def State.waitingOuts (s : State) (j n : Nat) : List (Nat × Nat × Out) :=
  match s.strand? j with
  | none => []
  | some x => if x.working then x.run.elim [] fun r => r.nodes.flatMap fun m =>
      (m.out.filter fun o => o.reg && portOf o.tgt n).map fun o => (m.copy, m.slot, o) else []

/-- Every channel fill of the window that waits is evaluated once more, in the order of arrival (R273): those on the link, an
end of stream among them, then those that wait at the producer's port. -/
def State.fillAll (s : State) (k w : Nat) : State :=
  let s := ((s.win? k w).elim [] (·.link)).foldl (fun s _ => (s.fillOnce k w).eosOnce k w) s
  match (s.win? k w).bind (·.producer) with
  | some (j, n) => (s.waitingOuts j n).foldl (fun s o => s.fillOut j n k w o) s
  | none => s

/-- WSPL w and WSPL.OFF w (R156, R273): progress [1] once `.OFF` has fired. A ring address of 2^56 or above has subcode 0x0C,
as one that is not aligned, and a ring size above 15 has 0x07 (log 36). -/
def tryWspl (off : Bool) (w : Nat) (prog : List Nat) (s : State) : Try :=
  s.withWin w fun _ v =>
    if prog = [1] then
      if v.ring = 0 ∧ v.rrow = 0 then
        Try.complete (s.modWin s.fire.k w fun v => { v with spill := false, closing := false })
      else .wait s (.winFill s.fire.k w 0) none [1]
    else if v.state ≠ .linked then Try.win s 0x0C w
    else if off then
      if ¬ v.spill ∨ v.closing then Try.win s 0x0C w
      else if v.ring = 0 ∧ v.rrow = 0 then Try.complete (s.modWin s.fire.k w fun v => { v with spill := false })
      else .wait (s.modWin s.fire.k w fun v => { v with closing := true }) (.winFill s.fire.k w 0) none [1]
    else
      match wordOperand s.fire.left, wordOperand s.fire.right with
      | .ok a, .ok n =>
        if a % 4096 ≠ 0 ∨ 2 ^ 56 ≤ a ∨ v.spill ∨ v.closing then Try.win s 0x0C w
        else if 15 < n then Try.win s 0x07 w
        else Try.complete ((s.modWin s.fire.k w fun v => { v with
          spill := true, rbase := BitVec.ofNat 56 a, rsize := BitVec.ofNat 4 n }).fillAll s.fire.k w)
      | .error c, _ => .fault s c c
      | _, .error c => .fault s c c

/-! ### The instructions -/

/-- WRD w (R150, R199). -/
def execWrd (p : PMode) (w : BitVec 10) (a : Tgt) (s : State) : Host.Outcome State Fault Refusal :=
  .next (s.tries p needL false a .none (tryWrd w.toNat))

/-- WUP w (R150). -/
def execWup (p : PMode) (w : BitVec 10) (a : Tgt) (s : State) : Host.Outcome State Fault Refusal :=
  .next (s.tries p needLR true a .none (tryWup w.toNat))

/-- WFL w (R150). -/
def execWfl (p : PMode) (w : BitVec 10) (a : Tgt) (s : State) : Host.Outcome State Fault Refusal :=
  .next (s.tries p needL true a .none (tryWfl w.toNat []))

/-- WSH w (R150). -/
def execWsh (p : PMode) (w : BitVec 10) (a : Tgt) (s : State) : Host.Outcome State Fault Refusal :=
  .next (s.tries p needL true a .none (tryWsh w.toNat))

/-- WRDB w (R151). -/
def execWrdb (p : PMode) (w : BitVec 10) (a : Tgt) (s : State) : Host.Outcome State Fault Refusal :=
  .next (s.tries p needLR false a .none (tryWrdb w.toNat))

/-- WFLB w (R151). -/
def execWflb (p : PMode) (w : BitVec 10) (a : Tgt) (s : State) : Host.Outcome State Fault Refusal :=
  .next (s.tries p needLR true a .none (tryWflb w.toNat []))

/-- WEXT w (R152). -/
def execWext (p : PMode) (w : BitVec 10) (a : Tgt) (s : State) : Host.Outcome State Fault Refusal :=
  .next (s.tries p need0 true a .none (tryWext w.toNat))

/-- WFREE w (R152). -/
def execWfree (p : PMode) (w : BitVec 10) (a : Tgt) (s : State) : Host.Outcome State Fault Refusal :=
  .next (s.tries p need0 true a .none (tryWfree w.toNat))

/-- WMARK w (R147, R150). -/
def execWmark (p : PMode) (w : BitVec 10) (a : Tgt) (s : State) : Host.Outcome State Fault Refusal :=
  .next (s.tries p needL true a .none (tryWmark w.toNat []))

/-- WEOS w (R147, R150). -/
def execWeos (p : PMode) (w : BitVec 10) (a : Tgt) (s : State) : Host.Outcome State Fault Refusal :=
  .next (s.tries p needL true a .none (tryWeos w.toNat []))

/-- WOPEN w (R152). -/
def execWopen (p : PMode) (w : BitVec 10) (a : Tgt) (s : State) : Host.Outcome State Fault Refusal :=
  .next (s.tries p needL true a .none (tryWopen w.toNat))

/-- WCLOSE w (R152). -/
def execWclose (p : PMode) (w : BitVec 10) (a : Tgt) (s : State) : Host.Outcome State Fault Refusal :=
  .next (s.tries p need0 true a .none (tryWclose w.toNat))

/-- WSAVE w (R152). -/
def execWsave (p : PMode) (w : BitVec 10) (a : Tgt) (s : State) : Host.Outcome State Fault Refusal :=
  .next (s.member p needL true a .none true none (tryWsave w.toNat))

/-- WREST w (R152). -/
def execWrest (p : PMode) (w : BitVec 10) (a : Tgt) (s : State) : Host.Outcome State Fault Refusal :=
  .next (s.member p needL true a .none false none (tryWrest w.toNat))

/-- WLINK w (R155). -/
def execWlink (p : PMode) (w : BitVec 10) (a : Tgt) (s : State) : Host.Outcome State Fault Refusal :=
  .next (s.tries p needL true a .none (tryWlink w.toNat))

/-- Operands of WSPL: both to enable; a trigger for `.OFF` (R149). -/
def needSpl (off : Bool) (f : Firing) : Bool := f.left.isSome && (off || f.right.isSome)

/-- WSPL w (R156). -/
def execWspl (p : PMode) (o : Bool) (w : BitVec 10) (a : Tgt) (s : State) : Host.Outcome State Fault Refusal :=
  .next (s.tries p (needSpl o) true a .none (tryWspl o w.toNat []))

/-- PSRC pN (R154). -/
def execPsrc (p : PMode) (n : BitVec 7) (a : Tgt) (s : State) : Host.Outcome State Fault Refusal :=
  .next (s.tries p need0 true a .none (tryPsrc n.toNat))

/-- PSNK pN, j (R154). -/
def execPsnk (p : PMode) (j : BitVec 3) (n : BitVec 7) (a : Tgt) (s : State) : Host.Outcome State Fault Refusal :=
  .next (s.tries p needL true a .none (tryPsnk j.toNat n.toNat []))

end Sys2Proof.Machine
end

