-- ==== Sys2Proof/Machine/Loopn.lean ====
section
/-! DEFINITION. Machine/Loopn.lean: LOOPN (R182, R183). -/

namespace Sys2Proof.Machine

open Sys2Proof

/-- Extent of level l (R43). -/
def LoopN.extent (x : LoopN) (l : Nat) : Nat := (x.ext.toList.getD l 0).toNat + 1

/-- Signed stride of operand k at level l, in lanes (R43). -/
def LoopN.stride (x : LoopN) (k l : Nat) : Int := (x.str.toList.getD (5 * k + l) 0).toInt

/-- Iterations (R183). -/
def LoopN.count (x : LoopN) : Nat := (List.range x.nlev.toNat).foldl (fun n l => n * LoopN.extent x l) 1

/-- The lane offset of operand k at iteration i, level 0 fastest (R183). -/
def LoopN.offset (x : LoopN) (k i : Nat) : Int :=
  ((List.range x.nlev.toNat).foldl (fun (acc : Nat × Int) l =>
    (acc.1 / LoopN.extent x l, acc.2 + (acc.1 % LoopN.extent x l : Nat) * LoopN.stride x k l)) (i, 0)).2

/-- The lane effect (R182): the lanes of operands 0, 1 and 2. -/
def LoopOp.lane (op : LoopOp) (t : Tag) (x0 x1 x2 : Nat) : Nat :=
  let m := ffmt t
  let v := fun n => m.decode n
  match op with
  | .copy => x1
  | .add => if t = .i32 then (x1 + x2) % 2 ^ 32 else m.encode .rne ((v x1).add .rne (v x2))
  | .mul => if t = .i32 then x1 * x2 % 2 ^ 32 else m.encode .rne ((v x1).mul (v x2))
  | .mac => m.encode .rne ((v x0).add .rne ((v x1).mul (v x2)))
  | .max => if t = .i32 then wrap 32 (max (signed 32 x1) (signed 32 x2)) else m.encode .rne (FVal.pick true false (v x1) (v x2))
  | .min => if t = .i32 then wrap 32 (min (signed 32 x1) (signed 32 x2)) else m.encode .rne (FVal.pick false false (v x1) (v x2))

/-- A lane of a window: the entry, element, row and lane that an offset names. -/
structure LanePos where
  entry : Nat
  elem : Nat
  row : Nat
  lane : Nat
  deriving DecidableEq, Repr

/-- Where operand k's lane lies at iteration i (R183): a position, a wait, or subcode 0x01. -/
def LoopN.place (x : LoopN) (y : Strand) (tile k i : Nat) : Option (Nat × Win × Option LanePos) :=
  match y.wins.find? fun e => e.2.tile == tile && e.2.index == (x.win.toList.getD k 0).toNat with
  | none => none
  | some (e, w) =>
    let q := LoopN.offset x k i
    let L := Tag.lanes x.tag
    let n := q.toNat
    if q < 0 ∨ w.cap ≤ n / (L * w.rpe) then some (e, w, none)
    else some (e, w, some { entry := e, elem := n / (L * w.rpe), row := n % (L * w.rpe) / L, lane := n % L })

/-- The value of a lane of a row. -/
def Row.lane (r : Row) (w i : Nat) : Nat := r.data.toNat / 2 ^ (w * i) % 2 ^ w

/-- A row with a lane replaced. -/
def Row.setLane (r : Row) (w n i v : Nat) : BitVec 1024 :=
  BitVec.ofNat 1024 (lanesNat w ((List.range n).map fun j => if j = i then v else r.lane w j))

/-- What an iteration of LOOPN comes to. -/
inductive LoopTry where
  | wait (why : Why)
  | fault (cause extra : Nat)
  | ok (s : State)

/-- Operands 0 to n - 1 of iteration i looked up in order (R183): an element past an end of stream faults as in WRD and WUP
(R150), before any wait. -/
def LoopN.places (x : LoopN) (s : State) (y : Strand) (tile i : Nat) :
    Nat → Nat → List LanePos → Except (Option (Nat × Nat) × Why) (List LanePos)
  | 0, _, acc => .ok acc.reverse
  | n + 1, k, acc =>
    match LoopN.place x y tile k i with
    | none => .error (some (0x07, windowExtra 0x03 (x.win.toList.getD k 0).toNat), .memory)
    | some (e, _, none) => .error (some (0x07, windowExtra 0x01 e), .memory)
    | some (e, w, some p) =>
      if w.eosBelow p.elem then .error (some (0x07, windowExtra 0x04 e), .memory)
      else if w.extent ≤ p.elem then .error (none, .winRead s.fire.k e p.elem)
      else LoopN.places x s y tile i n (k + 1) (p :: acc)

/-- Iteration i of LOOPN (R183): the lane of operand 0 is written in place as WUP writes, with WUP's checks (R150). -/
def LoopN.iter (x : LoopN) (s : State) (tile i : Nat) : LoopTry :=
  match s.strand? s.fire.k with
  | none => .fault 0 0
  | some y =>
    match LoopN.places x s y tile i x.op.operands 0 [] with
    | .error (some (c, e), _) => .fault c e
    | .error (none, why) => .wait why
    | .ok ps =>
      let w := x.tag.width
      let val := fun k => match ps[k]? with
        | some p => ((look p.entry y.wins).map fun v => (v.row p.elem p.row).lane w p.lane).getD 0
        | none => 0
      match ps[0]? with
      | none => .fault 0 0
      | some p =>
        match look p.entry y.wins with
        | none => .fault 0 0
        | some v =>
          if v.drainer.toNat ≠ strandId s.fire.k then .fault 0x07 (windowExtra 0x02 p.entry)
          else if (v.row p.elem 0).tag = .mark then .fault 0x07 (windowExtra 0x08 p.entry)
          else
            let r := v.row p.elem p.row
            let r' : Row :=
              { r with data := r.setLane w (Tag.lanes x.tag) p.lane (LoopOp.lane x.op x.tag (val 0) (val 1) (val 2))
                       valid := v.allValid, tag := x.tag, bad := false }
            let r'' : Row := { r' with data := BitVec.ofNat 1024 (r'.data.toNat % 2 ^ (8 * v.rowBytes)) }
            let s := ps.foldl (fun s q => match look q.entry y.wins with
              | some u => s.readElems s.fire.k u q.elem 1
              | none => s) s
            .ok ((s.modWin s.fire.k p.entry fun v => v.setRow p.elem p.row r'').soil s.fire.k v.tile 0
              (v.sram (v.head + BitVec.ofNat 32 p.elem) p.row / 256))

/-- n iterations from iteration i on. -/
def LoopN.run (x : LoopN) (tile : Nat) : Nat → Nat → State → Try
  | 0, _, s => .done s none none
  | n + 1, i, s =>
    match LoopN.iter x s tile i with
    | .wait why => .wait s why none [i]
    | .fault c e =>
      .done (s.addTrap s.fire.k { cause := c, origin := loopOrigin s.origin i, extra := e, atExit := false }) none none
    | .ok s => LoopN.run x tile n (i + 1) s

/-- Every window used carries the tag (R183). -/
def LoopN.tagsOk (x : LoopN) (y : Strand) (tile : Nat) : Bool :=
  (List.range x.op.operands).all fun k =>
    match y.wins.find? fun e => e.2.tile == tile && e.2.index == (x.win.toList.getD k 0).toNat with
    | some (_, w) => w.tag == x.tag
    | none => true

/-- LOOPN from where its progress stands (R183). -/
def tryLoopn (x : LoopN) (prog : List Nat) (s : State) : Try :=
  match s.strand? s.fire.k with
  | none => .done s none none
  | some y =>
    match y.run with
    | none => .done s none none
    | some r =>
      let tile := r.blk.tileOf y.region s.fire.copy s.fire.slot
      if ¬ LoopN.tagsOk x y tile then .fault s 0x03 0x03
      else
        let i := prog.headD 0
        LoopN.run x tile (LoopN.count x - i) i s

/-- LOOPN (R183). -/
def execLoopn (x : LoopN) (s : State) : Host.Outcome State Fault Refusal :=
  .next (s.tries .always need0 true .none .none (tryLoopn x []))

end Sys2Proof.Machine
end

