-- ==== Sys2Proof/Machine/Convert.lean ====
section
/-! DEFINITION. Machine/Convert.lean: the convert group 0x4 (R166 to R169). -/

namespace Sys2Proof.Machine

open Sys2Proof

/-- The destination lanes of a conversion of part p (R166): `src` are the converted source lanes. -/
def partLanes (ls ld p : Nat) (src third : List Nat) : List Nat :=
  (List.range ld).map fun i =>
    if ls < ld then (if p * ls ≤ i ∧ i < p * ls + ls then src.getD (i - p * ls) 0 else third.getD i 0)
    else src.getD (p * ld + i) 0

/-- A conversion from a left operand of the admitted tags into `t`, lane by lane (R166, R167): equal tags copy. -/
def convTok (takes : Tag → Bool) (t : Tag) (p : Nat) (g : Tag → Nat → Nat) (f : Firing) : Except Nat Tok :=
  match f.left with
  | none => .error 0x03
  | some l =>
    let ls := Tag.lanes l.tag
    let ld := Tag.lanes t
    if takes l.tag ∧ p < max ls ld / min ls ld ∧ f.third.all (fun u => u.tag == t) then
      let src := (l.lanesOf l.tag.width ls).map fun x => if l.tag = t then x else g l.tag x
      let third := match f.third with
        | some u => u.lanesOf t.width ld
        | none => []
      .ok (Tok.vectorOf t (partLanes ls ld p src third) l.mark)
    else .error 0x03

/-- Float to float (R167). -/
def cvtLane (m : RMode) (t src : Tag) (x : Nat) : Nat := (ffmt t).encode m ((ffmt src).decode x)

/-- The clamp of SATI (R167). -/
def satiLane (x : SatK) (t src : Tag) (v : Nat) : Nat :=
  match x with
  | .ss => wrap t.width (clampS t.width (signed src.width v))
  | .su => wrap t.width (clampU t.width (signed src.width v))
  | .uu => wrap t.width (clampU t.width v)

/-- CVT (R167). -/
def execCvt (p : PMode) (y : BitVec 2) (t : Tag) (a : Tgt) (s : State) : Host.Outcome State Fault Refusal :=
  .next (s.compute p needL false a .none (convTok Tag.isFloat t y.toNat (cvtLane .rne t)))

/-- CVTR (R167). -/
def execCvtr (p : PMode) (m : RMode) (y : BitVec 2) (t : Tag) (a : Tgt) (s : State) :
    Host.Outcome State Fault Refusal :=
  .next (s.compute p needL false a .none (convTok Tag.isFloat t y.toNat (cvtLane m t)))

/-- CVTI: rounded, then saturated; NaN gives 0 (R97, R167). -/
def execCvti (p : PMode) (m : RMode) (y : BitVec 2) (t : Tag) (a : Tgt) (s : State) :
    Host.Outcome State Fault Refusal :=
  .next (s.compute p needL false a .none (convTok Tag.isFloat t y.toNat fun src x =>
    wrap t.width (((ffmt src).decode x).toInt m t.width)))

/-- CVTF: the signed value rounded (R167). -/
def execCvtf (p : PMode) (m : RMode) (y : BitVec 2) (t : Tag) (a : Tgt) (s : State) :
    Host.Outcome State Fault Refusal :=
  .next (s.compute p needL false a .none (convTok Tag.isInt t y.toNat fun src x =>
    (ffmt t).ofInt m (signed src.width x)))

/-- SATI (R167). -/
def execSati (p : PMode) (x : SatK) (y : BitVec 2) (t : Tag) (a : Tgt) (s : State) :
    Host.Outcome State Fault Refusal :=
  .next (s.compute p needL false a .none (convTok Tag.isInt t y.toNat (satiLane x t)))

/-- A BFX token with block j replaced (R100): data bits of width w, exponents in the side band. -/
def withBlock (t : Tag) (d sd j : Nat) (el : List Nat) (e0 e1 : Nat) : Nat × Nat :=
  let bw := 32 * bfxW t
  let clear := fun (v w : Nat) => v - v / 2 ^ (w * j) % 2 ^ w * 2 ^ (w * j)
  (clear d bw + lanesNat (bfxW t) el * 2 ^ (bw * j), clear sd 16 + (e0 + e1 * 256) * 2 ^ (16 * j))

/-- PACKB (R101, R168). -/
def packbTok (t : Tag) (j k : Nat) (f : Firing) : Except Nat Tok :=
  match f.left with
  | none => .error 0x03
  | some l =>
    if l.tag = .f32 ∧ f.third.all (fun u => u.tag == t) then
      let (el, e0, e1) := packBlock t k ((l.lanesOf 32 32).map (ffmt .f32).decode)
      let (d, sd) := match f.third with
        | some u => (u.data.toNat, u.side.toNat)
        | none => (0, 0)
      let (d, sd) := withBlock t d sd j el e0 e1
      .ok { tag := t, scalar := false, data := BitVec.ofNat 1024 d, side := BitVec.ofNat 64 sd, mark := l.mark }
    else .error 0x03

/-- PACKB.f k, j (R168). -/
def execPackb (p : PMode) (f : Bool) (j : BitVec 2) (k : BitVec 4) (a : Tgt) (s : State) :
    Host.Outcome State Fault Refusal :=
  .next (s.compute p needL false a .none (packbTok (if f then .bfx6 else .bfx8) j.toNat k.toNat))

/-- The exact value of BFX lane i of a row: data and side band (R99, R100). -/
def bfxLane (t : Tag) (data side i : Nat) : FVal :=
  let j := i / 32
  bfxValue t (side / 2 ^ (16 * j) % 256) (side / 2 ^ (16 * j + 8) % 256) (data / 2 ^ (bfxW t * i) % 2 ^ bfxW t)

/-- A third operand, where there is one, carries the destination tag (R166). -/
def thirdFits (t : Tag) (f : Firing) : Bool := f.third.all fun u => u.tag == t

/-- UNPACKB: block j as 32 F32 lanes, exactly (R168). -/
def unpackbTok (j : Nat) (f : Firing) : Except Nat Tok :=
  match f.left with
  | none => .error 0x03
  | some l =>
    if (l.tag = .bfx8 ∨ l.tag = .bfx6) ∧ thirdFits .f32 f then
      .ok (Tok.vectorOf .f32 ((List.range 32).map fun i =>
        (ffmt .f32).encode .rne (bfxLane l.tag l.data.toNat l.side.toNat (32 * j + i))) l.mark)
    else .error 0x03

/-- UNPACKB j (R168). -/
def execUnpackb (p : PMode) (j : BitVec 2) (a : Tgt) (s : State) : Host.Outcome State Fault Refusal :=
  .next (s.compute p needL false a .none (unpackbTok j.toNat))

/-- Tags that RAW pairs with under RETAG (R169). -/
def rawPair : Tag → Bool
  | .bfx8 | .bfx6 | .mark | .poison | .idx => false
  | _ => true

/-- RETAG (R169). -/
def retagTok (t : Tag) (f : Firing) : Except Nat Tok :=
  match f.left with
  | none => .error 0x03
  | some l =>
    if ((l.tag = .raw ∧ rawPair t) ∨ (t = .raw ∧ rawPair l.tag)
        ∨ (l.tag ≠ .mark ∧ l.tag ≠ .poison ∧ l.tag.width = t.width)) ∧ thirdFits t f then .ok { l with tag := t }
    else .error 0x03

/-- RETAG tag (R169). -/
def execRetag (p : PMode) (t : Tag) (a : Tgt) (s : State) : Host.Outcome State Fault Refusal :=
  .next (s.compute p needL false a .none (retagTok t))

/-- TAGQ: tag [3:0], scalar flag [4], marker bits [9:5], lane count [23:16], 0 for MARK (R169). -/
def tagqTok (f : Firing) : Except Nat Tok :=
  match f.left with
  | none => .error 0x03
  | some l =>
    if thirdFits .i64 f then
      .ok (Tok.i64 (l.tag.code + (if l.scalar then 16 else 0) + l.mark.toNat * 32
        + (if l.tag = .mark then 0 else Tag.lanes l.tag) * 2 ^ 16) l.mark)
    else .error 0x03

/-- TAGQ (R169). -/
def execTagq (p : PMode) (a : Tgt) (s : State) : Host.Outcome State Fault Refusal :=
  .next (s.compute p needL false a .none tagqTok)

end Sys2Proof.Machine
end

