-- ==== Sys2Proof/Machine/Matrix.lean ====
section
/-! DEFINITION. Machine/Matrix.lean: the matrix group 0x6 (R174 to R181). -/

namespace Sys2Proof.Machine

open Sys2Proof

/-- Key of an accumulator: its tile and flat index 64 × row + column (R179). -/
def accKey (tile flat : Nat) : Nat := tile * 4096 + flat

/-- An accumulator of a tile (R102). -/
def Die.acc (y : Die) (tile flat : Nat) : Acc := (look (accKey tile flat) y.accs).getD Acc.reset

/-- An accumulator written; the list holds none that equals an absent one. -/
def Die.setAcc (y : Die) (tile flat : Nat) (v : Acc) : Die :=
  { y with accs := if v = Acc.reset then del (accKey tile flat) y.accs else put (accKey tile flat) v y.accs }

/-- Accumulators changed at a list of flat indices; their banks are dirty (R316). -/
def State.modAccs (s : State) (d tile : Nat) (l : List Nat) (f : Nat → Acc → Acc) : State :=
  let s := s.modDie d fun y => l.foldl (fun y n => y.setAcc tile n (f n (y.acc tile n))) y
  ((l.map (· / 512)).eraseDups).foldl (fun s b => s.soil s.fire.k tile 2 b) s

/-- An accumulator emptied, with tag 0 (R178, R179). -/
def Acc.cleared (a : Acc) : Acc :=
  { a with aset := false, pinned := false, inexact := false, reanch := false, nan := false, infp := false, infn := false,
           tag := 0 }

/-- The operand window of a tile (R174). -/
def Die.opwin (y : Die) (tile : Nat) : OpWin := (look tile y.opwins).getD OpWin.reset

/-- The operand window of a tile replaced. -/
def State.setOpwin (s : State) (d tile : Nat) (o : OpWin) : State :=
  s.modDie d fun y => { y with opwins := if o = OpWin.reset then del tile y.opwins else put tile o y.opwins }

/-- Elements between head and tail (R145). -/
def OpWin.extent (o : OpWin) : Nat := (o.tail - o.head).toNat
/-- Free elements of the 32 (R174). -/
def OpWin.free (o : OpWin) : Nat := 32 - o.extent

/-- Row r of the element at offset e. -/
def OpWin.row (o : OpWin) (e r : Nat) : Row :=
  (look ((o.head + BitVec.ofNat 32 e).toNat * 64 + r) o.rows).getD Row.zero

/-- The head moved by n; rows of released elements go (R177). -/
def OpWin.release (o : OpWin) (n : Nat) : OpWin :=
  { o with head := o.head + BitVec.ofNat 32 n
           rows := o.rows.filter fun e => n ≤ (BitVec.ofNat 32 (e.1 / 64) - o.head).toNat }

/-- A token as the next row of the slot being filled (R177). -/
def OpWin.fill (o : OpWin) (t : Tok) : OpWin :=
  let row : Row := { data := t.rowData, side := t.side, tag := t.tag, valid := BitVec.allOnes 32, bad := false }
  let o := { o with claim := max o.claim 1, rows := put (o.tail.toNat * 64 + o.frow) row o.rows }
  if o.frow = 63 then { o with frow := 0, tail := o.tail + 1, claim := o.claim - 1 } else { o with frow := o.frow + 1 }

/-- Where the firing node stands: its strand, die and tile. -/
def State.site? (s : State) : Option (Strand × Nat × Nat) :=
  match s.strand? s.fire.k with
  | none => none
  | some x => x.run.map fun r => (x, x.die, r.blk.tileOf x.region s.fire.copy s.fire.slot)

/-- A trial at the site of the firing node. -/
def State.onSite (s : State) (f : Strand → Nat → Nat → Try) : Try :=
  match s.site? with
  | some (x, d, tile) => f x d tile
  | none => .done s none none

/-- Cause 0x10 of an array that has no physical addresses: s31 is a free value (log 8, log 16). -/
def Try.arrayError (s : State) : Try :=
  let (v, s) := s.fresh
  .fault s 0x10 v.toNat

/-- The claim and fill of R177: MLDB, and the right operand of MROW; MARK is no operand of either (R91). A row of another tag
than the slot's first is written and then faults, and as the slot's 64th it moves the tail on too (log 36). -/
def State.opFill (s : State) (d tile : Nat) (t : Tok) (prog : List Nat) (fin : State → Try) : Try :=
  let o := (s.die d).opwin tile
  if t.tag = .mark then .fault s 0x03 0x03
  else if o.claim = 0 ∧ o.free = 0 then .wait s (.opFill d tile) none prog
  else
    let u := (s.setOpwin d tile (o.fill t)).soil s.fire.k tile 1 (o.tail.toNat % 32)
    if o.frow ≠ 0 ∧ (look (o.tail.toNat * 64) o.rows).any (fun r => r.tag != t.tag) then .fault u 0x03 0x03 else fin u

/-- MLDB (R177). -/
def tryMldb (s : State) : Try :=
  s.onSite fun _ d tile => match s.fire.left with
    | some t => s.opFill d tile t [] Try.complete
    | none => .done s none none

/-- MCLM n (R177). -/
def tryMclm (n : Nat) (s : State) : Try :=
  s.onSite fun _ d tile =>
    let o := (s.die d).opwin tile
    if o.claim + n ≤ o.free then Try.complete (s.setOpwin d tile { o with claim := o.claim + n })
    else .wait s (.opFill d tile) none []

/-- MREL n (R177). -/
def tryMrel (n : Nat) (s : State) : Try :=
  s.onSite fun _ d tile =>
    let o := (s.die d).opwin tile
    if n ≤ o.extent then Try.complete (s.setOpwin d tile (o.release n)) else .wait s (.opRead d tile (n - 1)) none []

/-- Formats of the matrix node: slots per tile, or none (R175). -/
def matSlots : Tag → Option Nat
  | .bf16 | .f16 => some 1
  | .f32 | .f8e4 | .f8e5 | .bfx8 | .bfx6 => some 2
  | _ => none

/-- Formats of 128 columns (R175). -/
def matWide : Tag → Bool
  | .f8e4 | .f8e5 | .bfx8 | .bfx6 => true
  | _ => false

/-- An A row's tag and a tile's may be combined (R175). -/
def matPair (a b : Tag) : Bool := a == b || ((a == .f8e4 || a == .f8e5) && (b == .f8e4 || b == .f8e5))

/-- The value of an element (R97, R99). -/
def matVal (t : Tag) (data side i : Nat) : FVal :=
  if t = .bfx8 ∨ t = .bfx6 then bfxLane t data side i else (ffmt t).decode (data / 2 ^ (t.width * i) % 2 ^ t.width)

/-- The first n elements of a token or row. -/
def matVals (t : Tag) (data side n : Nat) : List FVal := (List.range n).map fun i => matVal t data side i

/-- The elements of an A operand, a scalar in every lane (R90). -/
def Tok.matVals (t : Tok) (n : Nat) : List FVal :=
  if t.scalar then List.replicate n (matVal t.tag t.data.toNat t.side.toNat 0)
  else Machine.matVals t.tag t.data.toNat t.side.toNat n

/-- The B tile at offset o as rows of values (R175): for F32 a row is two token rows. -/
def OpWin.tileRows (w : OpWin) (o : Nat) (t : Tag) : List (List FVal) :=
  let row := fun i => w.row (o + i / 64) (i % 64)
  let vals := fun i n => Machine.matVals (row i).tag (row i).data.toNat (row i).side.toNat n
  if t = .f32 then (List.range 64).map fun k => vals (2 * k) 32 ++ vals (2 * k + 1) 32
  else if matWide t then (List.range 128).map fun k => vals k 128
  else (List.range 64).map fun k => vals k 64

/-- Products of one accumulator in ascending element order (R107, R175). -/
def Acc.addProducts (x : Acc) (as bs : List FVal) : Acc := (as.zip bs).foldl (fun x p => x.add (p.1.mul p.2)) x

/-- Column j of a B tile, or its row j under MROWT. -/
def matColumn (rows : List (List FVal)) (transposed : Bool) (j : Nat) : List FVal :=
  if transposed then rows.getD j [] else rows.map fun r => r.getD j (.fin false 0 0)

/-- A drained token of accumulators from a flat index (R105, R179). -/
def Die.drained (y : Die) (tile flat : Nat) (t : Tag) (mark : BitVec 5) : Tok :=
  Tok.vectorOf t ((List.range (Tag.lanes t)).map fun i => (y.acc tile (flat + i)).drain t) mark

/-- An item that the firing under way offers to target A before it is done (R178). -/
def State.offerA (s : State) (x : Item) : State :=
  s.modRun s.fire.k fun r => r.modNode s.fire.copy s.fire.slot fun n =>
    { n with out := n.out ++ outsOf s.fire.iter ((r.blk.instr? s.fire.slot).elim .none tgtA) .none (some x) none }

/-- A sink's fault that leaves what it has emitted as it stands (R143, R178). -/
def Try.lateFault (s : State) (cause extra : Nat) : Try :=
  .done (s.addTrap s.fire.k { cause := cause, origin := s.origin, extra := extra, atExit := false }) none none

/-- The fill of MROW's right operand, where it is a B row (R177, R178); `sent` tells that the firing has emitted its drain or
skip already. -/
def State.mrowLast (s : State) (d tile : Nat) (sent : Bool) : Try :=
  match s.fire.right with
  | none => .done s none none
  | some r => match s.opFill d tile r [if sent then 1 else 0] fun s => .done s none none with
    | .fault u c e => if sent then Try.lateFault u c e else .fault u c e
    | t => t

/-- The last part of MROW: the drain or skip is emitted, then the right operand fills, which may wait (R178). -/
def State.mrowFill (s : State) (d tile : Nat) (item : Option Item) : Try :=
  match s.fire.left, s.fire.right with
  | some l, some _ =>
    if l.tag = .f32 then .done s item none
    else match item with
      | some x => (s.offerA x).mrowLast d tile true
      | none => s.mrowLast d tile false
  | _, _ => .done s item none

/-- The middle of MROW: drains, and the release on the marker (R178). -/
def State.mrowDrain (s : State) (d tile : Nat) (x : DrainK) (rel : Bool) (j s' a : Nat) (wide : Bool) (l : Tok) : Try :=
  let flats := (List.range (if wide then 128 else 64)).map (64 * a + ·)
  let m := l.marker j
  let freed := fun (s : State) =>
    if rel && m then s.setOpwin d tile (((s.die d).opwin tile).release s') else s
  let drop := fun (s : State) => s.modAccs d tile flats fun _ v => v.cleared
  match x with
  | .none => (freed s).mrowFill d tile none
  | .db =>
    if m then (freed (drop s)).mrowFill d tile (some (.tok ((s.die d).drained tile (64 * a) .bf16 l.mark)))
    else (freed s).mrowFill d tile (some .skip)
  | .df =>
    if m then
      if wide then .fault s 0x03 0x03
      else (freed (drop s)).mrowFill d tile (some (.tok ((s.die d).drained tile (64 * a) .f32 l.mark)))
    else (freed s).mrowFill d tile (some .skip)

/-- MROW and MROWT (R178): progress [] before the products, else whether the firing that fills has emitted. Of a tile whose
two slots carry F8E4 and F8E5, each slot pairs with the A row for itself and the accumulators record the first slot's tag
(log 36). -/
def tryMrow (x : DrainK) (rel transposed : Bool) (j o : Nat) (prog : List Nat) (s : State) : Try :=
  s.onSite fun y d tile =>
    match prog, s.fire.left, wordOperand s.fire.third with
    | e :: _, _, _ => s.mrowLast d tile (e == 1)
    | [], some l, .ok a =>
      let wide := matWide l.tag
      if 63 < a ∨ (wide ∧ a % 2 = 1) then .fault s 0x07 (windowExtra 0x01 0)
      else match matSlots l.tag with
      | none => .fault s 0x03 0x03
      | some n =>
        let w := (s.die d).opwin tile
        if w.extent ≤ o + n - 1 then .wait s (.opRead d tile (o + n - 1)) none []
        else
          let bt := (w.row o 0).tag
          let flats := (List.range (if wide then 128 else 64)).map (64 * a + ·)
          if ¬ (List.range n).all (fun i => matPair l.tag (w.row (o + i) 0).tag)
              ∨ (l.tag = .f32 ∧ ¬ s.fire.right.any fun r => r.tag == .f32)
              ∨ flats.any (fun f => let t := ((s.die d).acc tile f).tag.toNat; t != 0 && t != 15 && t != bt.code) then
            .fault s 0x03 0x03
          else
            let at0 := (w.head + BitVec.ofNat 32 o).toNat % 32 * 8192
            let (s, e1) := s.senseTile 1 d tile at0 (at0 + 8192 * n) y.ctx
            let (s, e2) := s.senseTile 2 d tile (64 * a) (64 * a + flats.length) y.ctx
            if e1 ∨ e2 ∨ (List.range (64 * n)).any (fun i => (w.row (o + i / 64) (i % 64)).bad) then Try.arrayError s
            else
              let as := if l.tag = .f32 then l.matVals 32 ++ ((s.fire.right.map fun r => r.matVals 32).getD [])
                else l.matVals (if wide then 128 else 64)
              let rows := w.tileRows o l.tag
              let s := s.modAccs d tile flats fun f v =>
                { v.addProducts as (matColumn rows transposed (f - 64 * a)) with tag := BitVec.ofNat 4 bt.code }
              s.mrowDrain d tile x rel j n a wide l
    | _, _, _ => .fault s 0x03 0x03

/-- MROW's operands: A, the third, and A's high half for F32 (R178). -/
def needMrow (f : Firing) : Bool :=
  f.third.isSome && f.left.any fun l => l.tag != .f32 || f.right.isSome

/-- A read of accumulators whose validity is checked (R331): the state with the trace record, where one has tag 15. -/
def State.undefinedAcc (s : State) (x : Strand) (d tile : Nat) (flats : List Nat) : Option State :=
  if bit x.dbgctl.toNat 3 then
    (flats.find? fun f => ((s.die d).acc tile f).tag == 15).map fun f =>
      s.trace s.fire.k 6 (((s.run? s.fire.k).map fun r => r.blk.addr).getD 0) 0 (f + 0x3FF * 2 ^ 32)
  else none

/-- A drain or status read of accumulators: the check of R331, armed errors, then the reading. -/
def State.readAccs (s : State) (x : Strand) (d tile : Nat) (flats : List Nat) (f : State → Try) : Try :=
  match s.undefinedAcc x d tile flats with
  | some s => .fault s 0x11 0x11
  | none =>
    match s.senseTile 2 d tile (flats.headD 0) (flats.headD 0 + flats.length) x.ctx with
    | (s, true) => Try.arrayError s
    | (s, false) => f s

/-- MDRN and MDRK (R179). -/
def tryMdrn (clear : Bool) (t : Tag) (p : Nat) (s : State) : Try :=
  s.onSite fun x d tile =>
    match wordOperand s.fire.left with
    | .error c => .fault s c c
    | .ok a =>
      let f0 := 64 * a + Tag.lanes t * p
      if 4096 < f0 + Tag.lanes t then .fault s 0x07 (windowExtra 0x01 0)
      else
        let flats := (List.range (Tag.lanes t)).map (f0 + ·)
        s.readAccs x d tile flats fun s =>
          Try.tok (if clear then s.modAccs d tile flats fun _ v => v.cleared else s)
            ((s.die d).drained tile f0 t s.fire.marks)

/-- MSTAT a, g (R179). -/
def tryMstat (g a : Nat) (s : State) : Try :=
  s.onSite fun x d tile =>
    let flats := (List.range 8).map (64 * a + 8 * g + ·)
    s.readAccs x d tile flats fun s =>
      Try.tok s { tag := .raw, scalar := false, side := 0, mark := s.fire.marks,
                  data := BitVec.ofNat 1024 (lanesNat 128 (flats.map fun f => ((s.die d).acc tile f).word)) }

/-- Rows a to a + n - 1 as flat indices. -/
def accRows (a n : Nat) : List Nat := (List.range (64 * n)).map (64 * a + ·)

/-- MACR a, n (R179). -/
def tryMacr (n a : Nat) (s : State) : Try :=
  s.onSite fun _ d tile => Try.complete (s.modAccs d tile (accRows a n) fun _ v => v.cleared)

/-- MANC a, n (R179): the anchor is read signed. -/
def tryManc (n a : Nat) (s : State) : Try :=
  s.onSite fun _ d tile =>
    match intOperand s.fire.left with
    | .error c => .fault s c c
    | .ok (v, w) =>
      let e := signed w v
      if e < -512 ∨ 511 < e then .fault s 0x03 0x03
      else Try.complete (s.modAccs d tile (accRows a n) fun _ x =>
        { x.cleared with acc := 0, anchor := BitVec.ofInt 10 e, aset := true, pinned := true })

/-- MLDB (R177). -/
def execMldb (p : PMode) (a : Tgt) (s : State) : Host.Outcome State Fault Refusal :=
  .next (s.tries p needL true a .none tryMldb)

/-- MCLM n (R177). -/
def execMclm (p : PMode) (n : BitVec 6) (a : Tgt) (s : State) : Host.Outcome State Fault Refusal :=
  .next (s.tries p needL true a .none (tryMclm n.toNat))

/-- MREL n (R177). -/
def execMrel (p : PMode) (n : BitVec 6) (a : Tgt) (s : State) : Host.Outcome State Fault Refusal :=
  .next (s.tries p needL true a .none (tryMrel n.toNat))

/-- MROW (R178). -/
def execMrow (p : PMode) (x : DrainK) (g : Bool) (j : BitVec 3) (o : BitVec 5) (a : Tgt) (s : State) :
    Host.Outcome State Fault Refusal :=
  .next (s.tries p needMrow true a .none (tryMrow x g false j.toNat o.toNat []))

/-- MROWT (R178). -/
def execMrowt (p : PMode) (x : DrainK) (g : Bool) (j : BitVec 3) (o : BitVec 5) (a : Tgt) (s : State) :
    Host.Outcome State Fault Refusal :=
  .next (s.tries p needMrow true a .none (tryMrow x g true j.toNat o.toNat []))

/-- MACR (R179): the field holds n - 1. -/
def execMacr (p : PMode) (n : BitVec 4) (r : BitVec 6) (a : Tgt) (s : State) : Host.Outcome State Fault Refusal :=
  .next (s.tries p needL true a .none (tryMacr (n.toNat + 1) r.toNat))

/-- MANC (R179). -/
def execManc (p : PMode) (n : BitVec 4) (r : BitVec 6) (a : Tgt) (s : State) : Host.Outcome State Fault Refusal :=
  .next (s.tries p needL true a .none (tryManc (n.toNat + 1) r.toNat))

/-- MDRN (R179). -/
def execMdrn (p : PMode) (y : BitVec 2) (t : Tag) (a : Tgt) (s : State) : Host.Outcome State Fault Refusal :=
  .next (s.tries p needL true a .none (tryMdrn true t y.toNat))

/-- MDRK (R179). -/
def execMdrk (p : PMode) (y : BitVec 2) (t : Tag) (a : Tgt) (s : State) : Host.Outcome State Fault Refusal :=
  .next (s.tries p needL true a .none (tryMdrn false t y.toNat))

/-- MSTAT (R179). -/
def execMstat (p : PMode) (g : BitVec 3) (r : BitVec 6) (a : Tgt) (s : State) : Host.Outcome State Fault Refusal :=
  .next (s.tries p needL true a .none (tryMstat g.toNat r.toNat))

end Sys2Proof.Machine
end

