-- ==== Sys2Proof/Machine/Flow.lean ====
section
/-! DEFINITION. Machine/Flow.lean: how tokens leave their nodes (R133, R134, R136), chains, buses and control channels
(R137, R138, R157, R158), and the events that end window waits and move channel fills (R153 to R156). -/

namespace Sys2Proof.Machine

open Sys2Proof

/-! ### Chains -/

/-- The value of level j, or of the whole chain (R137). -/
def Run.chainValue (r : Run) (g : Region) (copy c i : Nat) (j : Option Nat) : Int :=
  match r.chains[c]? with
  | none => 0
  | some ch =>
    let vs := ((r.counts g copy c i).1.zip ch.str).map fun p => (p.1 : Int) * p.2
    match j with
    | some j => vs.getD j 0
    | none => vs.foldl (· + ·) 0

/-- The extent and stride that a KSET at a slot configures (R138), or the cause with s31: a token of another tag or form gives
0x03 as at every node (R91), a bit that must be zero the check 0x16. -/
def ksetLevel (x : KsetK) (e : BitVec 9) (slot : Nat) (o : Option Tok) : Except (Nat × Nat) (Nat × Int) :=
  match x with
  | .plus => .ok (e.toNat + 1, 1)
  | .minus => .ok (e.toNat + 1, -1)
  | .zero => .ok (e.toNat + 1, 0)
  | .oper => match i64Operand o with
    | .ok v => if v / 2 ^ 32 = 0 then .ok (v % 2 ^ 16 + 1, signed 16 (v / 2 ^ 16)) else .error (0x01, checkExtra slot 0x16)
    | .error c => .error (c, c)

/-- A level joins the chains: a new chain, or the next level of the last. -/
def addLevel (l : List Chain) (first : Bool) (e : Nat) (d : Int) : List Chain :=
  if first then l ++ [{ ext := [e], str := [d] }]
  else match l.reverse with
    | [] => [{ ext := [e], str := [d] }]
    | c :: cs => (({ ext := c.ext ++ [e], str := c.str ++ [d] } : Chain) :: cs).reverse

/-- A KSET's operand is refused: the trap is recorded for the block's edge, and the block fires no iteration (R138). -/
def State.ksetStop (s : State) (cause origin extra : Nat) : State :=
  ((s.addTrap s.fire.k { cause := cause, origin := origin, extra := extra, atExit := false }).give .none .none none none).modRun
    s.fire.k fun r => r.modNode s.fire.copy s.fire.slot fun n => { n with stopped := true }

/-- KSET (R138): copy 0 configures the block's levels in slot order. An operand that it refuses stops it; POISON does with
cause 0x04, as at a sink (R143; log 36). -/
def execKset (_p : PMode) (x : KsetK) (_g : Bool) (e : BitVec 9) (s : State) : Host.Outcome State Fault Refusal :=
  .next (match s.here? with
    | none => s
    | some (_, r, _) =>
      if x = .oper ∧ s.fire.left.isNone then s
      else if s.fire.copy ≠ 0 then s.give .none .none none none
      else
        let ls := ksetLevels r.blk.instrs
        let idx := (r.chains.map fun c => c.ext.length).sum
        match ls[idx]? with
        | none => s
        | some (slot, _, level) =>
          if slot ≠ s.fire.slot then s
          else match s.fire.poison?, ksetLevel x e s.fire.slot s.fire.left with
            | none, .ok (n, d) =>
              (s.give .none .none none none).modRun s.fire.k fun r => { r with chains := addLevel r.chains (level == 0) n d }
            | some t, _ => s.ksetStop 0x04 t.origin t.cause
            | none, .error (c, v) => s.ksetStop c s.origin v)

/-- KCHAIN (R138): the selection is read from the captured block. -/
def execKchain (_p : PMode) (_n : BitVec 3) (s : State) : Host.Outcome State Fault Refusal :=
  .next (match s.here? with
    | none => s
    | some _ => s.give .none .none none none)

/-- KIDX (R137, R138). -/
def execKidx (p : PMode) (l : BitVec 2) (a b : Tgt) (s : State) : Host.Outcome State Fault Refusal :=
  .next (s.firing p need0 false a b <|
    match s.here? with
    | none => s
    | some (x, r, _) =>
      let c := r.blk.chainSel s.fire.slot
      let v := r.chainValue x.region s.fire.copy c s.fire.iter (if l.toNat = 3 then none else some l.toNat)
      s.emit a b (Tok.scalarOf .idx (wrap 64 v) (r.chainMarks x.region s.fire.copy c s.fire.iter)))

/-- KLAST (R138): its token carries the chain's marker bits (log 17). -/
def execKlast (p : PMode) (n : BitVec 3) (j : BitVec 3) (a : Tgt) (s : State) : Host.Outcome State Fault Refusal :=
  .next (s.firing p need0 false a .none <|
    match s.here? with
    | none => s
    | some (x, r, _) =>
      let m := r.chainMarks x.region s.fire.copy n.toNat s.fire.iter
      s.emit a .none (Tok.pred (bit m.toNat j.toNat) m))

/-! ### Buses and control channels -/

/-- An item put on every link that `sel` picks. -/
def Run.push (r : Run) (sel : Link → Bool) (it : Nat) (i : Item) : Run :=
  { r with links := r.links.map fun l => if sel l then { l with items := l.items ++ [(it, i)] } else l }

/-- What stands in every link that `sel` picks, for every iteration (R133, R134). -/
def Run.stand (r : Run) (sel : Link → Bool) (i : Item) : Run :=
  { r with links := r.links.map fun l => if sel l then { l with const := some i } else l }

/-- A trap of the doubled-token check at a consumer slot (R41, R114). s31 names the consumer; the origin is that of the node
whose act meets the second token: in a control block the producer that sends it, in a fabric block the consumer that takes
its operands (log 24). -/
def State.doubled (s : State) (slot : Nat) : State :=
  s.addTrap s.fire.k { cause := 0x01, origin := s.origin, extra := checkExtra slot 0x0B, atExit := false }

/-- BUSTX's send (R157): once every receiver of the identifier has room; a second token of an iteration at a receiver is
the doubled-token case. -/
def State.busSend (s : State) (r : Run) (id : Nat) (t : Tok) (fin : State → State) : State :=
  let f := s.fire
  let mine := fun (l : Link) => l.copy == f.copy && l.src == f.slot && r.isDynamic l &&
    (match r.blk.instr? l.slot with
     | some (.busrx _ i _) => i.toNat == id
     | _ => false)
  let rs := r.links.filter mine
  if rs.all (fun l => l.items.length < 4) then
    let twice := fun (l : Link) =>
      (r.links.any fun m => m.copy == l.copy && m.slot == l.slot && (m.at? f.iter).any fun i => i != .skip) ||
        (r.node? l.copy l.slot).any fun n => f.iter < n.fired
    let s := (rs.filter twice).foldl (fun s l => s.doubled l.slot) s
    fin (s.modRun f.k fun r => r.push (fun l => mine l && !twice l) f.iter (.tok t))
  else s

/-- The identifier that BUSTX's right operand names (R158). -/
def busId (o : Option Tok) : Option Nat :=
  match i64Operand o with
  | .ok id => if id < 2 ^ 7 then some id else none
  | .error _ => none

/-- BUSTX (R157, R158): POISON that it receives or makes goes to the targets, and to the bus in the data's place where the
identifier is good (R91, R95, R161; log 17). -/
def execBustx (p : PMode) (a b : Tgt) (s : State) : Host.Outcome State Fault Refusal :=
  .next (match s.here?, s.fire.left with
    | some (_, r, _), some d =>
      if s.fire.sense p && needLR s.fire then
        let id := busId s.fire.right
        let out : Tok × (State → State) := match s.fire.poison? with
          | some t => (t, fun s => s.poisoned false a b t)
          | none =>
            if s.fire.badPred ∨ d.tag = .mark ∨ id.isNone then
              (Tok.poisonOf 0x03 s.origin s.fire.marks, fun s => s.failBoth false a b 0x03 0x03)
            else (d, fun s => s.emit a b (Tok.done s.fire.its))
        match id with
        | some id => s.busSend r id out.1 out.2
        | none => out.2 s
      else s
    | _, _ => s)

/-- BUSRX (R157): the token as sent. -/
def execBusrx (p : PMode) (_i : BitVec 7) (a : Tgt) (s : State) : Host.Outcome State Fault Refusal :=
  .next (s.firing p needL false a .none <|
    match s.fire.left with
    | some t => s.emit a .none t
    | none => s)

/-- CTLSND c (R158): a pulse, at most four outstanding; a POISON trigger, or the POISON
of a predicate that CTLSND does not admit (R161), goes on in its place (log 17). -/
def execCtlsnd (p : PMode) (_c : BitVec 7) (s : State) : Host.Outcome State Fault Refusal :=
  .next (match s.here? with
    | none => s
    | some (_, r, _) =>
      let mine := fun (l : Link) => l.copy == s.fire.copy && l.src == s.fire.slot
      if s.fire.sense p && needL s.fire && (r.links.filter mine).all fun l => l.items.length < 4 then
        let t := s.fire.poison?.getD
          (if s.fire.badPred then Tok.poisonOf 0x03 s.origin s.fire.marks else Tok.pred true 0)
        (s.give .none .none none none).modRun s.fire.k fun r => r.push mine s.fire.iter (.tok t)
      else s)

/-- CTLRCV c (R158). -/
def execCtlrcv (p : PMode) (_c : BitVec 7) (a : Tgt) (s : State) : Host.Outcome State Fault Refusal :=
  .next (s.firing p needL false a .none (s.emit a .none (Tok.pred true 0)))

/-! ### Outputs -/

/-- A port fill is offered (R154): the latch holds its firing. -/
def State.offerPort (s : State) (n : Nat) (o : Out) : State :=
  let f := s.fire
  let gone := fun (s : State) => (s.endOutWait f.k f.copy f.slot o).dropOut f.k f.copy f.slot o
  match o.item with
  | .skip => gone s
  | .tok t =>
    if t.tag = .poison then
      gone (s.addTrap f.k { cause := 0x04, origin := t.origin, extra := t.cause, atExit := false })
    else
      match s.fillStep n (if f.slot = edgeSlot then .marker (t.lane 64 0) else .tok t) (s.onLink f n) with
      | .ordered | .wait _ => s
      | .fault c e => gone (s.addTrap f.k { cause := c, origin := s.origin, extra := e, atExit := false })
      | .linked s _ => s
      | .filled s => gone s

/-- An output is offered to its target (R133, R134, R136, R40, R41): it leaves where the target takes it. What a LIT or
READS of a fabric block sends to a register or a port belongs to iteration 0, which begins once the chains are
configured (R133, R138). -/
def State.offer (s : State) (x : Strand) (r : Run) (n : Node) (o : Out) : State :=
  let f : Firing := { Firing.zero with k := s.fire.k, copy := n.copy, slot := n.slot, iter := o.iter }
  let s := { s with fire := f }
  let gone := fun (s : State) => s.dropOut f.k f.copy f.slot o
  let isC := r.blk.isFabric && (r.blk.instr? n.slot).any isConst
  let early := isC && !r.chained
  match o.tgt with
  | .none => gone s
  | .reg m =>
    if early then s
    else match o.item with
    | .skip => gone s
    | .tok t =>
      if t.tag = .poison then
        gone (s.addTrap f.k { cause := 0x04, origin := t.origin, extra := t.cause, atExit := true })
      else gone (s.modRun f.k fun r => r.hold
        { reg := m.toNat, iter := if isC then 0 else r.globalIter x.region f.copy f.iter, slot := f.slot, copy := f.copy,
          val := t.word, tag := t.tag })
  | .port m => if early then s else s.offerPort m.toNat o
  | _ =>
    let ls := r.outLinks f.copy f.slot o.b
    let mine := fun (l : Link) => ls.contains l
    if isC then
      gone (s.modRun f.k fun r => r.stand mine o.item)
    else if r.blk.isFabric then
      if ls.all (fun l => l.items.length < 4) then gone (s.modRun f.k fun r => r.push mine o.iter o.item) else s
    else
      match o.item with
      | .skip => gone s
      | .tok _ =>
        let taken := fun (l : Link) => r.links.any fun m => m.slot == l.slot && m.pos == l.pos && !m.items.isEmpty
        let s := (ls.filter taken).foldl (fun s l => s.doubled l.slot) s
        gone (s.modRun f.k fun r => r.push (fun l => mine l && !taken l) o.iter o.item)

/-- Outputs that may be offered now: the oldest for each target, and none of an iteration past an operation still in flight
(R136); MROW's drain is offered while the fill of its own iteration waits (R178). -/
def Node.offers (n : Node) : List Out :=
  let ready := n.out.filter fun o => n.pend.all fun p => o.iter ≤ p.fire.iter
  ready.filter fun o => ready.all fun q => q.b != o.b || o.iter ≤ q.iter

/-- The first of some changes that changes the state, the latch apart. -/
def State.firstChange (s : State) : List (State → State) → State
  | [] => s
  | g :: gs => let t := { g s with fire := s.fire }
               if t = s then s.firstChange gs else t

/-- SLOT_RESULT_OFFER (R111, R112, R133): an output is accepted. -/
def execSlotResultOffer (k copy slot : Nat) (s : State) : Host.Outcome State Fault Refusal :=
  .next (match s.strand? k with
    | none => s
    | some x =>
      match x.run with
      | none => s
      | some r =>
        if x.working then
          match r.node? copy slot with
          | none => s
          | some n => s.firstChange (n.offers.map fun o s =>
            ({ s with fire := { s.fire with k := k } } : State).offer x r n o)
        else s)

/-- SKIP_TOKEN_PASS (R134, R187): a node that does not fire discards its operands and passes skips; after a marker stop
the exit fires on its final iteration all the same. -/
def execSkipTokenPass (k copy slot : Nat) (s : State) : Host.Outcome State Fault Refusal :=
  .next (match s.strand? k with
    | none => s
    | some x =>
      match x.run with
      | none => s
      | some r =>
        if x.phase = .run ∧ x.save.free ∧ ¬ x.halted then
          match r.node? copy slot with
          | none => s
          | some n =>
            match r.ready k x.region n, r.blk.instr? slot with
            | .skip it twice, some i =>
              let f : Firing := { Firing.zero with k := k, copy := copy, slot := slot, iter := it }
              let s := if twice then ({ s with fire := f } : State).doubled slot else s
              let last := it + 1 == r.iters x.region copy 0
              let ctl := match i with
                | .ctlsnd _ _ => true
                | _ => false
              let isExit := match i with
                | .exit _ _ | .exitc _ _ _ => true
                | _ => false
              let mine := fun (l : Link) => l.copy == copy && l.src == slot
              if ctl && !((r.links.filter mine).all fun l => l.items.length < 4) then s
              else s.modRun k fun r =>
                let r := r.finish f (tgtA i) (tgtB i) (some .skip) (some .skip)
                let r := if ctl then r.push mine it .skip else r
                if isExit && last && r.mstop then { r with exits := r.exits ++ [(slot, copy, .goto 0)] } else r
            | _, _ => s
        else s)

/-- FABRIC_RECONFIGURE (R142): a node takes the configuration of the block that was loaded. -/
def execFabricReconfigure (k copy slot : Nat) (s : State) : Host.Outcome State Fault Refusal :=
  .next (match s.strand? k with
    | none => s
    | some x => if x.phase = .run ∧ x.save.free ∧ ¬ x.halted then s.modRun k fun r => r.modNode copy slot fun n => { n with cfg := true }
                else s)

/-! ### Waits that end -/

/-- How an operation of a node that may wait for a window goes on from its progress: whether it is a sink, and the
trial. -/
def resumeOf (i : Instr) : Option (Bool × (List Nat → State → Try)) :=
  match i with
  | .wrd _ w _ => some (false, fun _ => tryWrd w.toNat)
  | .wrdb _ w _ => some (false, fun _ => tryWrdb w.toNat)
  | .wup _ w _ => some (true, fun _ => tryWup w.toNat)
  | .wfl _ w _ => some (true, tryWfl w.toNat)
  | .wflb _ w _ => some (true, tryWflb w.toNat)
  | .wsh _ w _ => some (true, fun _ => tryWsh w.toNat)
  | .wmark _ w _ => some (true, tryWmark w.toNat)
  | .weos _ w _ => some (true, tryWeos w.toNat)
  | .wspl _ o w _ => some (true, tryWspl o w.toNat)
  | .psrc _ n _ => some (true, fun _ => tryPsrc n.toNat)
  | .psnk _ j n _ => some (true, tryPsnk j.toNat n.toNat)
  | .mldb _ _ => some (true, fun _ => tryMldb)
  | .mclm _ n _ => some (true, fun _ => tryMclm n.toNat)
  | .mrel _ n _ => some (true, fun _ => tryMrel n.toNat)
  | .mrow _ x g j o _ => some (true, tryMrow x g false j.toNat o.toNat)
  | .mrowt _ x g j o _ => some (true, tryMrow x g true j.toNat o.toNat)
  | .loopn x => some (true, tryLoopn x)
  | .splins _ w _ => some (true, trySpl 0 w.toNat)
  | .splrem _ w _ => some (true, trySpl 1 w.toNat)
  | .splbnd _ w _ => some (true, trySpl 2 w.toNat)
  | _ => none

/-- The oldest operation in flight of a node of a strand that runs. -/
def State.oldest? (s : State) (k copy slot : Nat) : Option (Strand × Instr × Pend) :=
  match s.strand? k with
  | none => none
  | some x =>
    if x.phase = .run ∧ x.save.free then
      match x.run with
      | none => none
      | some r =>
        match r.node? copy slot, r.blk.instr? slot with
        | some n, some i => n.pend.head?.map fun p => (x, i, p)
        | _, _ => none
    else none

/-- A waiting operation goes on where its wait is of the kind given. -/
def State.waitEnd (s : State) (k copy slot : Nat) (kind : Why → Bool) : State :=
  match s.oldest? k copy slot with
  | none => s
  | some (_, i, p) =>
    if kind p.why then
      match resumeOf i with
      | some (sink, t) => s.again p sink (tgtA i) (tgtB i) (t p.prog)
      | none => s
    else s

/-- WINDOW_READ_WAIT_END (R150). -/
def execWindowReadWaitEnd (k copy slot : Nat) (s : State) : Host.Outcome State Fault Refusal :=
  .next (s.waitEnd k copy slot fun w => match w with
    | .winRead _ _ _ | .opRead _ _ _ => true
    | _ => false)

/-- WINDOW_FILL_WAIT_END (R146, R150). -/
def execWindowFillWaitEnd (k copy slot : Nat) (s : State) : Host.Outcome State Fault Refusal :=
  .next (s.waitEnd k copy slot fun w => match w with
    | .winFill _ _ _ | .opFill _ _ | .order => true
    | _ => false)

/-! ### Channels -/

/-- CHANNEL_FILL (R155, R156): the oldest fill on the link of window w of strand k that may be performed. -/
def execChannelFill (k w : Nat) (s : State) : Host.Outcome State Fault Refusal := .next (s.fillOnce k w)

/-- SPILL_RING_DRAIN (R156): the ring's oldest entry enters the window. -/
def execSpillRingDrain (k w : Nat) (s : State) : Host.Outcome State Fault Refusal :=
  .next (match s.win? k w with
    | none => s
    | some v =>
      if ¬ s.openTo k ∨ v.free = 0 ∨ v.frow ≠ 0 ∨ v.ring = 0 then s
      else
        match s.ringPieces k v .rd (v.placeAt v.rhead.toNat 0) v.placeBytes with
        | .error t => t
        | .ok ps =>
          let rows := imageRows v.rowBytes v.rpe (ps.flatMap fun p => s.mem.readN p.1 p.2.2)
          let s := s.countPieces (k / 256) ps
          let first := rows.headD Row.zero
          (s.fillWin k w (v.stampAt (ringKey v.rhead)) fun v =>
            if first.tag = .mark then v.putMarker first.data.toNat else rows.foldl (fun v r => v.putRow r) v).modWin k w
            fun v => { v with rhead := v.rhead + 1, stamps := del (ringKey v.rhead) v.stamps })

/-- CHANNEL_END_OF_STREAM (R155): the marker that the producer's end put on the link enters the window or the ring; no
marker joins an end of stream that already lies there. The filler becomes none. -/
def execChannelEndOfStream (k w : Nat) (s : State) : Host.Outcome State Fault Refusal :=
  .next (s.eosOnce k w)

/-- The channels that strand k feeds get an end-of-stream marker on their links, after its last fill; fills it has not
applied are dropped with its block (R155). -/
def State.endChannels (s : State) (k : Nat) : State :=
  match s.strand? k with
  | none => s
  | some x => x.chans.foldl (fun s c => s.modWin c.2.1 c.2.2 fun v =>
      { v with link := (v.link.filter fun f => f.k != k) ++
          [{ k := k, hand := false, copy := 0, slot := eosSlot, row := v.markerRow 0x01, marker := true, fits := true,
             stamp := x.stamp }] }) s

/-- Fills of strand k that lie on links are given up with its suspended block (R119, R272). -/
def State.purgeFills (s : State) (k : Nat) : State :=
  match s.strand? k with
  | none => s
  | some x => x.chans.foldl (fun s c => s.modWin c.2.1 c.2.2 fun v =>
      { v with link := v.link.filter fun f => f.k != k || f.slot == eosSlot }) s

end Sys2Proof.Machine
end

