-- ==== Sys2Proof/Machine/Home.lean ====
section
/-! DEFINITION. Machine/Home.lean: generic accesses on their way: issue, translation walks (R304, R305), what homes do
(R61 to R64, R69, R84, R88, R250, R251), responses and acknowledgements. -/

namespace Sys2Proof.Machine

open Sys2Proof

/-! ### Issue -/

/-- The tile whose translation cache a node uses (R304): the lead tile for a control block. -/
def Strand.nodeTile (x : Strand) (copy slot : Nat) : Nat :=
  match x.run with
  | some r => if r.blk.isFabric then r.blk.tileOf x.region copy slot else x.lead
  | none => x.lead

/-- Whether a leaf admits an access (R79, R250). -/
def State.admits (s : State) (l : Leaf) (op : AccOp) : Bool :=
  match op with
  | .load => s.leafOk l .rd
  | .store _ => s.leafOk l .wr
  | .amog _ _ _ => s.leafOk l .wr
  | _ => s.leafOk l .mona

/-- The operation at the home. -/
def AccOp.homeOp (op : AccOp) (pa w : Nat) : HomeOp :=
  match op with
  | .load => .read pa w
  | .store bs => .write pa bs
  | .amog o r t => .amog o pa w r t
  | .mona => .mona pa w
  | .lockAcq t => .lockAcq pa t
  | .lockRel => .lockRel pa
  | .push v t => .push pa v t
  | .pop t => .pop pa t

/-- Counted as reads (R58). -/
def AccOp.reads : AccOp → Bool
  | .store _ => false
  | _ => true

/-- Counted as stores (R58). -/
def AccOp.stores : AccOp → Bool
  | .load | .mona => false
  | _ => true

/-- The access of firing f is issued towards its home (R58, R61, R63): the strand's stamp covers a write of its own. -/
def State.sendAccess (s : State) (x : Strand) (f : Firing) (a : Access) (l : Leaf) : State :=
  let d := x.die
  let h := homeDie d l.place l.pa
  let n := linesOf l.pa a.w
  let (num, s) := s.send d h x.stamp (a.op.homeOp (s.backing l.pa) a.w) f.req
  let s := if a.op.reads then s.modDie d fun y => y.countReads (h == d % 4) n else s
  let s := if a.op.stores then s.modDie d fun y => y.countStores n else s
  if (a.op.homeOp (s.backing l.pa) a.w).isWrite then s.modStrand f.k fun x => { x with stamp := x.stamp.raise d num } else s

/-- An access of the firing under way: issued where its tile's cache translates it, else it waits for a walk. -/
def State.access (s : State) (a : Access) : Try :=
  match s.strand? s.fire.k with
  | none => .stay s
  | some x =>
    let tile := x.nodeTile s.fire.copy s.fire.slot
    match (s.die x.die).cached? tile x.ctx a.va with
    | some l =>
      if ¬ s.admits l a.op then .fault s 0x06 a.va
      else .wait (s.sendAccess x s.fire a l) .memory (some a) []
    | none =>
      .wait (s.modDie x.die fun y => y.askWalk
        { ctx := x.ctx, page := a.va / 2 ^ 14,
          acc := (if a.op.reads then 1 else 0) + (if a.op.stores then 2 else 0), tile := tile, prio := x.eff, seq := none,
          declined := false, who := [s.fire.req], stamp := x.stamp }) (.xlat (a.va / 2 ^ 14)) (some a) []

/-! ### Operations in flight -/

/-- The block of a strand that holds an operation in flight: the running one, or the suspended one while its handler runs
(R116); of handler mode or not, as the firing was. -/
def State.modHeld (s : State) (k : Nat) (hand : Bool) (copy slot iter : Nat) (f : Run → Run) : State :=
  let has := fun (r : Run) => r.hand == hand && (r.node? copy slot).any fun n => n.pend.any fun p => p.fire.iter == iter
  s.modStrand k fun x =>
    if x.run.any has then { x with run := x.run.map f }
    else if x.susp.any has then { x with susp := x.susp.map f }
    else x

/-- The operation in flight of a node's iteration, in the running or the suspended block, with its instruction. -/
def State.held? (s : State) (k : Nat) (hand : Bool) (copy slot iter : Nat) : Option (Strand × Run × Instr × Pend) :=
  match s.strand? k with
  | none => none
  | some x => [x.run, x.susp].findSome? fun o => o.bind fun r =>
      if r.hand != hand then none
      else match r.node? copy slot, r.blk.instr? slot with
      | some n, some i => (n.pend.find? fun p => p.fire.iter == iter).map fun p => (x, r, i, p)
      | _, _ => none

/-- The operation in flight at a slot of a control block that waits in a way that `f` picks. -/
def State.waiting? (s : State) (k slot : Nat) (f : Why → Bool) : Option (Strand × Run × Instr × Pend) :=
  match s.strand? k with
  | none => none
  | some x => [x.run, x.susp].findSome? fun o => o.bind fun r =>
      match r.node? 0 slot, r.blk.instr? slot with
      | some n, some i => (n.pend.find? fun p => f p.why).map fun p => (x, r, i, p)
      | _, _ => none

/-- An operation in flight changed. -/
def State.modPend (s : State) (p : Pend) (f : Pend → Pend) : State :=
  s.modHeld p.fire.k p.fire.hand p.fire.copy p.fire.slot p.fire.iter fun r => r.modNode p.fire.copy p.fire.slot fun n =>
    { n with pend := n.pend.map fun q => if q.fire.iter = p.fire.iter then f q else q }

/-- A fence's condition (R85, R65): the earlier members of its copy's sequence it waits for are done. -/
def Run.fenceDone (r : Run) (f : Firing) (x : FenceK) (sc : Scope) : Bool :=
  r.nodes.all fun m =>
    if m.copy != f.copy then true
    else
      match r.blk.instr? m.slot with
      | none => true
      | some i =>
        !isMember i || m.pend.all fun p =>
          !earlier p.fire.iter m.slot f.iter f.slot || !p.isAccess ||
            (match i with
             | .stg .. | .stgv .. | .rel .. =>
               x == .acq || ((sc == .tile || sc == .region || sc == .die) && p.why == .memory)
             | _ => x == .rel && (sc == .tile || sc == .region || sc == .die) && p.why == .memory)

/-- Fences of a run whose condition has come are settled (R85). -/
def Run.settleFences (r : Run) : Run :=
  r.nodes.foldl (fun r m =>
    match r.blk.instr? m.slot with
    | some (.fence _ x sc a) =>
      m.pend.foldl (fun r p =>
        if p.why = .order ∧ r.fenceDone p.fire x sc then
          r.settle p.fire a .none (some (.tok (Tok.done p.fire.its))) none
        else r) r
    | _ => r) r

/-- An operation in flight is settled with its items; fences that waited for it go on. -/
def State.settleHeld (s : State) (p : Pend) (a b : Tgt) (x y : Option Item) : State :=
  (s.endWait p).modHeld p.fire.k p.fire.hand p.fire.copy p.fire.slot p.fire.iter fun r => (r.settle p.fire a b x y).settleFences

/-- It is settled with a fault (R79): memory nodes are sinks (R143). -/
def State.failHeld (s : State) (p : Pend) (a b : Tgt) (cause extra : Nat) : State :=
  let o := match s.held? p.fire.k p.fire.hand p.fire.copy p.fire.slot p.fire.iter with
    | some (x, r, _, _) => r.origin p.fire.k x.region p.fire.copy p.fire.slot p.fire.iter
    | none => 0
  let t : Trap := { cause := cause, origin := o, extra := extra, atExit := false }
  let s := s.modHeld p.fire.k p.fire.hand p.fire.copy p.fire.slot p.fire.iter fun r => { r with traps := r.traps ++ [t] }
  let q := Tok.poisonOf cause o p.fire.marks
  s.settleHeld p a b (some (.tok q)) (some (.tok q))

/-- The items that an access's result gives to targets A and B (R83, R84, R88, R263): what memory gives carries no marker
bits; a completion token carries the iteration's (R62). -/
def Access.items (a : Access) (f : Firing) (bs : List Byte) : Option Item × Option Item :=
  match a.op with
  | .load =>
    if a.vec then
      (some (.tok { tag := a.tag, scalar := false, data := BitVec.ofNat 1024 (leNat bs), side := 0, mark := 0 }), none)
    else (some (.tok (Tok.scalarOf a.tag (leNat bs) 0)), none)
  | .amog _ _ _ | .mona => (some (.tok (Tok.scalarOf a.tag (leNat (bs.take a.w)) 0)), none)
  | .store _ => (some (.tok (Tok.done f.its)), none)
  | .pop _ => (some (.tok (Tok.i64 (leNat (bs.take 8)) f.marks)), some (.tok (Tok.i64 (leNat (bs.drop 8)) f.marks)))
  | _ => (some (.tok (Tok.i64 (leNat (bs.take 8)) f.marks)), none)

/-- The kind of log record of a read's outcome (R335), or none: AMOG, locks and queues are logged at the home. -/
def Access.logKind (a : Access) (far : Bool) : Option Nat :=
  match a.op with
  | .load | .mona => if far then some (if a.vec then 2 else 1) else none
  | _ => none

/-- Payload of a logged read: the value, or for a vector eight unused bytes and the data (R335). -/
def logPayload (vec : Bool) (bs : List Byte) : List Byte :=
  if vec then leBytes 8 0 ++ bs else leBytes 8 (leNat bs)

/-- The read bytes of a log payload. -/
def logBytes (vec : Bool) (w : Nat) (bs : List Byte) : List Byte := ((if vec then bs.drop 8 else bs).take w)

/-- An access's result reaches its node: logged or replayed where R335 asks for it, else settled; with the log full the
operation waits (R335, R337). -/
def State.result (s : State) (i : Instr) (p : Pend) (a : Access) (far : Bool) (bs : List Byte) : State :=
  let fin := fun (s : State) (bs : List Byte) =>
    let (x, y) := a.items p.fire bs
    s.settleHeld p (tgtA i) (tgtB i) x y
  match a.logKind (far || s.logsLocal p.fire.k) with
  | none => fin s bs
  | some kind =>
    if s.logs p.fire.k then
      match s.outcome p.fire.k kind (logPayload a.vec bs) with
      | some (out, s) => fin s (logBytes a.vec a.w out)
      | none => s.modPend p fun q => { q with why := .log, prog := (if far then 1 else 0) :: bs.map (·.toNat) }
    else fin s bs

/-- LOG_ROOM_RESUME (R335): a node whose outcome waits for room in the log, or for its record in replay. -/
def execLogRoomResume (k copy slot : Nat) (s : State) : Host.Outcome State Fault Refusal :=
  .next (match s.strand? k with
    | none => s
    | some x =>
      match (x.run.bind fun r => r.node? copy slot), (x.run.bind fun r => r.blk.instr? slot) with
      | some n, some i =>
        match n.pend.find? fun p => p.why == .log with
        | some p => match p.acc with
          | some a => s.result i p a (p.prog.headD 0 == 1) ((p.prog.drop 1).map (BitVec.ofNat 8))
          | none => s
        | none => s
      | _, _ => s)

/-! ### Walks -/

/-- The operations in flight that wait for a walk. -/
def State.waiters (s : State) (w : Walk) : List Pend :=
  w.who.filterMap fun r => match r with
    | .node k hand copy slot iter => match s.held? k hand copy slot iter with
      | some (_, _, _, p) => if p.why = .xlat w.page then some p else none
      | none => none
    | _ => none

/-- An operation may go on: no save holds its strand, and its block is not suspended (R272, R306). -/
def State.unsaved (s : State) (p : Pend) : Bool := (s.strand? p.fire.k).any fun x => x.opens p.fire.hand

/-- An acquire of what waits (R304): its stamp takes in what the homes know. -/
def State.acquire (s : State) (r : Req) (v : Stamp) : State :=
  match r with
  | .node k _ _ _ _ | .geode k _ | .seq k => s.modStrand k fun x => { x with stamp := x.stamp.join v }
  | .chain k ch => s.modStrand k fun x =>
      { x with copies := modAt ch (fun c => { c with stamp := c.stamp.join v }) x.copies }
  | .coll k ch => s.modStrand k fun x =>
      { x with colls := modAt ch (fun c => { c with stamp := c.stamp.join v }) x.colls }
  | .gen d tile g => s.modDie d fun y =>
      { y with streams := modAt (tile * 4 + g) (fun t => { t with stamp := t.stamp.join v }) y.streams }
  | .nobody => s

/-- Two requests come from one strand, or from one engine. -/
def Req.party (r q : Req) : Bool :=
  match r, q with
  | .node k _ _ _ _, .node j _ _ _ _ | .node k _ _ _ _, .seq j | .seq k, .node j _ _ _ _ => k == j
  | .nobody, _ => false
  | _, _ => r == q

/-- A walk's reads come after every earlier access of what waits for it (R304): none of them stands on a path, and what
their stamps cover has been applied. -/
def State.walkClear (s : State) (w : Walk) : Bool :=
  s.quiet w.stamp && (List.range 4).all fun d => (List.range 4).all fun h =>
    ((s.die d).path h).all fun m => !w.who.any fun r => r.party m.req

/-- An access whose walk found a leaf is issued at its place (R80), or fails. -/
def State.reissue (s : State) (p : Pend) (l : Leaf) : State :=
  match s.held? p.fire.k p.fire.hand p.fire.copy p.fire.slot p.fire.iter, p.acc with
  | some (x, _, i, _), some a =>
    let l := { l with pa := l.pa / 2 ^ 14 * 2 ^ 14 + a.va % 2 ^ 14 }
    let s := s.modDie x.die fun y => y.cache (x.nodeTile p.fire.copy p.fire.slot) x.ctx a.va l
    if s.admits l a.op then
      ((s.sendAccess x p.fire a l).modPend p fun q => { q with why := .memory }).modHeld p.fire.k p.fire.hand
        p.fire.copy p.fire.slot p.fire.iter Run.settleFences
    else s.failHeld p (tgtA i) (tgtB i) 0x06 a.va
  | _, _ => s

/-- An access whose page the fault service declined (R80). -/
def State.decline (s : State) (p : Pend) : State :=
  match s.held? p.fire.k p.fire.hand p.fire.copy p.fire.slot p.fire.iter, p.acc with
  | some (_, _, i, _), some a => s.failHeld p (tgtA i) (tgtB i) 0x05 a.va
  | _, _ => s

/-- A walk is declined (R80, R305, R306): an access in flight fails; in a strand that is saved, or a block that is suspended,
it fails once that goes on; what else asked, a node that makes its access in one step among it, takes the decline when it
looks again. -/
def State.declineWalk (s : State) (d : Nat) (w : Walk) : State :=
  let ps := s.waiters w
  let who := w.who.filter fun r => !ps.any fun p => p.fire.req == r
  let s := s.modDie d fun y => { y with walks := y.walks.filterMap fun v =>
    if v = w then (if who.isEmpty then none else some { w with declined := true, seq := none, who := who }) else some v }
  ps.foldl (fun s p => if s.unsaved p then s.decline p else s.modPend p fun q => { q with prog := [1] }) s

/-- A walk whose read of an entry meets an uncorrectable error (R304, R354; log 30): what waits in a node of a strand that no
save holds takes cause 0x10; what else asked looks again. -/
def State.failWalk (s : State) (d : Nat) (w : Walk) (line : Nat) : State :=
  let ps := (s.waiters w).filter s.unsaved
  let s := s.modDie d fun y => { y with walks := y.walks.erase w }
  ps.foldl (fun s p => match s.held? p.fire.k p.fire.hand p.fire.copy p.fire.slot p.fire.iter with
    | some (_, _, i, _) => s.failHeld p (tgtA i) (tgtB i) 0x10 line
    | none => s) s

/-- The record of an absent page (R305). -/
def faultRecord (w : Walk) (d seq : Nat) : List Byte :=
  leBytes 8 (w.page * 2 ^ 14) ++ leBytes 1 w.acc ++ leBytes 1 (d % 4) ++ leBytes 1 w.tile ++ leBytes 1 0
    ++ leBytes 4 seq ++ leBytes 16 0

/-- The record that stands for a page of a context (R305). -/
def State.recordOf (s : State) (c page : Nat) : Option Nat :=
  (List.range 4).findSome? fun d => ((s.die d).active.find? fun w =>
    w.ctx == c && w.page == page && w.seq.isSome).bind (·.seq)

/-- Numbers of the fault records of a context that await service. -/
def State.faultsOut (s : State) (c : Nat) : List Nat :=
  (List.range 4).flatMap fun d => ((s.die d).walks.filter fun w => w.ctx == c).filterMap (·.seq)

/-- The next record's slot in the ring holds no record that awaits service (R305). -/
def State.faultRoom (s : State) (c : Nat) (x : Ctx) : Bool :=
  (s.faultsOut c).all fun q => q % 2 ^ x.fltSize != x.fltseq % 2 ^ x.fltSize

/-- TRANSLATION_WALK (R304, R305): the j-th walk of die d. One record stands for a page, whichever dies' walks met it; a
walk whose record finds no room in the ring, or no page under it (log 22), waits. -/
def execTranslationWalk (d j : Nat) (s : State) : Host.Outcome State Fault Refusal :=
  .next (match ((s.die d).active.take 32)[j]? with
    | none => s
    | some w =>
      let drop := fun (s : State) => s.modDie d fun y => { y with walks := y.walks.erase w }
      let mark := fun (s : State) (n : Nat) => s.modDie d fun y => { y with walks := y.walks.map fun v =>
        if v = w then { v with seq := some n } else v }
      match s.ctx? w.ctx with
      | none => drop s
      | some c =>
        if w.seq.isSome ∨ ¬ s.walkClear w then s
        else match s.senseWalks d w.tile w.ctx [(w.page * 2 ^ 14, 8)] with
        | (t, some line) => t.failWalk d w line
        | (s, none) =>
          match s.walk c.root (w.page * 2 ^ 14) with
          | some l =>
            let v := s.depAll
            ((s.waiters w).filter s.unsaved).foldl (fun s p => s.reissue p l)
              (w.who.foldl (fun s r => s.acquire r v) (drop s))
          | none =>
            let n := c.fltSize
            let at_ := ringBase c.fltring + c.fltseq % 2 ^ n * 32
            if n = 0 then s.declineWalk d w
            else match s.recordOf w.ctx w.page with
              | some q => mark s q
              | none =>
                if ¬ s.faultRoom w.ctx c then s
                else match s.translate w.ctx d at_ .wr with
                  | .ok _ _ =>
                    (mark (s.vpoke w.ctx d at_ (faultRecord w d c.fltseq)) c.fltseq).modCtx w.ctx fun c =>
                      { c with fltseq := c.fltseq + 1 }
                  | _ => s)

/-- A walk whose record has been answered with 1: the walker walks again (R305). -/
def Walk.answered (c seq st : Nat) (w : Walk) : Walk :=
  if w.ctx = c ∧ w.seq = some seq ∧ st = 1 then { w with seq := none } else w

/-- FLTACK (R305): Jasper has written the record's status; with 1 the walker walks again, with 2 the waiting accesses are
declined. -/
def execFltack (c seq st : Nat) (s : State) : Host.Outcome State Fault Refusal :=
  .next (match s.ctx? c with
    | none => s
    | some x =>
      let n := x.fltSize
      let s := s.vpoke c 0 (ringBase x.fltring + seq % 2 ^ n * 32 + 16) (leBytes 1 st)
      let s := s.modCtx c fun x => { x with fltack := BitVec.ofNat 64 (seq % 2 ^ 32) }
      if st = 2 then
        (List.range 4).foldl (fun s d => ((s.die d).walks.filter fun w => w.ctx == c && w.seq == some seq).foldl
          (fun s w => s.declineWalk d w) s) s
      else { s with dies := s.dies.map fun (y : Die) => { y with walks := y.walks.map (Walk.answered c seq st) } })

/-! ### Homes -/

/-- The home has applied every write of the other dies that a message's stamp covers and that is addressed to it (R63): it
has received from each of them a write, or a beat, numbered at least so high, and none that it has still to apply is
numbered as low. -/
def State.covered (s : State) (src dst : Nat) (m : Msg) : Bool :=
  (List.range 4).all fun e => e == src % 4 ||
    let n := m.stamp.at e
    let ws := ((s.die e).flying dst).filter fun w => w.op.isWrite
    ws.all (fun w => decide (n < w.num)) && (decide (n ≤ (s.die dst).recv.at e) || !ws.isEmpty)

/-- The head of a path taken off. -/
def State.popPath (s : State) (src dst : Nat) : State :=
  s.modDie src fun y => y.setPath dst ((y.path dst).drop 1)

/-- A response put on its way to die d. -/
def State.respond (s : State) (d dst : Nat) (req : Req) (bs : List Byte) (bad : Nat) : State :=
  let v := (s.die dst).dep
  s.modDie d fun y => { y with resps := y.resps ++ [{ req := req, bytes := bs, vec := v, home := dst, bad := bad }] }

/-- A read at the home meets an armed DRAM error (R354): armed DRAM errors are kept on die 0. -/
def State.senseDram (s : State) (dst pa n tile ctx : Nat) : State × Bool :=
  s.sense 0 3 (fun l => pa / 64 ≤ l / 64 && l / 64 ≤ (pa + n - 1) / 64) dst (pa / 64 * 64) tile ctx

/-- Who made an access, for the error log (R350): its node's tile with the die, and its context. -/
def State.asker (s : State) (req : Req) : Nat × Nat :=
  let k := req.strand
  let ctx := ((s.strand? k).map fun x => x.ctx).getD 0xFF
  match req with
  | .node k hand copy slot iter => match s.held? k hand copy slot iter with
    | some (x, r, _, _) => ((if r.blk.isFabric then r.blk.tileOf x.region copy slot else x.lead) + 256 * (k / 256 % 4), ctx)
    | none => (k % 1024, ctx)
  | .chain k _ | .coll k _ | .geode k _ | .seq k => (k % 1024, ctx)
  | .gen d tile g =>
    (tile + 256 * (d % 4), match (look (tile * 4 + g) (s.die d).streams).bind fun t => s.strand? t.k with
      | some x => x.ctx
      | none => 0xFF)
  | .nobody => (0, 0xFF)

/-- Strand k's monitor dropped on every die (R88). -/
def State.disarm (s : State) (k : Nat) : State :=
  { s with dies := s.dies.map fun (y : Die) => { y with monitors := del k y.monitors } }

/-- Whether a range of physical addresses meets the bytes of an enabled spill ring (R156). -/
def State.inRing (s : State) (pa n : Nat) : Bool :=
  s.strands.any fun e => e.2.wins.any fun v => v.2.spill &&
    let lo := v.2.rbase.toNat
    let hi := lo + 2 ^ v.2.rsize.toNat * v.2.placeBytes
    (List.range ((hi - lo) / 2 ^ 14 + 2)).any fun i =>
      let a := max lo ((lo / 2 ^ 14 + i) * 2 ^ 14)
      let b := min hi ((lo / 2 ^ 14 + i + 1) * 2 ^ 14)
      match s.translate e.2.ctx e.2.die a .rd with
      | .ok p _ => decide (a < b) && decide (pa < p + (b - a)) && decide (p < pa + n)
      | _ => false

/-- What a load at its home gives (R61): the bytes there, and free bytes of an enabled spill ring (R156; log 8). -/
def State.loadAt (s : State) (pa n : Nat) : List Byte × State :=
  if s.inRing pa n then s.freeBytes n else (s.mem.readN pa n, s)

/-- READ_SERVE (R63, R88): the read or MONA at the head of a path is served once its stamp is covered. -/
def execReadServe (src dst : Nat) (s : State) : Host.Outcome State Fault Refusal :=
  .next (match (s.die src).path dst with
    | [] => s
    | m :: _ =>
      if ¬ s.covered src dst m then s
      else
        let (tile, ctx) := s.asker m.req
        match m.op with
        | .read pa n =>
          match s.senseDram dst pa n tile ctx with
          | (t, true) => (t.popPath src dst).respond src dst m.req (leBytes 8 (pa / 64 * 64)) 0x10
          | (t, false) =>
            let (bs, t) := t.loadAt pa n
            (t.popPath src dst).respond src dst m.req bs 0
        | .mona pa n =>
          match m.req, s.senseDram dst pa n tile ctx with
          | .node _ _ _ _ _, (t, true) => (t.popPath src dst).respond src dst m.req (leBytes 8 (pa / 64 * 64)) 0x10
          | .node k _ _ _ _, (t, false) =>
            let t := (t.disarm k).modDie dst fun y => { y with monitors := put k (pa / 64, false) y.monitors }
            let t := t.modStrand k fun x => { x with wake := false }
            (t.popPath src dst).respond src dst m.req (t.mem.readN pa n) 0
          | _, _ => s.popPath src dst
        | _ => s)

/-- The value AMOG writes (R84). -/
def amoNew (op : AmoOp) (w old r t : Nat) : Nat :=
  match op with
  | .add => (old + r) % 2 ^ (8 * w)
  | .swap => r % 2 ^ (8 * w)
  | .cas => if old % 2 ^ (8 * w) = t % 2 ^ (8 * w) then r % 2 ^ (8 * w) else old
  | .max => if signed (8 * w) old < signed (8 * w) r then r % 2 ^ (8 * w) else old

/-- A lock word (R250). -/
def lockWord (owner grants : Nat) (held : Bool) : Nat :=
  owner % 2 ^ 16 + grants % 2 ^ 32 * 2 ^ 16 + if held then 2 ^ 63 else 0

/-- A grant to a requester (R250, R335, R337): the word written and the response on its way; none where the log has no
room or replay grants another first. -/
def State.grant (s : State) (dst pa : Nat) (req : Req) : Option State :=
  let k := req.strand
  let g := (bits (s.mem.readNat pa 8) 47 16 + 1) % 2 ^ 32
  match s.outcome k 5 (leBytes 8 g) with
  | none => none
  | some (bs, t) =>
    if leNat (bs.take 8) = g then
      some ((t.poke pa (leBytes 8 (lockWord (strandId k) g true))).respond (k / 256) dst req (leBytes 8 g) 0)
    else none

/-- A waiter joins a list at the home, and its node waits for the object (R250, R251). -/
def State.joinWaiters (s : State) (req : Req) (why : Why) : State :=
  match req with
  | .node k hand copy slot iter =>
    match s.held? k hand copy slot iter with
    | some (_, _, _, p) => (s.endWait p).modPend p fun q => { q with why := why, reg := false }
    | none => s
  | _ => s

/-- Whether the node that sent a lock or queue request still waits for it. -/
def State.stands (s : State) (req : Req) : Bool :=
  match req with
  | .node k hand copy slot iter => (s.held? k hand copy slot iter).isSome
  | _ => false

/-- Of the waiters of a free lock the one that gets it, with the state: the oldest, or in replay the first whose turn in the
log it is (R250, R337). -/
def State.grantFirst (s : State) (dst pa : Nat) (rs : List Req) : Option (Req × State) :=
  let try_ := fun (r : Req) => (s.grant dst pa r).map fun t => (r, t)
  match rs with
  | [] => none
  | r :: _ => if ((s.strand? r.strand).bind fun x => s.ctx? x.ctx).any (·.playing) then rs.findSome? try_ else try_ r

/-- A waiter of a lock gone from its list. -/
def State.dropLock (s : State) (dst pa : Nat) (r : Req) : State :=
  s.modDie dst fun y =>
    let l := ((look pa y.locks).getD []).erase r
    { y with locks := if l.isEmpty then del pa y.locks else put pa l y.locks }

/-- LKACQ at the home (R250, R263): a grant that the log has no room for waits, and registers no entry (R335). -/
def State.lockAcq (s : State) (dst pa : Nat) (test : Bool) (req : Req) : Option State :=
  let v := s.mem.readNat pa 8
  let k := req.strand
  let queue := fun (s : State) (why : Why) => (s.modDie dst fun y =>
    { y with locks := put pa ((look pa y.locks).getD [] ++ [req]) y.locks }).joinWaiters req why
  let failT := fun (s : State) => (s.outcome k 7 (leBytes 8 0)).map fun o =>
    o.2.respond (k / 256) dst req (leBytes 8 (2 ^ 63 + bits v 47 16)) 0
  let logged7 := ((s.strand? k).bind fun x => s.ctx? x.ctx).any (·.playing) && (s.nextRecord k).any fun r => r.1 == 7
  if test ∧ (bit v 63 ∨ logged7) then
    if bits v 15 0 = strandId k ∧ ¬ logged7 then some (queue s (.lock pa)) else failT s
  else if bit v 63 ∨ ¬ ((look pa (s.die dst).locks).getD []).isEmpty then some (queue s (.lock pa))
  else match s.grant dst pa req with
    | some t => some t
    | none => some (queue s (.logged pa))

/-- LKREL at the home (R250, R263): the oldest waiter gets the lock, else it is free. -/
def State.lockRel (s : State) (dst pa : Nat) (req : Req) : State :=
  let v := s.mem.readNat pa 8
  let k := req.strand
  if ¬ bit v 63 ∨ bits v 15 0 ≠ strandId k then s.respond (k / 256) dst req (leBytes 8 1) 0
  else
    let free := s.poke pa (leBytes 8 (lockWord 0 (bits v 47 16) false))
    let t := match free.grantFirst dst pa ((look pa (s.die dst).locks).getD []) with
      | some (r, t) => t.dropLock dst pa r
      | none => free
    t.respond (k / 256) dst req (leBytes 8 0) 0

/-- The bytes at an address that a lock or queue operation reads meet an uncorrectable error (R79, R354): it answers with
cause 0x10. -/
def State.readOr (s : State) (dst pa n : Nat) (req : Req) (f : State → Option State) : Option State :=
  let (tile, ctx) := s.asker req
  match s.senseDram dst pa n tile ctx with
  | (u, true) => some (u.respond (req.strand / 256) dst req (leBytes 8 (pa / 64 * 64)) 0x10)
  | (u, false) => f u

/-- A queue descriptor (R251): ring, log2 capacity, head, tail; none where it is malformed. -/
def State.queueAt (s : State) (pa : Nat) : Option (Nat × Nat × Nat × Nat) :=
  let f := fun (o n : Nat) => s.mem.readNat (pa + o) n
  if f 0 8 % 64 = 0 ∧ f 0 8 < 2 ^ 56 ∧ f 8 1 ≤ 20 ∧ f 9 7 = 0 ∧ f 24 40 = 0 then some (f 0 8, f 8 1, f 16 4, f 20 4) else none

/-- Entries in a queue (R251). -/
def queueLen (head tail : Nat) : Nat := (BitVec.ofNat 32 tail - BitVec.ofNat 32 head).toNat

/-- An entry of a queue's ring, through the requester's page table (log 18): `f` goes on at its physical address; else the
answer is cause 0x06, or 0x10 where an entry of the page table meets an uncorrectable error (R354). -/
def State.ringEntry (s : State) (dst : Nat) (req : Req) (ring c n : Nat) (wr : Bool) (f : State → Nat → Option State) :
    Option State :=
  let k := req.strand
  let va := ring + 8 * (n % 2 ^ c)
  let refuse := fun (s : State) (c v : Nat) => some (s.respond (k / 256) dst req (leBytes 8 v) c)
  match s.strand? k with
  | none => refuse s 0x06 va
  | some x => match s.senseWalks x.die x.lead x.ctx [(va, 8)] with
    | (t, some line) => refuse t 0x10 line
    | (t, none) => match t.translate x.ctx x.die va (if wr then .wr else .rd) with
      | .ok pa _ => f t pa
      | _ => refuse t 0x06 va

/-- QPUSH performed (R251): none while full. A malformed descriptor leaves the queue undefined: nothing is written. -/
def State.pushAt (s : State) (dst pa : Nat) (v : BitVec 64) (req : Req) : Option State :=
  let k := req.strand
  let ok := fun (s : State) => s.respond (k / 256) dst req (leBytes 8 0) 0
  match s.queueAt pa with
  | none => some (ok s)
  | some (ring, c, h, t) =>
    if queueLen h t = 2 ^ c then none
    else s.ringEntry dst req ring c t true fun s e =>
      some (ok ((s.poke e (leBytes 8 v.toNat)).poke (pa + 20) (leBytes 4 (t + 1))))

/-- QPOP performed (R251, R335, R337): none while empty or while its record cannot be logged. A malformed descriptor
gives a free value (log 8). -/
def State.popAt (s : State) (dst pa : Nat) (req : Req) : Option State :=
  let k := req.strand
  let give := fun (s : State) (v : Nat) => (s.outcome k 6 (leBytes 8 v)).map fun o =>
    o.2.respond (k / 256) dst req (o.1.take 8 ++ leBytes 8 0) 0
  match s.queueAt pa with
  | none => let (v, s) := s.fresh
            give s v.toNat
  | some (ring, c, h, t) =>
    if queueLen h t = 0 then none
    else s.ringEntry dst req ring c h false fun s e => s.readOr dst e 8 req fun u =>
      give (u.poke (pa + 16) (leBytes 4 (h + 1))) (u.mem.readNat e 8)

/-- A waiter at a queue is a push. -/
def State.isPush (s : State) (req : Req) : Bool :=
  match req with
  | .node k hand copy slot iter => match s.held? k hand copy slot iter with
    | some (_, _, _, p) => match p.acc with
      | some a => match a.op with
        | .push _ _ => true
        | _ => false
      | none => false
    | none => false
  | _ => false

/-- A push or pop that arrives at the home (R251, R263): behind waiters of its own kind. A pop that only the log holds back
registers no entry (R335). -/
def State.queueOp (s : State) (dst pa : Nat) (push test : Bool) (req : Req) (f : State → Option State) : Option State :=
  let k := req.strand
  let mine := ((look pa (s.die dst).queues).getD []).filter fun r => s.isPush r == push
  let logWait := mine.isEmpty && !push && (s.queueAt pa).any fun q => queueLen q.2.2.1 q.2.2.2 != 0
  let queue := fun (s : State) => (s.modDie dst fun y =>
    { y with queues := put pa ((look pa y.queues).getD [] ++ [req]) y.queues }).joinWaiters req
      (if logWait then .logged pa else .queue pa)
  let logged7 := ((s.strand? k).bind fun x => s.ctx? x.ctx).any (·.playing) && (s.nextRecord k).any fun r => r.1 == 7
  let res := if mine.isEmpty && !(test && logged7) then f s else none
  match res with
  | some t => some t
  | none =>
    if test then (s.outcome k 7 (leBytes 8 0)).map fun o =>
      o.2.respond (k / 256) dst req (if push then leBytes 8 1 else leBytes 8 0 ++ leBytes 8 1) 0
    else some (queue s)

/-- What a write-like operation does at its home (R69, R84, R88, R250, R251); none while it cannot be performed. -/
def State.applyOp (s : State) (src dst : Nat) (m : Msg) : Option State :=
  match m.op with
  | .write pa bs =>
    let v := (s.die dst).dep
    some ((s.poke pa bs).modDie src fun y =>
      { y with acks := y.acks ++ [{ req := m.req, bytes := [], vec := v, home := dst, bad := 0 }] })
  | .amog op pa w r t =>
    let (tile, ctx) := s.asker m.req
    match s.senseDram dst pa w tile ctx with
    | (u, true) => some (u.respond src dst m.req (leBytes 8 (pa / 64 * 64)) 0x10)
    | (u, false) =>
      match u.outcome m.req.strand 3 (leBytes 8 (u.mem.readNat pa w)) with
      | none => none
      | some (bs, u) =>
        let old := leNat (bs.take w)
        some ((u.poke pa (leBytes w (amoNew op w old r t))).respond src dst m.req (leBytes w old) 0)
  | .lockAcq pa test => if s.stands m.req then s.readOr dst pa 8 m.req fun s => s.lockAcq dst pa test m.req else some s
  | .lockRel pa => s.readOr dst pa 8 m.req fun s => some (s.lockRel dst pa m.req)
  | .push pa v test =>
    if s.stands m.req then s.readOr dst pa 64 m.req fun s =>
      s.queueOp dst pa true test m.req fun s => s.pushAt dst pa v m.req
    else some s
  | .pop pa test =>
    if s.stands m.req then s.readOr dst pa 64 m.req fun s =>
      s.queueOp dst pa false test m.req fun s => s.popAt dst pa m.req
    else some s
  | _ => none

/-- WRITE_APPLY (R63): the write at the head of a path is applied once its stamp is covered; the home's received count
and dependency vector take it in, before what it answers or grants (R250). -/
def execWriteApply (src dst : Nat) (s : State) : Host.Outcome State Fault Refusal :=
  .next (match (s.die src).path dst with
    | [] => s
    | m :: _ =>
      if s.covered src dst m ∧ m.op.isWrite then
        let u := s.modDie dst fun y =>
          { y with recv := y.recv.raise src m.num, dep := (y.dep.join m.stamp).raise src m.num }
        match u.applyOp src dst m with
        | some t => t.popPath src dst
        | none => s
      else s)

/-- PROGRESS_BEAT (R63): a path with no write on it carries the die's count of writes to the home. -/
def execProgressBeat (src dst : Nat) (s : State) : Host.Outcome State Fault Refusal :=
  .next (if ((s.die src).path dst).any fun m => m.op.isWrite then s
    else s.modDie dst fun y => { y with recv := y.recv.raise src (max (y.recv.at src) (s.die src).wcount) })

/-- A wait for a lock, a queue or a monitor has become one for room in the log, or for a turn in replay: its entry goes (R335,
R337). -/
def State.toLog (s : State) (p : Pend) (pa : Nat) : State :=
  (s.endWait p).modPend p fun q => { q with why := .logged pa, reg := false }

/-- LOCK_GRANT (R250, R335, R337): the waiter of a free lock whose turn it is gets it, or its wait becomes one for the log;
the grant's response completes the LKACQ. -/
def execLockGrant (k slot : Nat) (s : State) : Host.Outcome State Fault Refusal :=
  let lockOf := fun (w : Why) => match w with
    | .lock pa | .logged pa => some pa
    | _ => none
  .next (match s.waiting? k slot fun w => (lockOf w).isSome with
    | none => s
    | some (x, _, i, p) =>
      if ¬ isLock i then s
      else match lockOf p.why with
      | some pa =>
        match (s.die x.die).resps.find? fun r => r.req == p.fire.req with
        | some r =>
          if x.opens p.fire.hand then
            let s := s.modDie x.die fun y => { y with resps := y.resps.erase r }
            let s := s.modStrand k fun x => { x with stamp := x.stamp.join r.vec }
            if r.bad ≠ 0 then s.failHeld p (tgtA i) .none r.bad (leNat r.bytes)
            else s.settleHeld p (tgtA i) .none (some (.tok (Tok.i64 (leNat r.bytes) p.fire.marks))) none
          else s
        | none =>
          match (List.range 4).find? fun d => ((look pa (s.die d).locks).getD []).contains p.fire.req with
          | none => s
          | some d =>
            let rs := (look pa (s.die d).locks).getD []
            if bit (s.mem.readNat pa 8) 63 then s
            else
              let (tile, ctx) := s.asker p.fire.req
              match s.senseDram d pa 8 tile ctx with
              | (u, true) => (u.respond (k / 256) d p.fire.req (leBytes 8 (pa / 64 * 64)) 0x10).dropLock d pa p.fire.req
              | (s, false) => match s.grantFirst d pa rs with
                | some (r, t) => if r = p.fire.req then t.dropLock d pa r else s
                | none => if rs.head? = some p.fire.req ∧ p.why = .lock pa then s.toLog p pa else s
      | none => s)

/-- QUEUE_WAITER_SERVE (R251): the first waiter of a queue that can be served, in arrival order of its kind. A pop that only
the log holds back waits for the log from then on (R335). -/
def execQueueWaiterServe (d pa : Nat) (s : State) : Host.Outcome State Fault Refusal :=
  let serve := fun (r : Req) =>
    match r with
    | .node k hand copy slot iter => match s.held? k hand copy slot iter with
      | some (_, _, _, p) => match p.acc with
        | some a => match a.op with
          | .push v _ => (s.readOr d pa 64 r fun s => s.pushAt d pa v r).map fun t => (r, t)
          | .pop _ => (s.readOr d pa 64 r fun s => s.popAt d pa r).map fun t => (r, t)
          | _ => none
        | none => none
      | none => none
    | _ => none
  let ws := (look pa (s.die d).queues).getD []
  let first := fun (push : Bool) => (ws.filter fun r => s.isPush r == push).head?
  .next (match [first true, first false].findSome? fun o => o.bind serve with
    | some (r, t) => t.modDie d fun y =>
        let l := ((look pa y.queues).getD []).erase r
        { y with queues := if l.isEmpty then del pa y.queues else put pa l y.queues }
    | none => match first false with
      | some (.node k hand copy slot iter) => match s.held? k hand copy slot iter with
        | some (_, _, _, p) =>
          if p.why = .queue pa ∧ (s.queueAt pa).any (fun q => queueLen q.2.2.1 q.2.2.2 != 0) then s.toLog p pa else s
        | none => s
      | _ => s)

/-! ### Responses and acknowledgements -/

/-- A chain's count of accesses in flight goes down by one. -/
def State.chainDone (s : State) (req : Req) : State :=
  match req with
  | .chain k ch => s.modStrand k fun x => { x with copies := modAt ch (fun c => { c with outst := c.outst - 1 }) x.copies }
  | .coll k ch => s.modStrand k fun x => { x with colls := modAt ch (fun c => { c with outst := c.outst - 1 }) x.colls }
  | _ => s

/-- READ_RESPONSE (R63): the j-th response of die d arrives; the reader's stamp takes the vector in. -/
def execReadResponse (d j : Nat) (s : State) : Host.Outcome State Fault Refusal :=
  .next (match (s.die d).resps[j]? with
    | none => s
    | some r =>
      let off := fun (s : State) => s.modDie d fun y => { y with resps := y.resps.eraseIdx j }
      match r.req with
      | .node k hand copy slot iter =>
        match s.held? k hand copy slot iter with
        | none => off s
        | some (x, _, i, p) =>
          match p.why, p.acc with
          | .lock _, _ => s
          | .logged _, some { op := .lockAcq _, .. } => s
          | _, some a =>
            if ¬ x.opens hand then s
            else
              let s := (off s).modStrand k fun x => { x with stamp := x.stamp.join r.vec }
              if r.bad ≠ 0 then s.failHeld p (tgtA i) (tgtB i) r.bad (leNat r.bytes)
              else s.result i p a (r.home % 4 != x.die % 4) r.bytes
          | _, none => off s
      | req => (off s).chainDone req)

/-- The last acknowledgement of an operation that wrote many lines completes it: a completion token, or the word that its
progress holds. -/
def bulkItem (p : Pend) : Item :=
  match p.prog with
  | [_, v] => .tok (Tok.i64 v p.fire.marks)
  | _ => .tok (Tok.done p.fire.its)

/-- WRITE_ACKNOWLEDGEMENT (R65): the j-th acknowledgement of die d arrives. -/
def execWriteAcknowledgement (d j : Nat) (s : State) : Host.Outcome State Fault Refusal :=
  .next (match (s.die d).acks[j]? with
    | none => s
    | some r =>
      let s' := s.modDie d fun y => { y with acks := y.acks.eraseIdx j }
      match r.req with
      | .node k hand copy slot iter =>
        match s.held? k hand copy slot iter with
        | none => s'
        | some (x, _, i, p) =>
          if ¬ x.opens hand then s
          else match p.acc, p.prog with
            | some a, _ =>
              let (u, v) := a.items p.fire r.bytes
              s'.settleHeld p (tgtA i) (tgtB i) u v
            | none, n :: rest =>
              if n ≤ 1 then s'.settleHeld p (tgtA i) .none (some (bulkItem p)) none
              else s'.modPend p fun q => { q with prog := (n - 1) :: rest }
            | none, [] => s'
      | req => s'.chainDone req)

/-- MWAIT. -/
def isMwait : Instr → Bool
  | .mwait _ _ => true
  | _ => false

/-- MWAIT_WAKE (R88): a waiting MWAIT returns when its monitor is set, or after a restore dropped it (R81). Where only the log
holds it back it waits for the log, and registers no entry (R335). -/
def execMwaitWake (k slot : Nat) (s : State) : Host.Outcome State Fault Refusal :=
  let lineOf := fun (w : Why) => match w with
    | .monitor pa | .logged pa => some pa
    | _ => none
  .next (match s.waiting? k slot fun w => (lineOf w).isSome with
    | none => s
    | some (x, _, i, p) =>
      match lineOf p.why with
      | some pa =>
        if ¬ isMwait i ∨ ¬ x.opens p.fire.hand then s
        else
          let set? := (List.range 4).any fun d => (look k (s.die d).monitors).any fun m => m.2
          if set? ∨ x.wake then
            match s.outcome k 4 (leBytes 8 (if x.wake then 2 else 0)) with
            | some (bs, t) =>
              let t := (t.disarm k).modStrand k fun x => { x with wake := false }
              t.settleHeld p (tgtA i) .none (some (.tok (Tok.i64 (leNat (bs.take 8)) p.fire.marks))) none
            | none => if p.why = .monitor pa then s.toLog p pa else s
          else s
      | none => s)

end Sys2Proof.Machine
end

