-- ==== Sys2Proof/Machine/Memory.lean ====
section
/-! DEFINITION. Machine/Memory.lean: group 0x8 (R60, R61, R79 to R88). -/

namespace Sys2Proof.Machine

open Sys2Proof

/-- Width in bytes of a memory tag (R82). -/
def memWidth (t : Tag) (vec : Bool) : Nat := if vec then 128 else t.width / 8

/-- A data token that the field's tag admits (R82): IDX counts as I64, and MARK is stored under none (R91). -/
def dataFits (t : Tok) (tag : Tag) : Bool :=
  t.tag == tag || (tag == .raw && t.tag != .mark) || (tag == .i64 && t.tag == .idx)

/-- The address of an access of w bytes (R79, R83): a cause with s31 where it is refused. -/
def memAddr (o : Option Tok) (w : Nat) : Except (Nat × Nat) Nat :=
  match addrOperand o with
  | .error c => .error (c, if c = 0x06 then ((o.map fun t => t.word.toNat).getD 0) else c)
  | .ok a => if a % w ≠ 0 then .error (0x08, a) else .ok a

/-- The value of a scalar data operand of w bytes (R83, R84): 0x03 for another tag or a vector. -/
def dataOperand (o : Option Tok) (tag : Tag) (w : Nat) : Except Nat Nat :=
  match o with
  | none => .error 0x03
  | some t => if t.scalar ∧ dataFits t tag then .ok (t.lane (8 * w) 0) else .error 0x03

/-- A load, or an ACQ (R83). -/
def tryLoad (tag : Tag) (vec acq : Bool) (s : State) : Try :=
  match memAddr s.fire.left (memWidth tag vec) with
  | .error (c, e) => .fault s c e
  | .ok a => s.access { va := a, w := memWidth tag vec, op := .load, tag := tag, vec := vec, acq := acq }

/-- A scalar store (R83). -/
def tryStore (tag : Tag) (s : State) : Try :=
  let w := memWidth tag false
  match memAddr s.fire.left w with
  | .error (c, e) => .fault s c e
  | .ok a => match dataOperand s.fire.right tag w with
    | .error c => .fault s c c
    | .ok v => s.access { va := a, w := w, op := .store (leBytes w v), tag := tag, vec := false, acq := false }

/-- The data of a vector store (R83): a scalar stands in every lane, IDX as the I64 that it counts as (R92). -/
def Tok.storeData (t : Tok) (tag : Tag) : BitVec 1024 :=
  if t.tag = .idx ∧ tag = .i64 then (Tok.rowData { t with tag := .i64, scalar := true }) else t.rowData

/-- A vector store (R83). -/
def tryStoreV (tag : Tag) (s : State) : Try :=
  match memAddr s.fire.left 128 with
  | .error (c, e) => .fault s c e
  | .ok a => match s.fire.right with
    | none => .fault s 0x03 0x03
    | some t =>
      if dataFits t tag then
        s.access { va := a, w := 128, op := .store (leBytes 128 (t.storeData tag).toNat), tag := tag, vec := true, acq := false }
      else .fault s 0x03 0x03

/-- AMOG (R84). -/
def tryAmog (x : AmoOp) (tag : Tag) (s : State) : Try :=
  let w := memWidth tag false
  match memAddr s.fire.left w with
  | .error (c, e) => .fault s c e
  | .ok a => match dataOperand s.fire.right tag w, (if x = .cas then dataOperand s.fire.third tag w else .ok 0) with
    | .ok r, .ok t => s.access { va := a, w := w, op := .amog x r t, tag := tag, vec := false, acq := false }
    | .error c, _ => .fault s c c
    | _, .error c => .fault s c c

/-- MONA (R88). -/
def tryMona (tag : Tag) (s : State) : Try :=
  let w := memWidth tag false
  match memAddr s.fire.left w with
  | .error (c, e) => .fault s c e
  | .ok a => s.access { va := a, w := w, op := .mona, tag := tag, vec := false, acq := false }

/-- The constant store that the running block reads (R59). -/
def State.constStore (s : State) (x : Strand) (r : Run) : KStore :=
  match look x.ctx (s.die x.die).ksegs with
  | some p => if r.kstore = 0 then p.s0 else p.s1
  | none => { bytes := [], len := 0 }

/-- LDK (R59, R79, R83). -/
def tryLdk (vec : Bool) (tag : Tag) (s : State) : Try :=
  let w := memWidth tag vec
  match memAddr s.fire.left w, s.here? with
  | .error (c, e), _ => .fault s c e
  | .ok _, none => .stay s
  | .ok a, some (x, r, _) =>
    let st := s.constStore x r
    if st.len < a + w then .fault s 0x06 a
    else
      let bs := (List.range w).map fun i => st.bytes.getD (a + i) 0
      .done s (({ va := a, w := w, op := .load, tag := tag, vec := vec, acq := false } : Access).items s.fire bs).1
        none

/-- An access outside the sequence, ordered by tokens alone (R60, R62). -/
def State.loose (s : State) (p : PMode) (need : Firing → Bool) (a : Tgt) (t : State → Try) : State :=
  s.firing p need true a .none (State.begin true a .none (t s))

/-- LDG (R83). -/
def execLdg (p : PMode) (u : Bool) (t : Tag) (a : Tgt) (s : State) : Host.Outcome State Fault Refusal :=
  .next (if u then s.loose p needL a (tryLoad t false false)
    else s.member p needL true a .none false none (tryLoad t false false))

/-- STG (R83). -/
def execStg (p : PMode) (u : Bool) (t : Tag) (a : Tgt) (s : State) : Host.Outcome State Fault Refusal :=
  .next (if u then s.loose p needLR a (tryStore t) else s.member p needLR true a .none true none (tryStore t))

/-- LDGV (R83). -/
def execLdgv (p : PMode) (u : Bool) (t : Tag) (a : Tgt) (s : State) : Host.Outcome State Fault Refusal :=
  .next (if u then s.loose p needL a (tryLoad t true false)
    else s.member p needL true a .none false none (tryLoad t true false))

/-- STGV (R83). -/
def execStgv (p : PMode) (u : Bool) (t : Tag) (a : Tgt) (s : State) : Host.Outcome State Fault Refusal :=
  .next (if u then s.loose p needLR a (tryStoreV t) else s.member p needLR true a .none true none (tryStoreV t))

/-- LDK (R83). -/
def execLdk (p : PMode) (v : Bool) (t : Tag) (a : Tgt) (s : State) : Host.Outcome State Fault Refusal :=
  .next (s.loose p needL a (tryLdk v t))

/-- PREF and PLACEQ translate (R87): `f` goes on with the leaf, or with none where the address is refused or unmapped. The
walk waits for the strand's earlier accesses and is an acquire (R304); an uncorrectable error in a page-table entry gives no
leaf (R354; log 30). -/
def State.asks (s : State) (f : State → Strand → Nat → Option Leaf → State) : State :=
  match s.here?, addrOperand s.fire.left with
  | some (x, _, _), .ok va =>
    let tile := x.nodeTile s.fire.copy s.fire.slot
    if ¬ s.quiet x.stamp then s
    else match s.senseWalks x.die tile x.ctx [(va, 1)] with
      | (t, some _) => f t x va none
      | (t, none) => f (t.sees t.fire.k t.depAll) x va ((t.ctx? x.ctx).bind fun c => t.walk c.root va)
  | some (x, _, _), .error _ => f s x 0 none
  | none, _ => s

/-- PREF (R87): the translation enters the tile's cache; whatever fault it meets is dropped. -/
def execPref (p : PMode) (a : Tgt) (s : State) : Host.Outcome State Fault Refusal :=
  .next (s.firing p needL true a .none <| s.asks fun t x va l =>
    (match l with
     | some l => t.modDie x.die fun y => y.cache (x.nodeTile t.fire.copy t.fire.slot) x.ctx va l
     | none => t).emit a .none (Tok.done t.fire.its))

/-- AMOG (R84). -/
def execAmog (p : PMode) (x : AmoOp) (d : AmoOrd) (sc : Scope) (t : Tag) (a : Tgt) (s : State) :
    Host.Outcome State Fault Refusal :=
  .next (s.member p (if x = .cas then needLRT else needLR) true a .none true
    (if d = .release ∨ d = .both then some sc else none) (tryAmog x t))

/-- FENCE (R85): done once the earlier members that its form names have been performed. -/
def execFence (p : PMode) (x : FenceK) (sc : Scope) (a : Tgt) (s : State) : Host.Outcome State Fault Refusal :=
  .next (s.member p need0 true a .none false none fun s =>
    match s.here? with
    | some (_, r, _) => if r.fenceDone s.fire x sc then Try.complete s else .wait s .order none []
    | none => .stay s)

/-- ACQ (R83): later accesses wait until it returns. -/
def execAcq (p : PMode) (_sc : Scope) (t : Tag) (a : Tgt) (s : State) : Host.Outcome State Fault Refusal :=
  .next (s.member p needL true a .none false none (tryLoad t false true))

/-- REL (R65, R83). -/
def execRel (p : PMode) (sc : Scope) (t : Tag) (a : Tgt) (s : State) : Host.Outcome State Fault Refusal :=
  .next (s.member p needLR true a .none true (some sc) (tryStore t))

/-- CTOK (R86): its completion token carries the left operand's markers. -/
def execCtok (p : PMode) (a b : Tgt) (s : State) : Host.Outcome State Fault Refusal :=
  .next (s.firing p needLR true a b (s.emit a b (Tok.done s.fire.marks)))

/-- MSEQ (R86). -/
def execMseq (p : PMode) (a b : Tgt) (s : State) : Host.Outcome State Fault Refusal :=
  .next (s.member p needL true a b false none Try.complete)

/-- The word of PLACEQ for a leaf seen from die d (R87). -/
def placeWord (d : Nat) (l : Leaf) : Nat :=
  let h := homeDie d l.place l.pa
  2 ^ 63 + l.place + (if l.place = 7 then 0 else h * 2 ^ 4 + if h = d % 4 then 2 ^ 6 else 0) + l.size * 2 ^ 8

/-- PLACEQ (R87). -/
def execPlaceq (p : PMode) (a : Tgt) (s : State) : Host.Outcome State Fault Refusal :=
  .next (s.firing p needL true a .none <| s.asks fun t x _ l =>
    t.emit a .none (Tok.i64 (l.elim 0 (placeWord (x.die % 4))) t.fire.marks))

/-- MONA (R88). -/
def execMona (p : PMode) (t : Tag) (a : Tgt) (s : State) : Host.Outcome State Fault Refusal :=
  .next (s.member p needL true a .none false none (tryMona t))

/-- The strand's armed monitor, on whichever die hosts it (R88). -/
def State.monitor? (s : State) (k : Nat) : Option (Nat × Bool) :=
  (List.range 4).findSome? fun d => look k (s.die d).monitors

/-- A MONA of the block has been issued and has not returned. -/
def Run.arming (r : Run) : Bool :=
  r.nodes.any fun n => n.pend.any fun p => p.acc.any fun a => a.op == .mona

/-- MWAIT (R81, R88, R335, R337). -/
def tryMwait (s : State) : Try :=
  match s.here? with
  | none => .stay s
  | some (x, r, _) =>
    let answer := fun (v : Nat) =>
      match s.outcome s.fire.k 4 (leBytes 8 v) with
      | some (bs, t) => Try.tok ((t.disarm s.fire.k).modStrand s.fire.k fun x => { x with wake := false })
          (Tok.i64 (leNat (bs.take 8)) s.fire.marks)
      | none => .stay s
    if (s.ctx? x.ctx).any fun c => c.playing then answer 0
    else if r.arming then .stay s
    else match s.monitor? s.fire.k with
      | some (line, false) => .wait s (.monitor (line * 64)) none []
      | some (_, true) => answer 0
      | none => answer (if x.wake then 2 else 1)

/-- MWAIT (R88). -/
def execMwait (p : PMode) (a : Tgt) (s : State) : Host.Outcome State Fault Refusal :=
  .next (s.member p need0 true a .none false none tryMwait)

end Sys2Proof.Machine
end

