-- ==== Sys2Proof/Machine/Tasks.lean ====
section
/-! DEFINITION. Machine/Tasks.lean: tasks, gangs, locks, hardware queues, software waits and priority: group 0xC
(R241 to R251, R261 to R265), and the events TASK_WINDOW_READY, TASK_TAKE and GANG_PHASE_RELEASE. -/

namespace Sys2Proof.Machine

open Sys2Proof

/-! ### The task store -/

/-- A task handle (R242). -/
def taskHandle (d e : Nat) (gen : BitVec 32) : Nat := 2 ^ 63 + gen.toNat * 2 ^ 16 + d % 4 * 2 ^ 13 + e % 2 ^ 13

/-- Die and store entry of a handle (R242). -/
def handleSlot (h : Nat) : Nat × Nat := (bits h 14 13, bits h 12 0)

/-- The live task that a handle names; none where it is stale (R242). -/
def State.task? (s : State) (h : Nat) : Option Task :=
  let (d, e) := handleSlot h
  match look e (s.die d).store with
  | some t => if taskHandle d e ((look e (s.die d).gens).getD 0) = h then some t else none
  | none => none

/-- A live task changed. -/
def State.modTask (s : State) (h : Nat) (f : Task → Task) : State :=
  match s.task? h with
  | none => s
  | some _ => s.modDie (handleSlot h).1 fun y => { y with store := modAt (handleSlot h).2 f y.store }

/-- A handle well formed for a context (R262). -/
def State.handleOk (s : State) (ctx h : Nat) : Bool :=
  bit h 63 && !bit h 15 && bits h 62 48 == 0 && (s.task? h).all fun t => t.ctx == ctx

/-- A window operand word (R241): zero, or within its limits. -/
def winOperandOk (v : Nat) : Bool := v == 0 || (bits v 31 17 == 0 && bits v 63 48 == 0 && bits v 47 32 != 0)

/-- The task that a 64-byte record describes, or none where it is malformed (R241). -/
def taskOf (ctx : Nat) (range : Bool) (bs : List Byte) : Option Task :=
  let f := fun (o n : Nat) => leNat ((bs.drop o).take n)
  let lo := signed 64 (f 16 8)
  let hi := signed 64 (f 24 8)
  if f 56 1 = (if range then 1 else 0) ∧ f 57 1 ≤ 7 ∧ f 59 5 = 0
      ∧ (if range then lo < hi ∧ 1 ≤ f 32 8 ∧ f 32 8 ≤ 2 ^ 62 ∧ f 40 16 = 0 ∧ f 58 1 = 0
         else f 24 16 = 0 ∧ winOperandOk (f 40 8) ∧ winOperandOk (f 48 8) ∧ f 58 1 ≤ 1) then
    some { ctx := ctx, range := range, entry := BitVec.ofNat 64 (f 0 8), arg := BitVec.ofNat 64 (f 8 8),
           a2 := BitVec.ofNat 64 (f 16 8), grain := f 32 8, win0 := BitVec.ofNat 64 (f 40 8),
           win1 := BitVec.ofNat 64 (f 48 8), prio := f 57 1,
           state := if range then .ready else if f 58 1 = 1 then .held else .pending, preds := 0, succs := [],
           live := 1, failed := false, stamp := Stamp.zero }
  else none

/-- The window of a context with an identity, under whichever strand's directory (R204). -/
def State.winById? (s : State) (ctx ident : Nat) : Option (Nat × Nat × Win) :=
  s.strands.findSome? fun (k, x) =>
    if x.ctx = ctx ∧ k / 256 % 4 = bits ident 1 0 then
      (x.wins.find? fun e => e.2.tile == bits ident 9 2 && e.2.index == bits ident 15 10).map fun e => (k, e.1, e.2)
    else none

/-- A window operand's condition holds (R241). -/
def State.winReady (s : State) (ctx : Nat) (v : BitVec 64) : Bool :=
  v == 0 || match s.winById? ctx (bits v.toNat 15 0) with
    | some (_, _, w) => decide (bits v.toNat 47 32 ≤ if bit v.toNat 16 then w.free else w.extent)
    | none => false

/-- A pending task may become ready (R243). -/
def State.matures (s : State) (t : Task) : Bool :=
  t.state == .pending && t.preds == 0 && s.winReady t.ctx t.win0 && s.winReady t.ctx t.win1

/-- The whole of a task as one piece (R246). -/
def Task.piece (t : Task) (h : Nat) : Piece :=
  { handle := h, lo := if t.range then signed 64 t.a2.toNat else 0, hi := 0 }

/-- A pending task whose conditions hold enters the central pool of its store's die (R243, R244). -/
def State.mature (s : State) (h : Nat) : State :=
  match s.task? h with
  | none => s
  | some t =>
    if s.matures t then
      (s.modTask h fun t => { t with state := .ready }).modDie (handleSlot h).1 fun y =>
        { y with pool := y.pool ++ [t.piece h] }
    else s

/-- The lowest entry of a die's task store that holds no task (R242). -/
def Die.freeTask (y : Die) : Option Nat := freeKey 8192 y.store

/-- A task allocated in a die's store (R242): its handle, or none where the store is full. -/
def State.allocTask (s : State) (d : Nat) (t : Task) : Option (Nat × State) :=
  match (s.die d).freeTask with
  | none => none
  | some e => some (taskHandle d e ((look e (s.die d).gens).getD 0),
      s.modDie d fun y => { y with store := put e t y.store })

/-- A new task placed (R243, R244): ready at spawn at the bottom of the issuer's deque, or, under `.C` or with the deque
full, in the central pool; behind a full pool it waits in order (log 27). -/
def State.placeTask (s : State) (k h : Nat) (p : Piece) (pool : Bool) : State :=
  match s.task? h, s.strand? k with
  | some t, some x =>
    if t.range ∨ s.matures t then
      let s := s.modTask h fun t => { t with state := .ready }
      if pool ∨ 64 ≤ x.deque.length then s.modDie (k / 256) fun y => { y with pool := y.pool ++ [p] }
      else s.modStrand k fun x => { x with deque := x.deque ++ [p] }
    else s
  | _, _ => s

/-- TSPAWN and TRANGE (R241, R262). A malformed record spawns nothing and gives handle 0; s31 of its trap is stated by
no rule (log 8). -/
def trySpawn (range pool : Bool) (s : State) : Try :=
  match memAddr s.fire.left 64, s.strand? s.fire.k with
  | .error (c, e), _ => .fault s c e
  | .ok _, none => .stay s
  | .ok a, some x =>
    match s.dread x.ctx x.die ⟨x.lead, s.fire.req⟩ x.stamp .rd true a 64 with
    | .wait u => .stay u
    | .fail u c va => .fault u c va
    | .ok (bs, st, u) =>
      let u := u.modStrand s.fire.k fun x => { x with stamp := st }
      match taskOf x.ctx range bs with
      | none =>
        let (v, u) := u.fresh
        Try.tok (u.addTrap s.fire.k { cause := 0x0D, origin := s.origin, extra := v.toNat, atExit := false })
          (Tok.i64 0 s.fire.marks)
      | some t =>
        match u.allocTask x.die { t with stamp := st } with
        | none => Try.tok u (Tok.i64 0 s.fire.marks)
        | some (h, u) =>
          let p : Piece := if range then { handle := h, lo := signed 64 t.a2.toNat,
                                           hi := signed 64 (leNat ((bs.drop 24).take 8)) } else t.piece h
          Try.tok (u.placeTask s.fire.k h p pool) (Tok.i64 h s.fire.marks)

/-- TSPAWN (R262). -/
def execTspawn (p : PMode) (c : Bool) (a : Tgt) (s : State) : Host.Outcome State Fault Refusal :=
  .next (s.member p needL true a .none false (some .package) (trySpawn false c))

/-- TRANGE (R262). -/
def execTrange (p : PMode) (c : Bool) (a : Tgt) (s : State) : Host.Outcome State Fault Refusal :=
  .next (s.member p needL true a .none false (some .package) (trySpawn true c))

/-! ### Taking a task -/

/-- A piece belongs to a context. -/
def State.pieceOf (s : State) (ctx : Nat) (p : Piece) : Bool := (s.task? p.handle).any fun t => t.ctx == ctx

/-- Priority of a piece's task. -/
def State.piecePrio (s : State) (p : Piece) : Nat := ((s.task? p.handle).map fun t => t.prio).getD 0

/-- Pieces of a die's pool that a context may take, highest priority first, then oldest (R245). The pool holds 8,192
entries (R12); what comes while it is full, of which the spec says nothing, waits behind them in order (log 27). -/
def State.poolOrder (s : State) (d ctx : Nat) : List Piece :=
  let ps := ((s.die d).pool.take 8192).filter (s.pieceOf ctx)
  [7, 6, 5, 4, 3, 2, 1, 0].flatMap fun n => ps.filter fun p => s.piecePrio p == n

/-- What a thief takes from the top of a deque, and what stays there (R246). -/
def State.stolen (s : State) (p : Piece) : Piece × Option Piece :=
  match s.task? p.handle with
  | some t =>
    if t.range ∧ (2 * t.grain : Nat) ≤ p.hi - p.lo then
      let mid := p.lo + (p.hi - p.lo) / 2
      ({ p with lo := mid }, some { p with hi := mid })
    else (p, none)
  | none => (p, none)

/-- The victims of a strand in the order they are tried (R245): a save freezes no deque, so one of a strand that is being
saved, or that is saved, is visited too. -/
def State.victims (s : State) (k : Nat) (x : Strand) : List (Nat × Strand) :=
  let others := s.strands.filter fun e => e.1 != k && e.1 / 256 == k / 256 && e.2.ctx == x.ctx
  (others.filter fun e => x.victim ≤ e.2.lead) ++ others.filter fun e => e.2.lead < x.victim

/-- Everything a strand may take, best first (R245), with the state in which it has been taken; `all` adds sources 3
and 4 to the strand's own deque and its die's pool. -/
def State.takes (s : State) (k : Nat) (all : Bool) : List (Piece × State) :=
  match s.strand? k with
  | none => []
  | some x =>
    let d := k / 256 % 4
    let fromPool := fun (d : Nat) => (s.poolOrder d x.ctx).map fun p =>
      (p, s.modDie d fun y => { y with pool := y.pool.erase p })
    (match x.deque.reverse with
     | [] => []
     | p :: l => [(p, s.modStrand k fun x => { x with deque := l.reverse })])
    ++ fromPool d
    ++ if all then
        ((s.victims k x).filterMap fun (j, v) =>
          match v.deque with
          | [] => none
          | p :: l =>
            let (mine, left) := s.stolen p
            let s := s.modStrand j fun v => { v with deque := left.toList ++ l }
            let s := if left.isSome then s.modTask p.handle fun t => { t with live := t.live + 1 } else s
            some (mine, s.modStrand k fun x => { x with victim := v.lead + 1 }))
        ++ ([d + 1, d + 2, d + 3].map (· % 4)).flatMap fromPool
      else []

/-- A taken piece's task runs, and its taker acquires at package scope (R243, R247). -/
def State.took (s : State) (k : Nat) (p : Piece) : State :=
  let st := ((s.task? p.handle).map fun t => t.stamp).getD Stamp.zero
  (s.modTask p.handle fun t => { t with state := .running }).modStrand k fun x => { x with stamp := x.stamp.join st }

/-- Payload of a take's log record (R335): handle, then lo and hi, zero for a graph task. -/
def takePayload (range : Bool) (p : Piece) : List Byte :=
  leBytes 8 p.handle ++ leBytes 8 (if range then wrap 64 p.lo else 0) ++ leBytes 8 (if range then wrap 64 p.hi else 0)

/-- A take (R245, R335, R337): logged in record mode, none while the log is full; in replay exactly the logged piece. -/
def State.take (s : State) (k : Nat) (all : Bool) : Option (Piece × State) :=
  let isRange := fun (p : Piece) => (s.task? p.handle).any fun t => t.range
  let cs := s.takes k all
  let cs := if ((s.strand? k).bind fun x => s.ctx? x.ctx).any Ctx.playing then
      match s.nextRecord k with
      | some (8, bs) => cs.filter fun c => takePayload (isRange c.1) c.1 == bs.take 24
      | _ => []
    else cs
  match cs with
  | [] => none
  | (p, t) :: _ => (t.outcome k 8 (takePayload (isRange p) p)).map fun o => (p, o.2.took k p)

/-- TPOP n (R262): an exit; the take is made at step 7 of the edge. -/
def execTpop (p : PMode) (n : BitVec 4) (s : State) : Host.Outcome State Fault Refusal :=
  .next (s.exiting p false fun _ _ => .ok (.tpop n.toNat))

/-- The exit act of a taken piece (R247). -/
def Piece.enter (p : Piece) : ExitAct := .enterTask p.handle p.lo p.hi

/-- TIDLE (R262): an exit that is in flight until a task is taken. -/
def execTidle (p : PMode) (s : State) : Host.Outcome State Fault Refusal :=
  .next (match s.here? with
    | none => s
    | some (_, r, _) =>
      if s.fire.sense p then
        match s.fire.poison? with
        | some t => s.exitFault r true { cause := 0x04, origin := t.origin, extra := t.cause, atExit := true }
        | none =>
          if s.fire.pred.any fun t => !(t.tag == .pred && t.scalar) then
            s.exitFault r true { cause := 0x03, origin := s.origin, extra := 0x03, atExit := true }
          else match s.take s.fire.k true with
            | some (q, u) => u.modRun s.fire.k fun r => r.exited s.fire q.enter
            | none => s.park .idle none []
      else s)

/-- TASK_TAKE (R245, R262): a waiting TIDLE takes a task; the block then ends and enters it. -/
def execTaskTake (k slot : Nat) (s : State) : Host.Outcome State Fault Refusal :=
  .next (match s.oldest? k 0 slot with
    | none => s
    | some (_, _, p) =>
      if p.why = .idle then
        match s.take k true with
        | some (q, u) => u.modRun k fun r =>
            { r.settle p.fire .none .none none none with exits := r.exits ++ [(slot, 0, q.enter)] }
        | none => s
      else s)

/-! ### Completion -/

/-- Operations in flight that wait for a task to complete (R248). -/
def State.taskWaiters (s : State) (h : Nat) : List Pend :=
  s.strands.flatMap fun (_, x) =>
    ([x.run, x.susp].filterMap id).flatMap fun r => r.nodes.flatMap fun n => n.pend.filter fun p => p.why == .task h

/-- A task that loses an uncompleted predecessor (R248). -/
def State.loosen (s : State) (st : Stamp) (h : Nat) : State :=
  (s.modTask h fun t => { t with preds := t.preds - 1, stamp := t.stamp.join st }).mature h

/-- A waiting TDEP.W returns: an acquire at package scope (R262). In a strand that is saved it does so once it is restored,
and in a block that is suspended once TRAPRET resumes it (R272). -/
def State.endTaskWait (s : State) (st : Stamp) (v : Nat) (p : Pend) : State :=
  match s.held? p.fire.k p.fire.hand p.fire.copy p.fire.slot p.fire.iter with
  | some (x, _, i, _) =>
    let s := s.modStrand p.fire.k fun x => { x with stamp := x.stamp.join st }
    if x.opens p.fire.hand then s.settleHeld p (tgtA i) .none (some (.tok (Tok.i64 v p.fire.marks))) none
    else s.modPend p fun q => { q with prog := [v] }
  | none => s

/-- A piece of a task completed (R246, R248): with the last piece the store entry is freed, its generation advances,
successors are released in order, and every TDEP.W wait on the handle ends. -/
def State.completePiece (s : State) (h : Nat) (failed : Bool) (st : Stamp) : State :=
  match s.task? h with
  | none => s
  | some t =>
    let st := t.stamp.join st
    if 1 < t.live then
      s.modTask h fun t => { t with live := t.live - 1, failed := t.failed || failed, stamp := st }
    else
      let (d, e) := handleSlot h
      let s := s.modDie d fun y => { y with store := del e y.store, gens := put e ((look e y.gens).getD 0 + 1) y.gens }
      let s := t.succs.foldl (fun s g => s.loosen st g) s
      (s.taskWaiters h).foldl (State.endTaskWait · st (3 + if t.failed || failed then 4 else 0)) s

/-- TDONE (R248): with TCUR 0, cause 0x01 with check 0x19 and nothing changes. -/
def tryTdone (failed : Bool) (s : State) : Try :=
  match s.strand? s.fire.k with
  | none => .stay s
  | some x =>
    if x.tcur = 0 then Try.complete (s.addTrap s.fire.k
      { cause := 0x01, origin := s.origin, extra := checkExtra s.fire.slot 0x19, atExit := false })
    else Try.complete ((s.modStrand s.fire.k fun x => { x with tcur := 0 }).completePiece x.tcur.toNat failed x.stamp)

/-- TDONE (R248, R262). -/
def execTdone (p : PMode) (f : Bool) (a : Tgt) (s : State) : Host.Outcome State Fault Refusal :=
  .next (s.member p need0 true a .none false (some .package) (tryTdone f))

/-! ### Dependences -/

/-- A handle, identity, value or priority operand (R261): an integer tag or IDX, read as I64. -/
def asI64 (o : Option Tok) : Except Nat Nat :=
  match intOperand o with
  | .ok (v, w) => .ok (wrap 64 (signed w v))
  | .error c => .error c

/-- The state code of a live task (R262). -/
def TState.code : TState → Nat
  | .held => 0 | .pending => 1 | .ready => 1 | .running => 2

/-- TDEP.E (R262): the edge joins the predecessor's list and the successor's count. -/
def State.addEdge (s : State) (ctx h g : Nat) : Nat × State :=
  match s.handleOk ctx h && s.handleOk ctx g, s.task? g with
  | true, some t =>
    if t.range ∨ t.state ≠ .held then (3, s)
    else match s.task? h with
      | none => (1, s)
      | some q =>
        if 16 ≤ q.succs.length then (2, s)
        else (0, (s.modTask h fun q => { q with succs := q.succs ++ [g] }).modTask g fun t =>
          { t with preds := t.preds + 1 })
  | _, _ => (3, s)

/-- TDEP.GO (R262). -/
def State.releaseHeld (s : State) (ctx h : Nat) (st : Stamp) : Nat × State :=
  match s.handleOk ctx h, s.task? h with
  | true, some t =>
    if t.state = .held then
      (0, (s.modTask h fun t => { t with state := .pending, stamp := t.stamp.join st }).mature h)
    else (3, s)
  | _, _ => (3, s)

/-- TDEP (R262): `.W` waits until the task completes. -/
def tryTdep (x : TdepK) (s : State) : Try :=
  match asI64 s.fire.left, s.strand? s.fire.k with
  | .error c, _ => .fault s c c
  | .ok _, none => .stay s
  | .ok h, some y =>
    let ans := fun (v : Nat) (s : State) => Try.tok s (Tok.i64 v s.fire.marks)
    match x with
    | .e => match asI64 s.fire.right with
      | .error c => .fault s c c
      | .ok g => ans (s.addEdge y.ctx h g).1 (s.addEdge y.ctx h g).2
    | .go => ans (s.releaseHeld y.ctx h y.stamp).1 (s.releaseHeld y.ctx h y.stamp).2
    | .w =>
      if ¬ s.handleOk y.ctx h then ans 8 s
      else match s.task? h with
        | none => ans 3 (s.modStrand s.fire.k fun x => { x with stamp := x.stamp.join s.depAll })
        | some _ => .wait s (.task h) none []
    | .q =>
      if ¬ s.handleOk y.ctx h then ans 8 s
      else ans (((s.task? h).map fun t => t.state.code).getD 3) s

/-- Operands of TDEP (R261). -/
def needDep (x : TdepK) (f : Firing) : Bool := f.left.isSome && (x != .e || f.right.isSome)

/-- TDEP (R262). -/
def execTdep (p : PMode) (x : TdepK) (a : Tgt) (s : State) : Host.Outcome State Fault Refusal :=
  .next (s.tries p (needDep x) true a .none (tryTdep x))

/-- TASK_WINDOW_READY (R243): a pending task whose predecessors have completed and whose window conditions hold. -/
def execTaskWindowReady (d e : Nat) (s : State) : Host.Outcome State Fault Refusal :=
  .next (s.mature (taskHandle d e ((look e (s.die d).gens).getD 0)))

/-! ### Gangs -/

/-- A gang of a context (R249). -/
def State.gang (s : State) (ctx g : Nat) : Gang :=
  ((s.ctx? ctx).bind fun c => look g c.gangs).getD { members := [], arrived := [], phase := 0, stamp := Stamp.zero }

/-- A gang replaced. -/
def State.setGang (s : State) (ctx g : Nat) (q : Gang) : State :=
  s.modCtx ctx fun c => { c with gangs := put g q c.gangs }

/-- check(g) (R249): every member has arrived. -/
def Gang.check (q : Gang) : Gang :=
  if q.arrived ≠ [] ∧ q.members.all (fun m => q.arrived.contains m) then { q with phase := q.phase + 1, arrived := [] }
  else q

/-- A strand leaves a gang (R249). -/
def Gang.leave (q : Gang) (k : Nat) : Gang :=
  let q := ({ q with members := q.members.filter (· != k), arrived := q.arrived.filter (· != k) } : Gang).check
  if q.members = [] then { q with phase := 0 } else q

/-- The word of GJOIN and GLEAVE (R249). -/
def gangWord (q : Gang) (status : Nat) : Nat := q.phase.toNat + status * 2 ^ 32

/-- GJOIN (R249). -/
def execGjoin (p : PMode) (g : BitVec 8) (a : Tgt) (s : State) : Host.Outcome State Fault Refusal :=
  .next (s.tries p need0 true a .none fun s =>
    match s.strand? s.fire.k with
    | none => .stay s
    | some x =>
      let q := s.gang x.ctx g.toNat
      if q.members.contains s.fire.k then Try.tok s (Tok.i64 (gangWord q 1) s.fire.marks)
      else Try.tok (s.setGang x.ctx g.toNat { q with members := q.members ++ [s.fire.k] })
        (Tok.i64 (gangWord q 0) s.fire.marks))

/-- GLEAVE (R249). -/
def execGleave (p : PMode) (g : BitVec 8) (a : Tgt) (s : State) : Host.Outcome State Fault Refusal :=
  .next (s.tries p need0 true a .none fun s =>
    match s.strand? s.fire.k with
    | none => .stay s
    | some x =>
      let q := s.gang x.ctx g.toNat
      if q.members.contains s.fire.k then
        Try.tok (s.setGang x.ctx g.toNat (q.leave s.fire.k)) (Tok.i64 (gangWord (q.leave s.fire.k) 0) s.fire.marks)
      else Try.tok s (Tok.i64 (gangWord q 1) s.fire.marks))

/-- GBAR (R249). -/
def tryGbar (g : Nat) (s : State) : Try :=
  match s.strand? s.fire.k with
  | none => .stay s
  | some x =>
    let q := s.gang x.ctx g
    if ¬ q.members.contains s.fire.k then Try.tok s (Tok.i64 (2 ^ 64 - 1) s.fire.marks)
    else
      let q' := ({ q with arrived := if q.arrived.contains s.fire.k then q.arrived else q.arrived ++ [s.fire.k]
                          stamp := q.stamp.join x.stamp } : Gang).check
      let s := s.setGang x.ctx g q'
      if q'.phase ≠ q.phase then
        Try.tok (s.modStrand s.fire.k fun x => { x with stamp := x.stamp.join q'.stamp })
          (Tok.i64 (q.phase.toNat + 1) s.fire.marks)
      else .wait s (.gang g q.phase.toNat) none []

/-- GBAR (R249). -/
def execGbar (p : PMode) (g : BitVec 8) (a : Tgt) (s : State) : Host.Outcome State Fault Refusal :=
  .next (s.member p need0 true a .none false (some .package) (tryGbar g.toNat))

/-- GANG_PHASE_RELEASE (R249): a waiting GBAR returns when its phase has passed or its strand is no member. -/
def execGangPhaseRelease (k slot : Nat) (s : State) : Host.Outcome State Fault Refusal :=
  .next (match s.waiting? k slot fun w => match w with
      | .gang _ _ => true
      | _ => false with
    | none => s
    | some (x, _, i, p) =>
      match p.why with
      | .gang g ph =>
        let q := s.gang x.ctx g
        if ¬ x.opens p.fire.hand then s
        else if ¬ q.members.contains k then
          s.settleHeld p (tgtA i) .none (some (.tok (Tok.i64 (2 ^ 64 - 1) p.fire.marks))) none
        else if q.phase.toNat ≠ ph then
          (s.modStrand k fun x => { x with stamp := x.stamp.join q.stamp }).settleHeld p (tgtA i) .none
            (some (.tok (Tok.i64 (ph + 1) p.fire.marks))) none
        else s
      | _ => s)

/-- A strand that ends leaves every gang (R126). -/
def State.leaveGangs (s : State) (k : Nat) : State :=
  { s with ctxs := s.ctxs.map fun (c, x) => (c, ({ x with gangs := x.gangs.map fun (g, q) =>
      (g, if q.members.contains k then q.leave k else q) } : Ctx)) }

/-! ### Locks and queues -/

/-- An access of a lock or queue word (R261, R263). -/
def tryObject (align w : Nat) (op : AccOp) (s : State) : Try :=
  match memAddr s.fire.left align with
  | .error (c, e) => .fault s c e
  | .ok a => s.access { va := a, w := w, op := op, tag := .i64, vec := false, acq := true }

/-- LKACQ (R250, R263). -/
def execLkacq (p : PMode) (t : Bool) (a : Tgt) (s : State) : Host.Outcome State Fault Refusal :=
  .next (s.member p needL true a .none true none (tryObject 8 8 (.lockAcq t)))

/-- LKREL (R250, R263): a release at package scope. -/
def execLkrel (p : PMode) (a : Tgt) (s : State) : Host.Outcome State Fault Refusal :=
  .next (s.member p needL true a .none true (some .package) (tryObject 8 8 .lockRel))

/-- QPUSH (R251, R263). -/
def execQpush (p : PMode) (t : Bool) (a : Tgt) (s : State) : Host.Outcome State Fault Refusal :=
  .next (s.member p needLR true a .none true none fun s =>
    match intOperand s.fire.right, s.fire.right with
    | .ok _, some v => tryObject 64 64 (.push v.word t) s
    | .error c, _ => .fault s c c
    | _, none => .stay s)

/-- QPOP (R251, R263). -/
def execQpop (p : PMode) (t : Bool) (a b : Tgt) (s : State) : Host.Outcome State Fault Refusal :=
  .next (s.member p needL true a b true none (tryObject 64 64 (.pop t)))

/-! ### Software waits and priority -/

/-- The owner operand of WREG, none when it is not named (R264). -/
def optOwner (o : Option Tok) : Except Nat Nat :=
  match o with
  | none => .ok 0
  | some t => asI64 (some t)

/-- WREG (R264): the emitted word names the entry. A table that takes no entry gives 0 and, where its ring takes none
either, cause 0x0A at the edge (R258). -/
def tryWreg (kind : Nat) (s : State) : Try :=
  match asI64 s.fire.left, optOwner s.fire.right, s.strand? s.fire.k with
  | .error c, _, _ => .fault s c c
  | _, .error c, _ => .fault s c c
  | .ok _, .ok _, none => .stay s
  | .ok obj, .ok own, some x =>
    let d := x.die % 4
    let y := s.die d
    let ans := fun (v : Nat) (s : State) => Try.tok s (Tok.i64 v s.fire.marks)
    let mine := y.wft.filter fun e => e.2.sw && e.2.waiter.toNat == strandId s.fire.k
    let e : WfEnt := { waitEntry (kind, obj, 0, own) (.node s.fire.k s.fire.copy s.fire.slot) x.ctx s.fire.iter with sw := true }
    if 4 ≤ mine.length then ans 0 s
    else if y.wfhost ∨ 4096 ≤ y.wft.length then
      if y.ringRoom then ans 0 (s.enterWait d e)
      else ans 0 (s.addTrap s.fire.k { cause := 0x0A, origin := s.origin, extra := 0, atExit := false })
    else ans (((freeKey 4096 y.wft).map fun n => n + 1).getD 0) (s.enterWait d e)

/-- WREG k (R264). -/
def execWreg (p : PMode) (k : BitVec 4) (a : Tgt) (s : State) : Host.Outcome State Fault Refusal :=
  .next (s.tries p needL true a .none (tryWreg k.toNat))

/-- WDEREG (R264): the word that WREG emitted names the entry (log 27). -/
def execWdereg (p : PMode) (a : Tgt) (s : State) : Host.Outcome State Fault Refusal :=
  .next (s.tries p needL true a .none fun s =>
    match asI64 s.fire.left with
    | .error c => .fault s c c
    | .ok v =>
      Try.complete (s.modDie (s.fire.k / 256) fun y => Die.leaveHost { y with wft := y.wft.filter fun e =>
        !(e.1 + 1 == v && e.2.sw && e.2.waiter.toNat == strandId s.fire.k) }))

/-- A privileged context (R52, R321). -/
def Ctx.priv (c : Ctx) : Bool := bit c.ctxpriv.toNat 0

/-- Priority of a launch queue (R260). -/
def Ctx.queuePrio (c : Ctx) (q : Nat) : Nat := bits c.lqpri.toNat (3 * (q % 16) + 2) (3 * (q % 16))

/-- PRIO (R265). -/
def execPrio (p : PMode) (a : Tgt) (s : State) : Host.Outcome State Fault Refusal :=
  .next (s.tries p needL true a .none fun s =>
    match asI64 s.fire.left, (s.strand? s.fire.k).bind fun x => (s.ctx? x.ctx).map fun c => (x, c) with
    | .error c, _ => .fault s c c
    | .ok _, none => .stay s
    | .ok v, some (x, c) =>
      let top := if c.priv then 7 else c.queuePrio x.launch.q
      Try.tok (s.modStrand s.fire.k fun x => { x with base := (clamp 0 top (signed 64 v)).toNat })
        (Tok.i64 x.base s.fire.marks))

/-! ### The end of a strand -/

/-- The tasks of a strand that ends (R126, R244, R248): the one in TCUR completes as failed, and its deque moves to its
die's pool from the top down. -/
def State.dropTasks (s : State) (k : Nat) : State :=
  match s.strand? k with
  | none => s
  | some x =>
    let s := if x.tcur = 0 then s
      else (s.modStrand k fun x => { x with tcur := 0 }).completePiece x.tcur.toNat true x.stamp
    (s.modDie (k / 256) fun y => { y with pool := y.pool ++ x.deque }).modStrand k fun x => { x with deque := [] }

end Sys2Proof.Machine
end

