-- ==== Sys2Proof/Machine/Streams.lean ====
section
/-! DEFINITION. Machine/Streams.lean: stream generators: SGEN, SGRUN and their events (R159, R160, R200, R201, R347). -/

namespace Sys2Proof.Machine

open Sys2Proof

/-! ### Records -/

/-- Bytes of the record that a generator captures (R159, R160). -/
def Stream.recSize (t : Stream) : Nat := if t.run then 32 else 64

/-- Tag code of a captured record. -/
def Stream.tagCode (t : Stream) : Nat := fieldOf t.recd (if t.run then 29 else 49) 1

/-- Row bytes of a captured record. -/
def Stream.rowBytes (t : Stream) : Nat := if t.run then fieldOf t.recd 12 4 else fieldOf t.recd 44 4

/-- A tag that streams and copies fill windows with (R160, R204). -/
def fillTagOk (code : Nat) : Bool := code < 16 && code != 14 && code != 15 && code != 10 && code != 11

/-- A well-formed record or header (R160). -/
def Stream.recOk (t : Stream) (elem : Nat) : Bool :=
  (if t.run then fieldOf t.recd 30 2 == 0 && fieldOf t.recd 8 4 != 0 && fieldOf t.recd 16 4 != 0
   else fieldOf t.recd 50 14 == 0 && t.total != 0)
  && t.flags < 64 && bits t.flags 4 2 < 5 && t.rowBytes != 0 && t.rowBytes ≤ elem && fillTagOk t.tagCode

/-- Address of the element that an SGEN stream fills next: level 0 fastest (R159). -/
def Stream.genAddr (t : Stream) : Nat :=
  let e := fun (l : Nat) => max 1 (fieldOf t.recd (32 + 4 * l) 4)
  let c0 := t.pos % e 0
  let c1 := t.pos / e 0 % e 1
  let c2 := t.pos / e 0 / e 1
  let st := fun (l : Nat) => signed 64 (fieldOf t.recd (8 + 8 * l) 8)
  wrap 64 ((fieldOf t.recd 0 8 : Int) + c0 * st 0 + c1 * st 1 + c2 * st 2)

/-- Address of the entry that an SGRUN stream stands at (R160). -/
def Stream.entryAddr (t : Stream) : Nat := (fieldOf t.recd 0 8 + 16 * t.pos) % 2 ^ 64

/-- Address of the token that an SGRUN stream fills next (R160). -/
def Stream.tokenAddr (t : Stream) : Nat := (fieldOf t.ent 0 8 + t.tok * t.rowBytes) % 2 ^ 64

/-- A well-formed run-list entry (R160). -/
def Stream.entryOk (t : Stream) (bs : List Byte) : Bool :=
  fieldOf bs 13 3 == 0 && fieldOf bs 12 1 < 4 && fieldOf bs 8 4 != 0 && fieldOf bs 8 4 ≤ fieldOf t.recd 16 4

/-- Rows of an element filled from bytes of generic memory: every further byte is zero with clear valid bits (R159,
R208). A word that the bytes reach is valid (log 23). -/
def Win.rowsFrom (w : Win) (tag : Tag) (bs : List Byte) : List Row :=
  (List.range w.rpe).map fun r =>
    let part := (bs.drop (w.rowBytes * r)).take w.rowBytes
    { data := BitVec.ofNat 1024 (leNat part), side := 0, tag := tag,
      valid := BitVec.ofNat 32 (2 ^ ((part.length + 3) / 4) - 1), bad := false }

/-! ### Start and end -/

/-- A running generator changed. -/
def State.setStream (s : State) (d tile g : Nat) (t : Stream) : State :=
  s.modDie d fun y => { y with streams := put (tile * 4 + g) t y.streams }

/-- The entries of the generator's wait, in the table or overflowed (R253, R258). -/
def Die.genEntries (y : Die) (d tile g : Nat) : List WfEnt :=
  (y.wft.map (·.2) ++ y.wfover).filter fun e => decide (e.who = .gen d tile g) && !e.sw

/-- The generator's wait-for entry removed, where it stands, or the ring gets its removal (R253, R258). -/
def State.endGenWait (s : State) (d tile g : Nat) (t : Stream) : State :=
  if t.reg then
    (((s.die d).genEntries d tile g).foldl (fun s e => s.leaveWait e.who e.kind e.obj.toNat e.iter) s).setStream d tile g
      { t with reg := false }
  else s

/-- The stream ends: the window's filler returns to the strand, the generator is idle (R159, R160). -/
def State.freeStream (s : State) (d tile g : Nat) (t : Stream) : State :=
  let s := s.endGenWait d tile g t
  (s.modWin t.k t.w fun w => { w with filler := BitVec.ofNat 16 (strandId t.k) }).modDie d fun y =>
    { y with streams := del (tile * 4 + g) y.streams }

/-- The command's node, where it is in flight still: its target A is named (R200). -/
def State.streamNode? (s : State) (d tile g : Nat) (t : Stream) : Option (Pend × Tgt) :=
  match t.node with
  | none => none
  | some (_, slot) => (s.waiting? t.k slot fun w => w == .stream d tile g).map fun e => (e.2.2.2, tgtA e.2.2.1)

/-- The stream has been filled in full (R159, R200). -/
def State.finishStream (s : State) (d tile g : Nat) (t : Stream) : State :=
  let s' := s.freeStream d tile g t
  match s.streamNode? d tile g t with
  | some (p, a) => s'.settleHeld p a .none (some (.tok (Tok.done p.fire.its))) none
  | none => s'

/-- The stream stops with a cause, at the strand's next block edge, with the sequencer's origin (R94, R160). -/
def State.stopStream (s : State) (d tile g : Nat) (t : Stream) (cause extra : Nat) : State :=
  let o := seqOrigin t.k 0
  let s' := (s.freeStream d tile g t).oweTrap t.k { cause := cause, origin := o, extra := extra, atExit := false }
  match s.streamNode? d tile g t with
  | some (p, a) => s'.settleHeld p a .none (some (.tok (Tok.poisonOf cause o p.fire.marks))) none
  | none => s'

/-- Every member before a slot has been issued, and its access performed (R61, R159). -/
def Run.streamTurn (r : Run) (g : Region) (f : Firing) : Bool :=
  r.turn g f false && r.nodes.all fun m => f.slot ≤ m.slot || m.pend.all fun p => !p.isAccess

/-- SGEN and SGRUN (R159, R160): generator g of the window's tile takes the command. -/
def tryStream (run : Bool) (g w : Nat) (a : Tgt) (s : State) : Try :=
  match memAddr s.fire.left 64 with
  | .error (c, e) => .fault s c e
  | .ok va =>
    s.withWin w fun x v =>
      if (look (v.tile * 4 + g) (s.die x.die).streams).isSome then Try.win s 0x06 w
      else if v.filler.toNat ≠ strandId s.fire.k then Try.win s 0x02 w
      else
        let t : Stream :=
          { k := s.fire.k, w := w, run := run, recd := [], addr := va, pos := 0, tok := 0, ent := [], captured := false,
            wait := 0, handle := 0, stamp := x.stamp, node := some (0, s.fire.slot), reg := false }
        let s := (s.setStream x.die v.tile g t).modWin s.fire.k w fun v =>
          { v with filler := BitVec.ofNat 16 (genId x.die v.tile g) }
        if a = .none then .done s none none else .wait s (.stream x.die v.tile g) none []

/-- SGEN and SGRUN wait for the strand's earlier accesses (R159). -/
def State.startStream (s : State) (p : PMode) (run : Bool) (g w : Nat) (a : Tgt) : State :=
  s.firing p needL true a .none <|
    match s.here? with
    | some (x, r, _) =>
      if r.streamTurn x.region s.fire then State.begin true a .none (tryStream run g w a s) else s
    | none => s

/-- SGEN (R159). -/
def execSgen (p : PMode) (g : BitVec 2) (w : BitVec 10) (a : Tgt) (s : State) : Host.Outcome State Fault Refusal :=
  .next (s.startStream p false g.toNat w.toNat a)

/-- SGRUN (R160). -/
def execSgrun (p : PMode) (g : BitVec 2) (w : BitVec 10) (a : Tgt) (s : State) : Host.Outcome State Fault Refusal :=
  .next (s.startStream p true g.toNat w.toNat a)

/-! ### A generator's steps -/

/-- A generic read of a generator: it stops the stream where it fails. -/
def State.streamRead (s : State) (x : Strand) (d tile g : Nat) (t : Stream) (va n : Nat)
    (k : State → Stamp → List Byte → State) : State :=
  match s.dread x.ctx d ⟨tile, .gen d tile g⟩ t.stamp .rd true va n with
  | .wait u => u
  | .fail u c a => u.stopStream d tile g t c a
  | .ok (bs, st, u) => k u st bs

/-- The record or header captured (R159, R160). -/
def State.captureStream (s : State) (x : Strand) (w : Win) (d tile g : Nat) (t : Stream) : State :=
  s.streamRead x d tile g t t.addr t.recSize fun s st bs =>
    let t := { t with recd := bs, captured := true, stamp := st }
    if ¬ t.recOk w.elem then s.stopStream d tile g t 0x0D 0x0D
    else if t.tagCode ≠ w.tag.code ∧ w.tag ≠ .raw then s.stopStream d tile g t 0x03 0x03
    else s.setStream d tile g t

/-- The run-list entry at the cursor read, with acquire at package scope (R160, R201). -/
def State.readEntry (s : State) (x : Strand) (d tile g : Nat) (t : Stream) : State :=
  s.streamRead x d tile g t t.entryAddr 16 fun s st bs =>
    if ¬ t.entryOk bs then s.stopStream d tile g t 0x0D (0x0D + t.pos % 2 ^ 32 * 2 ^ 16)
    else
      let s := s.endGenWait d tile g t
      let t := { t with stamp := st, reg := false }
      if bit (fieldOf bs 12 1) 0 then s.setStream d tile g { t with wait := 1, ent := [] }
      else s.setStream d tile g { t with wait := 0, ent := bs, tok := 0 }

/-- The cursor after an element (R160): past the entry's valid tokens comes the next entry, and after the last-entry bit
the end. -/
def Stream.advance (t : Stream) : Stream :=
  if ¬ t.run then { t with pos := t.pos + 1 }
  else if t.tok + 1 < fieldOf t.ent 8 4 then { t with tok := t.tok + 1 }
  else if bit (fieldOf t.ent 12 1) 1 then { t with pos := fieldOf t.recd 8 4, tok := 0, ent := [] }
  else { t with pos := t.pos + 1, tok := 0, ent := [] }

/-- A window takes an element now; a stream meeting an end of stream stops (R150). -/
def State.streamFill (s : State) (d tile g : Nat) (t : Stream) (w : Win) (go : State → State) : State :=
  if w.eos then s.stopStream d tile g t 0x07 (windowExtra 0x05 t.w)
  else if w.free = 0 then s
  else go s

/-- STREAM_ELEMENT_FILL (R159, R160): the next thing that generator g of a tile does: its capture, an entry's read, an
element, or the end of the stream. -/
def execStreamElementFill (d tile g : Nat) (s : State) : Host.Outcome State Fault Refusal :=
  .next (match look (tile * 4 + g) (s.die d).streams with
    | none => s
    | some t =>
      match s.strand? t.k, s.win? t.k t.w with
      | some x, some w =>
        if ¬ x.save.free ∨ t.wait ≠ 0 then s
        else if ¬ t.captured then s.captureStream x w d tile g t
        else if t.atEnd then
          if bit t.flags 5 then
            s.streamFill d tile g t w fun s => (s.fillSeen t.k t.w t.stamp fun w => w.putMarker 0x01).2.finishStream d tile g t
          else s.finishStream d tile g t
        else if t.run ∧ t.ent = [] then s.readEntry x d tile g t
        else
          s.streamFill d tile g t w fun s =>
            s.streamRead x d tile g t (if t.run then t.tokenAddr else t.genAddr) t.rowBytes fun s st bs =>
              let s := s.endGenWait d tile g t
              let (st, s) := s.fillSeen t.k t.w st fun w => (w.rowsFrom (Tag.ofCode t.tagCode) bs).foldl Win.putRow w
              s.setStream d tile g { t.advance with stamp := st, reg := false }
      | _, _ => s.freeStream d tile g t)

/-- A regeneration task posted, its priority stated by no rule (log 8); with the store full the generator keeps waiting
(R160, R201). -/
def State.postRegen (s : State) (x : Strand) (d tile g : Nat) (t : Stream) : State :=
  let (v, s) := s.fresh
  let q : Task :=
    { ctx := x.ctx, range := false, entry := BitVec.ofNat 64 (fieldOf t.recd 20 8), arg := BitVec.ofNat 64 t.entryAddr,
      a2 := 0, grain := 0, win0 := 0, win1 := 0, prio := v.toNat % 8, state := .pending, preds := 0, succs := [],
      live := 1, failed := false, stamp := t.stamp }
  match s.allocTask d q with
  | none => if t.wait = 3 then s else s.setStream d tile g { t with wait := 3 }
  | some (h, s) =>
    ((s.endGenWait d tile g t).mature h).setStream d tile g { t with wait := 2, handle := h, reg := false }

/-- Kind of a post to Jasper for an absent entry (R347). -/
def postRegenKind : Nat := 4

/-- SGRUN_ABSENT_PAGE (R160, R347): the generator posts a task and waits, or posts the entry to Jasper. -/
def execSgrunAbsentPage (d tile g : Nat) (s : State) : Host.Outcome State Fault Refusal :=
  .next (match look (tile * 4 + g) (s.die d).streams with
    | none => s
    | some t =>
      match s.strand? t.k with
      | none => s
      | some x =>
        if ¬ x.save.free ∨ t.wait ≠ 1 then s
        else if (s.ctx? x.ctx).any fun c => bit c.hamode.toNat 0 then
          (s.setStream d tile g { t with wait := 4 }).modCtx x.ctx fun c =>
            { c with posts := c.posts ++ [(postRegenKind, genId d tile g)] }
        else s.postRegen x d tile g t)

/-- SGRUN_POST_RETRY (R160): a store entry has been freed. -/
def execSgrunPostRetry (d tile g : Nat) (s : State) : Host.Outcome State Fault Refusal :=
  .next (match look (tile * 4 + g) (s.die d).streams with
    | none => s
    | some t =>
      match s.strand? t.k with
      | none => s
      | some x =>
        if ¬ x.save.free ∨ t.wait ≠ 3 ∨ (s.die d).freeTask.isNone then s else s.postRegen x d tile g t)

/-- SGRUN_ENTRY_REREAD (R160, R201): the task has completed, or Jasper has answered. -/
def execSgrunEntryReread (d tile g : Nat) (s : State) : Host.Outcome State Fault Refusal :=
  .next (match look (tile * 4 + g) (s.die d).streams with
    | none => s
    | some t =>
      match s.strand? t.k with
      | none => s
      | some x =>
        if x.save.free ∧ (t.wait = 5 ∨ (t.wait = 2 ∧ (s.task? t.handle).isNone)) then
          s.readEntry x d tile g { t with stamp := t.stamp.join s.depAll }
        else s)

/-- JASPER_REGENERATION (R347): Jasper has dealt with the entry; where the page is present now, it has cleared the
absent bit. -/
def execJasperRegeneration (d tile g : Nat) (present : Bool) (s : State) : Host.Outcome State Fault Refusal :=
  .next (match look (tile * 4 + g) (s.die d).streams with
    | none => s
    | some t =>
      match s.strand? t.k with
      | none => s
      | some x =>
        if t.wait ≠ 4 then s
        else
          let fl := fieldOf (s.vpeek x.ctx d (t.entryAddr + 12) 1) 0 1
          let s := if present then s.vpoke x.ctx d (t.entryAddr + 12) (leBytes 1 (fl / 2 * 2)) else s
          ((s.endGenWait d tile g t).setStream d tile g { t with wait := 5, reg := false }).modCtx x.ctx fun c =>
            { c with posts := c.posts.erase (postRegenKind, genId d tile g) })

end Sys2Proof.Machine
end

