-- ==== Sys2Proof/Machine/Copy.lean ====
section
/-! DEFINITION. Machine/Copy.lean: the copy engine: chains, records, rows, events and the copy members of group 0xA
(R202 to R214). -/

namespace Sys2Proof.Machine

open Sys2Proof

/-! ### Chains -/

/-- A copy chain at launch (R202). -/
def CopyChain.zero : CopyChain :=
  { first := 0, append := 0, tail := 0, pos := 0, cseq := 0, cstate := .idle, cstat := 0, recd := [], row := 0,
    got := none, win := none, stamp := Stamp.zero, outst := 0, aborting := false, serv := false }

/-- Chain c of a strand. -/
def Strand.copy (x : Strand) (c : Nat) : CopyChain := (look c x.copies).getD CopyChain.zero

/-- A copy chain changed. -/
def State.modCopy (s : State) (k c : Nat) (f : CopyChain → CopyChain) : State :=
  s.modStrand k fun x => { x with copies := put c (f (x.copy c)) x.copies }

/-- Code of a chain state (R202). -/
def CState.code : CState → Nat
  | .idle => 0 | .running => 1 | .waiting => 2 | .eventq => 3 | .halted => 4

/-- The chain status word (R202). -/
def CopyChain.status (c : CopyChain) : Nat := c.cseq.toNat + c.cstate.code * 2 ^ 32 + c.cstat.toNat * 2 ^ 40

/-- An event record (R210). -/
def eventRecord (seq chain stat : Nat) : Nat := seq % 2 ^ 32 + chain % 128 * 2 ^ 32 + stat % 256 * 2 ^ 40 + 2 ^ 63

/-- The flags byte of a captured record (R204). -/
def CopyChain.flags (c : CopyChain) : Nat := fieldOf c.recd 49 1

/-- Cause of a copy status (R211). -/
def copyCause (status : Nat) : Nat :=
  match status with
  | 0x02 => 0x05 | 0x03 => 0x06 | 0x04 => 0x08 | 0x05 => 0x10 | 0x06 => 0x07 | 0x07 => 0x03 | _ => 0x0D

/-- Copy status of a cause of R79 (R211). -/
def copyStatus (cause : Nat) : Nat :=
  match cause with
  | 0x05 => 0x02 | 0x06 => 0x03 | 0x08 => 0x04 | _ => 0x05

/-! ### The event queue and the waits on chains -/

/-- An event record may still come, so that EVPOP on an empty queue waits (R214). -/
def Strand.eventsDue (x : Strand) : Bool :=
  (x.copies.any fun c => c.2.mayEvent) || x.colls.any fun c => c.2.mayEvent

/-- CQWAIT's and CLWAIT's condition on the counter (R214, R232). -/
def seqReached (cseq : BitVec 32) (v : Nat) : Bool := (cseq - BitVec.ofNat 32 v).toNat < 2 ^ 31

/-- The status word of a collective chain (R227). -/
def CollChain.status (c : CollChain) : Nat := c.cseq.toNat + c.cstate.code * 2 ^ 32 + c.cstat.toNat * 2 ^ 40

/-- The word with which a wait on the engines ends now, and the strand after it; none while it goes on (R214). -/
def Strand.engineWait (x : Strand) (why : Why) : Option (Nat × Strand) :=
  match why with
  | .copySeq ch v =>
    let c := x.copy ch
    if seqReached c.cseq v ∨ c.cstate = .halted then some (c.status, x) else none
  | .collSeq ch v =>
    match look ch x.colls with
    | some c => if seqReached c.cseq v ∨ c.cstate = .halted then some (c.status, x) else none
    | none => if seqReached 0 v then some (0, x) else none
  | .events =>
    match x.events with
    | e :: l => some (e.toNat, { x with events := l })
    | [] => if x.eventsDue then none else some (0, x)
  | _ => none

/-- Operations in flight of a strand that wait on its engines, in slot order. -/
def Strand.engineWaits (x : Strand) : List Pend :=
  ([x.run, x.susp].filterMap id).flatMap fun r => r.nodes.flatMap fun n => n.pend.filter fun p => match p.why with
    | .copySeq _ _ | .collSeq _ _ | .events => true
    | _ => false

/-- One wait on the engines ended, where it ends now; in a block that is suspended, or a strand that is saved, once it goes
on (R272, R314). -/
def State.pollOne (s : State) (p : Pend) : State :=
  match s.held? p.fire.k p.fire.hand p.fire.copy p.fire.slot p.fire.iter with
  | some (x, _, i, _) =>
    match x.engineWait p.why with
    | some (v, y) => if x.opens p.fire.hand then (s.modStrand p.fire.k fun _ => y).settleHeld p (tgtA i) .none
        (some (.tok (Tok.i64 v p.fire.marks))) none else s
    | none => s
  | none => s

/-- A chain or the event queue has changed: waits that this ends return. -/
def State.pollEngines (s : State) (k : Nat) : State :=
  match s.strand? k with
  | some x => x.engineWaits.foldl State.pollOne s
  | none => s

/-- An event record pushed (R210). -/
def State.pushEvent (s : State) (k v : Nat) : State :=
  s.modStrand k fun x => { x with events := x.events ++ [BitVec.ofNat 64 v] }

/-- The event queue has room (R210). -/
def Strand.eventRoom (x : Strand) : Bool := x.events.length < 64

/-- The chain whose record comes into the event queue next may push it (R210): those whose records ended before have. -/
def Strand.eventTurn (x : Strand) (ch : Nat) : Bool := x.eventRoom && (x.evq.isEmpty || x.evq.head? == some ch)

/-- An event record pushed for a chain, which waits no longer for a slot (R203, R210). -/
def State.pushFor (s : State) (k ch v : Nat) : State :=
  (s.pushEvent k v).modStrand k fun x => { x with evq := x.evq.erase ch }

/-! ### The end of a record -/

/-- The window of a record goes back to its strand (R208). -/
def State.freeCopyWin (s : State) (k ch : Nat) : State :=
  match (s.strand? k).bind fun x => (x.copy ch).win with
  | some (j, e) => (s.modWin j e fun w => { w with filler := BitVec.ofNat 16 (strandId j) }).modCopy k ch fun c =>
      { c with win := none }
  | none => s

/-- The state a chain goes to once its record has ended and its event stands in the queue (R203). -/
def CopyChain.settled (c : CopyChain) : CopyChain :=
  { c with recd := [], row := 0, got := none, cstate := if c.cstat ≠ 0 then .halted else if c.pos = c.tail then .idle else .running }

/-- A record has ended with its status set: its event record is pushed, or the chain waits for a slot (R203, R210). -/
def State.endRecord (s : State) (k ch : Nat) : State :=
  match s.strand? k with
  | none => s
  | some x =>
    let c := x.copy ch
    let s := s.freeCopyWin k ch
    (if bit c.flags 5 then
      if x.eventTurn ch then
        (s.pushFor k ch (eventRecord (fieldOf c.recd 52 4) ch c.cstat.toNat)).modCopy k ch CopyChain.settled
      else (s.modCopy k ch fun c => { c with cstate := .eventq }).modStrand k fun x => { x with evq := x.evq ++ [ch] }
    else s.modCopy k ch CopyChain.settled).pollEngines k

/-- A record that does not complete halts its chain (R211): the trap is taken at the strand's next edge. -/
def State.haltCopy (s : State) (k ch status sub : Nat) : State :=
  match s.strand? k with
  | none => s
  | some x =>
    let c := x.copy ch
    let s := s.oweTrap k { cause := copyCause status, origin := seqOrigin k 0, atExit := false,
                           extra := status + ch * 2 ^ 8 + c.row % 2 ^ 32 * 2 ^ 16 + sub * 2 ^ 56 }
    (s.modCopy k ch fun c => { c with cstat := BitVec.ofNat 8 status, serv := false }).endRecord k ch

/-! ### Records and rows -/

/-- Kind 1 admits a tag (R204). -/
def expandWidth (code : Nat) : Option Nat :=
  match Tag.ofCode code with
  | .i8 | .f8e4 | .f8e5 => some 1
  | .i16 | .bf16 | .f16 => some 2
  | .i32 | .f32 => some 4
  | _ => none

/-- A record within the limits of R204 that do not concern its window. -/
def copyRecordOk (r : List Byte) : Bool :=
  let kind := fieldOf r 48 1
  let fl := fieldOf r 49 1
  let win := bit fl 6
  let tag := fieldOf r 50 2
  let rb := fieldOf r 24 4
  fieldOf r 56 8 == 0 && tag < 16 && fl < 128 && kind < 4 && bits fl 4 2 < 5 && rb != 0 && fieldOf r 28 4 != 0
  && (!win || (fieldOf r 16 8 < 2 ^ 16 && fillTagOk tag && fieldOf r 40 8 == 0))
  && (kind != 1 || (win && match expandWidth tag with
    | some w => rb % (4 * w) == 0
    | none => false))

/-- A generic read of a chain: it waits, in a fault service or for its stamp, or halts the chain (R80, R206, R211). `cnt`
counts what one act of the chain has read before; it is handed on with this read's lines added, and a wait, after which
the act is tried again from its start, counts nothing (R58). -/
def State.copyRead (s : State) (x : Strand) (k ch va n : Nat) (cnt : State → State)
    (f : State → List Byte → (State → State) → State) : State :=
  let st := (x.copy ch).stamp
  let more := fun (s : State) => (cnt s).countRange x.ctx x.die .rd va n
  if 2 ^ 56 < va + n then (cnt s).haltCopy k ch 0x03 0
  else match s.dread x.ctx x.die ⟨x.lead, .chain k ch⟩ st .rd false va n with
    | .wait u => u.modCopy k ch fun c => { c with serv := u.quiet st }
    | .fail u cause _ => (if cause = 0x10 then more u else cnt u).haltCopy k ch (copyStatus cause) 0
    | .ok (bs, st, u) => f (u.modCopy k ch fun c => { c with stamp := st, serv := false }) bs more

/-- Address of the record after the chain's position (R205): the next-record field is read when the engine moves on. -/
def State.nextRecordAt (s : State) (x : Strand) (k ch : Nat) (f : State → Nat → (State → State) → State) : State :=
  let c := x.copy ch
  if c.pos = 0 then f s c.first id else s.copyRead x k ch c.pos 8 id fun s bs cnt => f s (leNat bs) cnt

/-- A window record takes its window, or the chain halts (R204, R208). -/
def State.startWindowRecord (s : State) (k ch ctx : Nat) (r : List Byte) : State :=
  match s.winById? ctx (fieldOf r 16 2) with
  | none => s.haltCopy k ch 0x06 0x03
  | some (j, e, w) =>
    if w.filler.toNat ≠ strandId k then s.haltCopy k ch 0x06 0x02
    else if w.elem < fieldOf r 24 4 then s.haltCopy k ch 0x01 0
    else (s.modWin j e fun w => { w with filler := BitVec.ofNat 16 (engineIdent 2 (k / 256) w.tile) }).modCopy k ch fun c =>
      { c with win := some (j, e) }

/-- COPY_RECORD_CAPTURE (R203, R205): the next published record is read whole; a waiting EVPOP learns whether it is flagged
(R214). -/
def execCopyRecordCapture (k ch : Nat) (s : State) : Host.Outcome State Fault Refusal :=
  .next (match s.strand? k with
    | none => s
    | some x =>
      let c := x.copy ch
      if ¬ x.save.free ∨ ¬ (c.cstate = .idle ∨ (c.cstate = .running ∧ c.recd = [])) ∨ c.tail = c.pos ∨ c.aborting then s
      else
        let s := s.modCopy k ch fun c => { c with cstate := .running, row := 0, got := none }
        s.nextRecordAt x k ch fun s a cnt =>
          let at_ := fun (s : State) => s.modCopy k ch fun c => { c with pos := a }
          if a % 64 ≠ 0 then (at_ (cnt s)).haltCopy k ch 0x04 0
          else
            match s.strand? k with
            | none => s
            | some x => s.copyRead x k ch a 64 cnt fun s bs cnt =>
              let s := (at_ (cnt s)).modCopy k ch fun c => { c with recd := bs }
              (if ¬ copyRecordOk bs then s.haltCopy k ch 0x01 0
              else if fieldOf bs 48 1 = 3 ∧ fieldOf bs 32 8 % 4 ≠ 0 then s.haltCopy k ch 0x04 0
              else if bit (fieldOf bs 49 1) 6 then s.startWindowRecord k ch x.ctx bs
              else s).pollEngines k)

/-- Dense elements of one 2:4 group (R207): none where its metadata is rejected. -/
def expandGroup (v0 v1 m : Nat) : Option (List Nat) :=
  let i0 := m % 4
  let i1 := m / 4 % 4
  if i0 ≥ i1 ∨ 16 ≤ m then none
  else some ((List.range 4).map fun i => if i = i0 then v0 else if i = i1 then v1 else 0)

/-- A row expanded (R207): n dense elements of w bytes. -/
def expand24 (w rb : Nat) (bs : List Byte) : Option (List Byte) :=
  let n := rb / w
  let val := fun (i : Nat) => fieldOf bs (w * i) w
  let gs := (List.range (n / 4)).map fun g => expandGroup (val (2 * g)) (val (2 * g + 1)) (fieldOf bs (w * (n / 2) + g) 1)
  if gs.all Option.isSome then some (gs.flatMap fun o => (o.getD []).flatMap fun v => leBytes w v) else none

/-- A row that has been read goes to its destination, or waits with it (R206, R208): into a window under R150's fill rule,
which tests for an end of stream, waits for room and then looks at the tag. -/
def State.copyPlace (s : State) (x : Strand) (k ch : Nat) (bs : List Byte) : State :=
  let c := x.copy ch
  let r := c.recd
  match c.win with
  | some (j, e) =>
    match s.win? j e with
    | none => s.haltCopy k ch 0x06 0x03
    | some w =>
      if w.eos then s.haltCopy k ch 0x06 0x05
      else if ¬ s.openTo j then s.modCopy k ch fun c => { c with got := some bs }
      else if w.free = 0 then (s.modCopy k ch fun c => { c with got := some bs, cstate := .waiting }).pollEngines k
      else if w.tag ≠ Tag.ofCode (fieldOf r 50 2) ∧ w.tag ≠ .raw then s.haltCopy k ch 0x07 0
      else
        let (st, s) := s.fillSeen j e c.stamp fun w => (w.rowsFrom (Tag.ofCode (fieldOf r 50 2)) bs).foldl Win.putRow w
        s.modCopy k ch fun c => { c with row := c.row + 1, got := none, stamp := st }
  | none =>
    let va := wrap 64 ((fieldOf r 16 8 : Int) + c.row * signed 64 (fieldOf r 40 8))
    if 2 ^ 56 < va + bs.length then s.haltCopy k ch 0x03 0
    else match s.dwrite x.ctx x.die ⟨x.lead, .chain k ch⟩ c.stamp (.chain k ch) true va bs with
      | .wait u => u.modCopy k ch fun c => { c with got := some bs, serv := u.quiet c.stamp }
      | .fail u cause _ => u.haltCopy k ch (copyStatus cause) 0
      | .ok (n, st, u) => u.modCopy k ch fun c =>
          { c with row := c.row + 1, got := none, stamp := st, outst := c.outst + n, serv := false }

/-- COPY_ROW (R206, R207): one row of the running record: it is read, and then goes to its destination. -/
def execCopyRow (k ch : Nat) (s : State) : Host.Outcome State Fault Refusal :=
  .next (match s.strand? k with
    | none => s
    | some x =>
      let c := x.copy ch
      let r := c.recd
      if ¬ x.save.free ∨ c.cstate ≠ .running ∨ r = [] ∨ fieldOf r 28 4 ≤ c.row ∨ c.aborting then s
      else
        let rb := fieldOf r 24 4
        let put := fun (s : State) (bs : List Byte) (cnt : State → State) => match (cnt s).strand? k with
          | some x => (cnt s).copyPlace x k ch bs
          | none => s
        let src := wrap 64 ((fieldOf r 8 8 : Int) + c.row * signed 64 (fieldOf r 32 8))
        match c.got, fieldOf r 48 1 with
        | some bs, _ => put s bs id
        | none, 0 => s.copyRead x k ch src rb id put
        | none, 1 =>
          let w := (expandWidth (fieldOf r 50 2)).getD 1
          s.copyRead x k ch src (rb / 2 + rb / (4 * w)) id fun s bs cnt =>
            match expand24 w rb bs with
            | some d => put s d cnt
            | none => (cnt s).haltCopy k ch 0x08 0
        | none, 2 => put s ((List.range rb).map fun b => (r.drop 8).getD (b % 8) 0) id
        | none, _ => s.copyRead x k ch ((fieldOf r 32 8 + 4 * c.row) % 2 ^ 64) 4 id fun s ib cnt =>
          match s.strand? k with
          | some x => s.copyRead x k ch ((fieldOf r 8 8 + leNat ib * rb) % 2 ^ 64) rb cnt put
          | none => s)

/-- The window that a chain's row waits for has room, or will take no more (R203, R208). -/
def State.copyRoom (s : State) (c : CopyChain) : Bool :=
  c.win.all fun e => (s.win? e.1 e.2).all fun w => w.free != 0 || w.eos

/-- COPY_FILL_RESUME (R203): the window a chain waits for has free space. -/
def execCopyFillResume (k ch : Nat) (s : State) : Host.Outcome State Fault Refusal :=
  .next (match s.strand? k with
    | none => s
    | some x =>
      let c := x.copy ch
      if ¬ x.save.free ∨ c.cstate ≠ .waiting ∨ ¬ s.copyRoom c then s
      else s.modCopy k ch fun c => { c with cstate := .running })

/-! ### Abort and completion -/

/-- An aborted chain is empty again; its counter and status stay (R214). -/
def CopyChain.aborted (c : CopyChain) : CopyChain :=
  { CopyChain.zero with cseq := c.cseq, cstat := c.cstat, stamp := c.stamp }

/-- CQABRT takes effect once the rows begun have been applied and its event record, if any, has its turn (R210, R214): the
state, or none while it waits. -/
def State.abortCopy (s : State) (k ch : Nat) : Option State :=
  match s.strand? k with
  | none => none
  | some x =>
    let c := x.copy ch
    let live := !c.recd.isEmpty && (c.cstate == .running || c.cstate == .waiting || c.cstate == .eventq)
    let flagged := live && bit c.flags 5
    if c.outst ≠ 0 ∨ (flagged ∧ ¬ x.eventTurn ch) then none
    else
      let s := s.freeCopyWin k ch
      let s := if c.cstate = .running ∨ c.cstate = .waiting then s.modCopy k ch fun c => { c with cstat := 0x09 } else s
      let s := if flagged then s.pushFor k ch (eventRecord (fieldOf c.recd 52 4) ch
        (if c.cstate = .eventq then c.cstat.toNat else 0x09)) else s
      some ((s.modCopy k ch CopyChain.aborted).pollEngines k)

/-- A waiting CQABRT goes on. -/
def State.abortGoes (s : State) (k ch : Nat) : State :=
  match s.abortCopy k ch with
  | none => s
  | some t =>
    match t.strand? k with
    | none => t
    | some x =>
      let ps := ([x.run, x.susp].filterMap id).flatMap fun r => r.nodes.flatMap fun n => n.pend.filter fun p =>
        p.why == .abort ch
      ps.foldl (fun t p => match t.held? p.fire.k p.fire.hand p.fire.copy p.fire.slot p.fire.iter with
        | some (_, _, i, _) => t.settleHeld p (tgtA i) .none (some (.tok (Tok.i64 (x.copy ch).status p.fire.marks))) none
        | none => t) t

/-- COPY_RECORD_COMPLETE (R206, R209): every row has been performed and every write applied; a chain being aborted ends
here. -/
def execCopyRecordComplete (k ch : Nat) (s : State) : Host.Outcome State Fault Refusal :=
  .next (match s.strand? k with
    | none => s
    | some x =>
      let c := x.copy ch
      if ¬ x.save.free then s
      else if c.aborting then s.abortGoes k ch
      else if c.cstate = .running ∧ c.recd ≠ [] ∧ fieldOf c.recd 28 4 ≤ c.row ∧ c.outst = 0 then
        (s.modCopy k ch fun c => { c with cseq := BitVec.ofNat 32 (fieldOf c.recd 52 4), cstat := 0 }).endRecord k ch
      else s)

/-- A copy chain that waits for the event queue pushes its record (R203). -/
def State.resumeCopyEvent (s : State) (k ch : Nat) : State :=
  match s.strand? k with
  | none => s
  | some x =>
    let c := x.copy ch
    if ¬ x.save.free ∨ c.cstate ≠ .eventq ∨ ¬ x.eventTurn ch then s
    else if c.aborting then s.abortGoes k ch
    else ((s.pushFor k ch (eventRecord (fieldOf c.recd 52 4) ch c.cstat.toNat)).modCopy k ch CopyChain.settled).pollEngines k

/-! ### The instructions -/

/-- The address operand of an append (R214, R232). -/
def recordAddr (o : Option Tok) : Except (Nat × Nat) Nat := memAddr o 64

/-- CQAPP c (R214): the link is a store and a sequence member. -/
def tryCqapp (c : Nat) (s : State) : Try :=
  match recordAddr s.fire.left, s.strand? s.fire.k with
  | .error (c, e), _ => .fault s c e
  | .ok _, none => .stay s
  | .ok a, some x =>
    let ch := x.copy c
    if ch.append = 0 then Try.complete (s.modCopy s.fire.k c fun ch => { ch with first := a, append := a })
    else match s.dwrite x.ctx x.die ⟨x.lead, s.fire.req⟩ x.stamp s.fire.req true ch.append
        (leBytes 8 a) with
      | .wait u => .stay u
      | .fail u c va => .fault u c va
      | .ok (n, st, u) => .wait ((u.modStrand s.fire.k fun x => { x with stamp := st }).modCopy s.fire.k c fun ch =>
          { ch with append := a }) .memory none [n]

/-- CQAPP c (R214). -/
def execCqapp (p : PMode) (c : BitVec 7) (a : Tgt) (s : State) : Host.Outcome State Fault Refusal :=
  .next (s.member p needL true a .none true none (tryCqapp c.toNat))

/-- CQTAIL c (R214): a release at package scope publishes what has been appended. -/
def execCqtail (p : PMode) (c : BitVec 7) (a : Tgt) (s : State) : Host.Outcome State Fault Refusal :=
  .next (s.member p need0 true a .none false (some .package) fun s =>
    match s.strand? s.fire.k with
    | none => .stay s
    | some x => Try.complete (s.modCopy s.fire.k c.toNat fun ch =>
        { ch with tail := ch.append, stamp := ch.stamp.join x.stamp }))

/-- CQSEQ c (R214). -/
def execCqseq (p : PMode) (c : BitVec 7) (a : Tgt) (s : State) : Host.Outcome State Fault Refusal :=
  .next (s.tries p need0 true a .none fun s =>
    match s.strand? s.fire.k with
    | none => .stay s
    | some x => Try.tok s (Tok.i64 (x.copy c.toNat).status s.fire.marks))

/-- A wait on the strand's engines (R214, R232). -/
def State.tryEngine (s : State) (why : Why) : Try :=
  match s.strand? s.fire.k with
  | none => .stay s
  | some x =>
    match x.engineWait why with
    | some (v, y) => Try.tok (s.modStrand s.fire.k fun _ => y) (Tok.i64 v s.fire.marks)
    | none => .wait s why none []

/-- CQWAIT c (R214). -/
def execCqwait (p : PMode) (c : BitVec 7) (a : Tgt) (s : State) : Host.Outcome State Fault Refusal :=
  .next (s.tries p needL true a .none fun s =>
    match wordOperand s.fire.left with
    | .error c => .fault s c c
    | .ok v => s.tryEngine (.copySeq c.toNat (v % 2 ^ 32)))

/-- EVPOP (R214). -/
def execEvpop (p : PMode) (a : Tgt) (s : State) : Host.Outcome State Fault Refusal :=
  .next (s.tries p need0 true a .none fun s => s.tryEngine .events)

/-- EVPEEK (R214). -/
def execEvpeek (p : PMode) (a : Tgt) (s : State) : Host.Outcome State Fault Refusal :=
  .next (s.tries p need0 true a .none fun s =>
    match s.strand? s.fire.k with
    | none => .stay s
    | some x => Try.tok s (Tok.i64 ((x.events.headD 0).toNat) s.fire.marks))

/-- CQABRT c (R214). -/
def execCqabrt (p : PMode) (c : BitVec 7) (a : Tgt) (s : State) : Host.Outcome State Fault Refusal :=
  .next (s.tries p need0 true a .none fun s =>
    match s.abortCopy s.fire.k c.toNat with
    | some t => Try.tok t (Tok.i64 (((t.strand? s.fire.k).map fun x => (x.copy c.toNat).status).getD 0) s.fire.marks)
    | none => .wait (s.modCopy s.fire.k c.toNat fun ch => { ch with aborting := true }) (.abort c.toNat) none [])

end Sys2Proof.Machine
end

