-- ==== Sys2Proof/Machine/Collective.lean ====
section
/-! DEFINITION. Machine/Collective.lean: the collective engine: groups, steps, messages, chains and the collective members
of group 0xA (R220 to R233). -/

namespace Sys2Proof.Machine

open Sys2Proof

/-! ### Chains -/

/-- A collective chain at launch (R227). -/
def CollChain.zero : CollChain :=
  { first := 0, append := 0, tail := 0, pos := 0, cseq := 0, cstate := .idle, cstat := 0, step := none, wait := 0,
    stamp := Stamp.zero, outst := 0, aborting := false, serv := false, event := none }

/-- Collective chain c of a strand. -/
def Strand.coll (x : Strand) (c : Nat) : CollChain := (look c x.colls).getD CollChain.zero

/-- A collective chain changed. -/
def State.modColl (s : State) (k c : Nat) (f : CollChain → CollChain) : State :=
  s.modStrand k fun x => { x with colls := put c (f (x.coll c)) x.colls }

/-- The step of a chain changed. -/
def State.modStep (s : State) (k c : Nat) (f : CollStep → CollStep) : State :=
  s.modColl k c fun c => { c with step := c.step.map f }

/-- Cause of a collective status (R228). -/
def collCause (status : Nat) : Nat :=
  match status with
  | 0x42 => 0x05 | 0x43 => 0x06 | 0x44 => 0x08 | 0x45 => 0x10 | 0x48 => 0x15 | 0x49 => 0x15 | _ => 0x0D

/-- Collective status of a cause of R79 (R228). -/
def collStatus (cause : Nat) : Nat :=
  match cause with
  | 0x05 => 0x42 | 0x06 => 0x43 | 0x08 => 0x44 | _ => 0x45

/-- s31 of a collective trap (R228). -/
def collExtra (status ch st : Nat) : Nat := status + ch * 2 ^ 8 + st % 256 * 2 ^ 16

/-- The state a chain goes to once its step has ended and its event stands in the queue (R203, R227). -/
def CollChain.settled (c : CollChain) : CollChain :=
  { c with step := none, wait := 0, event := none,
           cstate := if c.cstat ≠ 0x40 then .halted else if c.pos = c.tail then .idle else .running }

/-- A step has ended with its status set: its event record is pushed, or the chain waits for a slot (R227). -/
def State.endStep (s : State) (k ch : Nat) (flagged : Bool) (seq : Nat) : State :=
  match s.strand? k with
  | none => s
  | some x =>
    (if flagged then
      let e := eventRecord seq ch (x.coll ch).cstat.toNat
      if x.eventTurn (128 + ch) then (s.pushFor k (128 + ch) e).modColl k ch CollChain.settled
      else (s.modColl k ch fun c => { c with cstate := .eventq, event := some (BitVec.ofNat 64 e) }).modStrand k fun x =>
        { x with evq := x.evq ++ [128 + ch] }
    else s.modColl k ch CollChain.settled).pollEngines k

/-- A step that does not complete halts its chain (R228): the trap is taken at the strand's next edge. -/
def State.haltStep (s : State) (k ch status st : Nat) (flagged : Bool) (seq : Nat) : State :=
  let s := s.oweTrap k { cause := collCause status, origin := seqOrigin k 0, atExit := false,
                         extra := collExtra status ch st }
  (s.modColl k ch fun c => { c with cstat := BitVec.ofNat 8 status, serv := false }).endStep k ch flagged seq

/-- The running step does not complete. A record that was never captured is not known to be flagged. -/
def State.haltColl (s : State) (k ch status : Nat) : State :=
  match s.strand? k with
  | none => s
  | some x =>
    let st := (x.coll ch).step
    s.haltStep k ch status ((st.map fun t => t.s).getD 0) (st.any fun t => bit t.flags.toNat 5)
      ((st.map fun t => t.seqv.toNat).getD 0)

/-- A captured record that starts no step (R222, R228). -/
def State.haltRecord (s : State) (k ch : Nat) (r : List Byte) (status : Nat) : State :=
  s.haltStep k ch status (fieldOf r 41 1) (bit (fieldOf r 42 1) 5) (fieldOf r 44 4)

/-! ### Accesses -/

/-- A generic read of a chain (R226): it waits, or halts the chain. `cnt` counts what the act has read before, and is
handed on with this read's lines added (R58), as in the copy engine. -/
def State.collReadOr (s : State) (x : Strand) (k ch va n : Nat) (cnt : State → State) (halt : State → Nat → State)
    (f : State → List Byte → (State → State) → State) : State :=
  let st := ((s.strand? k).map fun x => (x.coll ch).stamp).getD Stamp.zero
  let more := fun (s : State) => (cnt s).countRange x.ctx x.die .rd va n
  if 2 ^ 56 < va + n then halt (cnt s) 0x43
  else match s.dread x.ctx x.die ⟨x.lead, .coll k ch⟩ st .rd false va n with
    | .wait u => u.modColl k ch fun c => { c with serv := u.quiet st }
    | .fail u cause _ => halt (if cause = 0x10 then more u else cnt u) (collStatus cause)
    | .ok (bs, st, u) => f (u.modColl k ch fun c => { c with stamp := st, serv := false }) bs more

/-- A read of the running step, or of a record's link; its lines are counted before what follows, which does not wait. -/
def State.collRead (s : State) (x : Strand) (k ch va n : Nat) (f : State → List Byte → State) : State :=
  s.collReadOr x k ch va n id (fun s st => s.haltColl k ch st) fun s bs cnt => f (cnt s) bs

/-- A write of a chain (R226): it waits, or halts the chain; `count` counts its lines (R58), and `f` goes on. -/
def State.collWrite (s : State) (x : Strand) (k ch va : Nat) (bs : List Byte) (count : Bool) (halt : State → Nat → State)
    (f : State → State) : State :=
  let st := ((s.strand? k).map fun x => (x.coll ch).stamp).getD Stamp.zero
  if 2 ^ 56 < va + bs.length then halt s 0x43
  else match s.dwrite x.ctx x.die ⟨x.lead, .coll k ch⟩ st (.coll k ch) count va bs with
    | .wait u => u.modColl k ch fun c => { c with serv := u.quiet st }
    | .fail u cause _ => halt u (collStatus cause)
    | .ok (n, st, u) => f (u.modColl k ch fun c => { c with stamp := st, outst := c.outst + n, serv := false })

/-! ### Steps -/

/-- A power of two. -/
def isPow2 (p : Nat) : Bool := p != 0 && 2 ^ p.log2 == p

/-- The partner's rank, or none where the step breaks R221 (R222). -/
def partnerOf (kind p r st n peer : Nat) : Option Nat :=
  let m := p.log2
  match kind with
  | 0 => if isPow2 p ∧ st < m ∧ n % p = 0 ∧ peer = 0 then some (r ^^^ (p / 2 ^ (st + 1))) else none
  | 1 => if isPow2 p ∧ st < m ∧ n % p = 0 ∧ peer = 0 then some (r ^^^ 2 ^ st) else none
  | 2 => if st = 0 ∧ 1 ≤ n ∧ n ≤ 2 ^ 28 ∧ peer < p ∧ peer ≠ r then some peer else none
  | 3 => if isPow2 p ∧ st < m ∧ n = 0 ∧ peer = 0 then some (r ^^^ 2 ^ st) else none
  | _ => none

/-- A source tag that a kind admits (R222). -/
def collTagOk (kind tag : Nat) : Bool :=
  match kind, Tag.ofCode tag with
  | 0, .f32 | 0, .bf16 | 0, .f16 => true
  | 0, _ => false
  | 2, .mark | 2, .poison => false
  | _, _ => true

/-- The step that a record and its group descriptor give, or none where they are malformed (R220 to R222). -/
def stepOf (jobmap : List Nat) (r g : List Byte) : Option CollStep :=
  let kind := fieldOf r 40 1
  let fl := fieldOf r 42 1
  let tag := fieldOf r 43 1
  let p := fieldOf g 0 4
  let own := fieldOf g 4 4
  let scr := fieldOf g 16 8
  let src := fieldOf r 16 8
  let dst := fieldOf r 24 8
  let entry := fun (i : Nat) => fieldOf g (64 + 8 * i) 8
  let entriesOk := (List.range p).all fun i => entry i / 2 ^ 20 == 0 && jobmap.contains (entry i % 2 ^ 18)
  match partnerOf kind p own (fieldOf r 41 1) (fieldOf r 32 4) (fieldOf r 36 4) with
  | none => none
  | some q =>
    if kind < 4 ∧ fl < 64 ∧ bits fl 4 2 < 5 ∧ tag < 16 ∧ fieldOf r 48 16 = 0 ∧ collTagOk kind tag ∧ 2 ≤ p ∧ p ≤ 2 ^ 18
        ∧ own < p ∧ fieldOf g 24 40 = 0 ∧ entriesOk ∧ src % 64 = 0 ∧ dst % 64 = 0 ∧ scr % 64 = 0
        ∧ ((kind = 1 ∨ kind = 3) → src = 0) ∧ (kind = 3 → dst = 0) then
      some { key := BitVec.ofNat 64 (fieldOf g 8 8), kind := kind, s := fieldOf r 41 1, n := fieldOf r 32 4, p := p,
             r := own, q := q, tag := Tag.ofCode tag, flags := BitVec.ofNat 8 fl,
             seqv := BitVec.ofNat 32 (fieldOf r 44 4), src := src, dst := dst, scr := scr, qpkg := entry q % 2 ^ 18,
             qdie := bits (entry q) 19 18, notice := false, sent := false, got := false, kept := none }
    else none

/-- A message to a partner: within the package, or out to another (R223). -/
def State.post (s : State) (pkg : Nat) (m : NetMsg) : State :=
  if pkg = s.pkg then { s with net := s.net ++ [m] } else { s with sent := s.sent ++ [m] }

/-- A message belongs to a step (R223): key, kind and step match, and the sender is the partner. -/
def CollStep.matches (t : CollStep) (key : BitVec 64) (kind st frm : Nat) : Bool :=
  t.key == key && t.kind == kind && t.s == st && t.q == frm

/-- The running steps of a die in the order in which messages go to them: by chain, then by strand (R223); with `all` those
that CLABRT ends, too, whose transfers begun are still applied (R232). -/
def State.stepsOf (s : State) (d : Nat) (all : Bool) : List (Nat × Nat × CollStep) :=
  (List.range 16).flatMap fun ch => s.strands.filterMap fun (k, x) =>
    let c := x.coll ch
    if x.die % 4 = d % 4 ∧ (all ∨ !c.aborting) ∧ (c.cstate = .running ∨ c.cstate = .waiting) then
      c.step.map fun t => (k, ch, t)
    else none

/-- First element and count of the values a step sends, and of those it receives (R223). -/
def CollStep.ranges (t : CollStep) : (Nat × Nat) × (Nat × Nat) :=
  let b := t.n / t.p
  match t.kind with
  | 0 => let h := t.p / 2 ^ (t.s + 1)
         ((t.q / h * h * b, h * b), (t.r / h * h * b, h * b))
  | 1 => let h := 2 ^ t.s
         ((t.r / h * h * b, h * b), (t.q / h * h * b, h * b))
  | _ => ((0, t.n), (0, t.n))

/-- Address and bytes of the values an RSH step holds for a range: the source at step 0, else the destination (R223). -/
def CollStep.own (t : CollStep) (e n : Nat) : Nat × Nat :=
  if t.s = 0 then (t.src + e * (t.tag.width / 8), n * (t.tag.width / 8)) else (t.dst + 4 * e, 4 * n)

/-- Bits of the F32 values an RSH step reads; BF16 and F16 sources convert exactly (R223, R224). -/
def CollStep.toF32 (t : CollStep) (bs : List Byte) (n : Nat) : List Nat :=
  if t.s = 0 then
    let w := t.tag.width / 8
    (List.range n).map fun i => (ffmt .f32).encode .rne ((ffmt t.tag).decode (fieldOf bs (w * i) w))
  else (List.range n).map fun i => fieldOf bs (4 * i) 4

/-- The sum of two F32 values, rounded once (R96, R224). -/
def sumF32 (x y : Nat) : Nat := (ffmt .f32).encode .rne (FVal.add .rne ((ffmt .f32).decode x) ((ffmt .f32).decode y))

/-- Bytes of n elements of an exchange (R223). -/
def CollStep.xchgBytes (t : CollStep) : Nat := (t.n * t.tag.width + 7) / 8

/-- A chain's step completes (R223): writes applied, the counter written, its event pushed. -/
def State.completeStep (s : State) (k ch : Nat) : State :=
  match (s.strand? k).bind fun x => (x.coll ch).step with
  | none => s
  | some t => (s.modColl k ch fun c => { c with cseq := t.seqv, cstat := 0x40 }).endStep k ch (bit t.flags.toNat 5)
      t.seqv.toNat

/-- The data of a step sent, once both notices have been exchanged (R223). -/
def State.sendData (s : State) (k ch : Nat) (t : CollStep) (bs : List Byte) : State :=
  ((s.post t.qpkg (.data t.qpkg t.qdie t.key t.kind t.s t.r bs)).modStep k ch fun t => { t with sent := true }).modColl
    k ch fun c => { c with cstate := if t.got then .running else .waiting, wait := 0 }

/-- A step goes on (R223): it sends its data, and it completes once the partner's data and its own writes have been
applied. -/
def State.stepOn (s : State) (k ch : Nat) : State :=
  match s.strand? k with
  | none => s
  | some x =>
    let c := x.coll ch
    match c.step with
    | none => s
    | some t =>
      if c.aborting ∨ ¬ (c.cstate = .running ∨ c.cstate = .waiting) ∨ ¬ t.notice then s
      else if t.kind = 3 then s.completeStep k ch
      else if ¬ t.sent then
        let ((e, n), _) := t.ranges
        match t.kind with
        | 0 =>
          let (va, len) := t.own e n
          s.collRead x k ch va len fun s bs => s.sendData k ch t ((t.toF32 bs n).flatMap fun v => leBytes 4 v)
        | 1 => s.collRead x k ch (t.dst + 4 * e) (4 * n) fun s bs => s.sendData k ch t bs
        | _ => s.collRead x k ch t.src t.xchgBytes fun s bs => s.sendData k ch t bs
      else if t.got ∧ c.outst = 0 then s.completeStep k ch
      else s

/-- The sums of an RSH step from element i of its keep range on (R223, R224), with fuel: own values are read, summed and
written in ascending order, at a time those that one line of the source and one of the destination hold. Where a line does not
translate or does not read, the values before it stand written. A line counts once, with the first of its elements (R58); the
step's reads come after what `rd` covers, not after its own writes. -/
def State.sumLines (x : Strand) (k ch : Nat) (t : CollStep) (bs : List Byte) (rd : Stamp) (done : State → State) :
    Nat → Nat → State → State
  | 0, _, s => s
  | f + 1, i, s =>
    let (e, n) := t.ranges.2
    if n ≤ i then done s
    else
      let w := if t.s = 0 then t.tag.width / 8 else 4
      let va := (t.own (e + i) 1).1
      let out := t.dst + 4 * (e + i)
      let m := min (n - i) (min ((64 - va % 64) / w) ((64 - out % 64) / 4))
      let halt := fun (s : State) (st : Nat) => s.haltColl k ch st
      if 2 ^ 56 < va + m * w then halt s 0x43
      else match s.dread x.ctx x.die ⟨x.lead, .coll k ch⟩ rd .rd false va (m * w) with
        | .wait u => u.modColl k ch fun c => { c with serv := u.quiet rd }
        | .fail u cause _ => halt (if cause = 0x10 ∧ (i = 0 ∨ va % 64 = 0) then u.countRange x.ctx x.die .rd va (m * w) else u)
            (collStatus cause)
        | .ok (own, st, u) =>
          let more := fun (s : State) => if i = 0 ∨ va % 64 = 0 then s.countRange x.ctx x.die .rd va (m * w) else s
          let ys := (List.range m).map fun j => fieldOf bs (4 * (i + j)) 4
          let zs := ((t.toF32 own m).zip ys).map fun p => if t.r < t.q then sumF32 p.1 p.2 else sumF32 p.2 p.1
          (u.modColl k ch fun c => { c with stamp := c.stamp.join st }).collWrite x k ch out (zs.flatMap fun v => leBytes 4 v)
            (i == 0 || out % 64 == 0) (fun s st => halt (more s) st) fun s =>
              ((more s).modStep k ch fun t => { t with kept := some (i + m) }) |> State.sumLines x k ch t bs rd done f (i + m)

/-- The partner's data applied (R223, R237): of RSH it goes to scratch first, then the sums are made; `fin` takes the
message off where the step has taken it or halted. -/
def State.applyData (s : State) (x : Strand) (k ch : Nat) (t : CollStep) (bs : List Byte) (fin : State → State) : State :=
  let (_, (e, n)) := t.ranges
  let got := fun (s : State) => (s.modStep k ch fun t => { t with got := true }).modColl k ch fun c =>
    { c with cstate := .running, wait := 0 }
  let halt := fun (s : State) (st : Nat) => s.haltColl k ch st
  match t.kind with
  | 0 =>
    let sums := fun (s : State) (i : Nat) => s |> State.sumLines x k ch t bs (x.coll ch).stamp (fun s => got (fin s)) (n + 1) i
    match t.kept with
    | some i => sums s i
    | none => s.collWrite x k ch t.scr bs true halt fun s => sums (s.modStep k ch fun t => { t with kept := some 0 }) 0
  | 1 => s.collWrite x k ch (t.dst + 4 * e) bs true halt fun s => got (fin s)
  | _ => s.collWrite x k ch t.dst bs true halt fun s => got (fin s)

/-- A ready notice reaches a step (R223): the step goes on, or ends with status 0x46. -/
def State.takeNotice (s : State) (k ch : Nat) (t : CollStep) (n : Nat) (tag : Tag) : State :=
  if t.n ≠ n ∨ t.tag ≠ tag then s.haltColl k ch 0x46
  else ((s.modStep k ch fun t => { t with notice := true }).modColl k ch fun c =>
    { c with cstate := .running, wait := 0 }).stepOn k ch

/-- The notice held for a step, and whether an abort is held for it too. -/
def heldFor (t : CollStep) (l : List NetMsg) : Option NetMsg × Option NetMsg :=
  (l.find? fun m => match m with
    | .notice _ _ key kind st _ _ frm => t.matches key kind st frm
    | _ => false,
   l.find? fun m => match m with
    | .abort _ _ key kind st frm => t.matches key kind st frm
    | _ => false)

/-- A step that has just started takes the notice, and the abort, held for it (R223, R232). -/
def State.takeHeld (s : State) (d k ch : Nat) (t : CollStep) : State :=
  let (n, a) := heldFor t (s.die d).notices
  let drop := fun (s : State) (o : Option NetMsg) => match o with
    | some m => s.modDie d fun y => { y with notices := y.notices.erase m }
    | none => s
  let s := drop s n
  match a, n with
  | some _, _ => (drop s a).haltColl k ch 0x49
  | none, some (.notice _ _ _ _ _ nn tag _) => s.takeNotice k ch t nn tag
  | none, _ => s

/-- An aborted chain is empty again (R232). -/
def CollChain.aborted (c : CollChain) : CollChain :=
  { CollChain.zero with cseq := c.cseq, cstat := c.cstat, stamp := c.stamp }

/-- A transfer of a step, either way, is on its way within the package. -/
def State.transferring (s : State) (d : Nat) (t : CollStep) : Bool :=
  s.net.any fun m => match m with
    | .data p e key kind st frm _ => key == t.key && kind == t.kind && st == t.s &&
        ((p == s.pkg && e == d % 4 && frm == t.q && t.notice && !t.got) || (p == t.qpkg && e == t.qdie && frm == t.r && t.sent))
    | _ => false

/-- CLABRT takes effect once the transfers begun have been applied and its event record, if any, has its turn (R210,
R232). -/
def State.abortColl (s : State) (k ch : Nat) : Option State :=
  match s.strand? k with
  | none => none
  | some x =>
    let c := x.coll ch
    let live := c.step.isSome && (c.cstate == .running || c.cstate == .waiting)
    let ev := if live then (c.step.filter fun t => bit t.flags.toNat 5).map fun t => eventRecord t.seqv.toNat ch 0x47
      else c.event.map (·.toNat)
    if c.outst ≠ 0 ∨ (live ∧ c.step.any fun t => s.transferring x.die t) ∨ (ev.isSome ∧ ¬ x.eventTurn (128 + ch)) then none
    else
      let s := if live then s.modColl k ch fun c => { c with cstat := 0x47 } else s
      let s := match ev with
        | some e => s.pushFor k (128 + ch) e
        | none => s
      some ((s.modColl k ch CollChain.aborted).pollEngines k)

/-- A waiting CLABRT goes on. -/
def State.collAbortGoes (s : State) (k ch : Nat) : State :=
  match s.abortColl k ch with
  | none => s
  | some t =>
    match t.strand? k with
    | none => t
    | some x =>
      let ps := ([x.run, x.susp].filterMap id).flatMap fun r => r.nodes.flatMap fun n => n.pend.filter fun p =>
        p.why == .abort (128 + ch)
      ps.foldl (fun t p => match t.held? p.fire.k p.fire.hand p.fire.copy p.fire.slot p.fire.iter with
        | some (_, _, i, _) => t.settleHeld p (tgtA i) .none (some (.tok (Tok.i64 (x.coll ch).status p.fire.marks))) none
        | none => t) t

/-- COLLECTIVE_STEP_START (R222, R223): the next published record and its descriptor are captured and the ready notice is
sent; a step that runs goes on, and a CLABRT that waits takes effect once it can (R232). No step starts once a save has been
asked for (R231). -/
def execCollectiveStepStart (k ch : Nat) (s : State) : Host.Outcome State Fault Refusal :=
  .next (match s.strand? k with
    | none => s
    | some x =>
      let c := x.coll ch
      if ¬ x.save.free then s
      else if c.aborting then s.collAbortGoes k ch
      else if c.step.isSome then s.stepOn k ch
      else if ¬ (c.cstate = .idle ∨ c.cstate = .running) ∨ c.tail = c.pos ∨ x.save.asking then s
      else
        let s := s.modColl k ch fun c => { c with cstate := .running }
        let halt0 := fun (s : State) (st : Nat) => s.haltColl k ch st
        let next := fun (s : State) (f : State → Nat → (State → State) → State) =>
          if c.pos = 0 then f s c.first id else s.collReadOr x k ch c.pos 8 id halt0 fun s bs cnt => f s (leNat bs) cnt
        next s fun s a cnt =>
          let here := fun (s : State) => s.modColl k ch fun c => { c with pos := a }
          if a % 64 ≠ 0 then (here (cnt s)).haltColl k ch 0x44
          else s.collReadOr x k ch a 64 cnt halt0 fun s r cnt =>
            let g := fieldOf r 8 8
            let halt := fun (s : State) (st : Nat) => (here s).haltRecord k ch r st
            if g % 64 ≠ 0 then halt (cnt s) 0x44
            else s.collReadOr x k ch g 64 cnt halt fun s hd one =>
              let p := fieldOf hd 0 4
              if p < 2 ∨ 2 ^ 18 < p then halt (one s) 0x41
              else s.collReadOr x k ch g (64 + 8 * p) cnt halt fun s gs all =>
                let s := all s
                match stepOf (s.jobmap.map (·.1)) r gs with
                | none => halt s 0x41
                | some t =>
                  let s := (here s).modColl k ch fun c => { c with step := some t, cstate := .waiting, wait := 0 }
                  ((s.post t.qpkg (.notice t.qpkg t.qdie t.key t.kind t.s t.n t.tag t.r)).takeHeld x.die k ch t).pollEngines k)

/-- The j-th message on its way, where it goes to die d of this package. -/
def State.arrivingAt (s : State) (d j : Nat) : Option NetMsg :=
  match s.net[j]? with
  | some (.notice p e key kind st n tag frm) => if p = s.pkg ∧ e = d then some (.notice p e key kind st n tag frm) else none
  | some (.data p e key kind st frm bs) => if p = s.pkg ∧ e = d then some (.data p e key kind st frm bs) else none
  | some (.abort p e key kind st frm) => if p = s.pkg ∧ e = d then some (.abort p e key kind st frm) else none
  | none => none

/-- The die, key and sender of a message. -/
def NetMsg.source : NetMsg → Nat × Nat × BitVec 64 × Nat
  | .notice p e key _ _ _ _ frm => (p, e, key, frm)
  | .data p e key _ _ frm _ => (p, e, key, frm)
  | .abort p e key _ _ frm => (p, e, key, frm)

/-- An earlier message of the same sender to the same die stands before message j: the two arrive in their order. -/
def State.behind (s : State) (j : Nat) : Bool :=
  match s.net[j]? with
  | some m => (s.net.take j).any fun n => n.source == m.source
  | none => false

/-- Message j, where it may arrive at die d now. -/
def State.arriving (s : State) (d j : Nat) : Option NetMsg := if s.behind j then none else s.arrivingAt d j

/-- A message taken off. -/
def State.offNet (s : State) (j : Nat) : State := { s with net := s.net.eraseIdx j }

/-- READY_NOTICE (R223): a notice reaches its step, or is held until that step starts. -/
def execReadyNotice (d j : Nat) (s : State) : Host.Outcome State Fault Refusal :=
  .next (match s.arriving d j with
    | some (.notice p e key kind st n tag frm) =>
      match (s.stepsOf d false).find? fun t => t.2.2.matches key kind st frm && !t.2.2.notice with
      | some (k, ch, t) => (s.offNet j).takeNotice k ch t n tag
      | none => (s.offNet j).modDie d fun y => { y with notices := y.notices ++ [.notice p e key kind st n tag frm] }
    | _ => s)

/-- COLLECTIVE_DATA_ARRIVAL (R223): data reaches the step it belongs to; with no such step it is dropped. -/
def execCollectiveDataArrival (d j : Nat) (s : State) : Host.Outcome State Fault Refusal :=
  .next (match s.arriving d j with
    | some (.data _ _ key kind st frm bs) =>
      match (s.stepsOf d true).find? fun t => t.2.2.matches key kind st frm && t.2.2.notice && !t.2.2.got with
      | none => s.offNet j
      | some (k, ch, t) =>
        match s.strand? k with
        | none => s
        | some x =>
          if ¬ x.save.free then s
          else if ¬ t.sent ∧ ¬ (x.coll ch).aborting then s.stepOn k ch
          else (s.modColl k ch fun c => { c with cstate := .running }).applyData x k ch t bs fun s => s.offNet j
    | _ => s)

/-- ABORT_NOTICE (R232): the matching step ends with status 0x49; with none running the notice is held. -/
def execAbortNotice (d j : Nat) (s : State) : Host.Outcome State Fault Refusal :=
  .next (match s.arriving d j with
    | some (.abort p e key kind st frm) =>
      match (s.stepsOf d false).find? fun t => t.2.2.matches key kind st frm && !t.2.2.got with
      | some (k, ch, _) => (s.offNet j).haltColl k ch 0x49
      | none => (s.offNet j).modDie d fun y => { y with notices := y.notices ++ [.abort p e key kind st frm] }
    | _ => s)

/-- PEER_SILENT (R229): the count of a waiting step has reached its context's bound. -/
def execPeerSilent (k ch : Nat) (s : State) : Host.Outcome State Fault Refusal :=
  .next (match s.strand? k with
    | none => s
    | some x =>
      let c := x.coll ch
      let bound := ((s.ctx? x.ctx).map fun c => bits c.clbnd.toNat 47 0).getD 0
      match c.step with
      | none => s
      | some t =>
        if c.cstate ≠ .waiting ∨ bound = 0 ∨ c.wait < bound then s
        else
          let s := s.modColl k ch fun c => { c with wait := 0 }
          if bit t.flags.toNat 5 then
            if x.eventRoom ∧ x.evq.isEmpty then (s.pushEvent k (eventRecord t.seqv.toNat ch 0x48)).pollEngines k else s
          else s.oweTrap k { cause := 0x15, origin := seqOrigin k 0, extra := collExtra 0x48 ch t.s, atExit := false })

/-! ### Abort and the event queue -/

/-- CLABRT's notice to the partner of a step that has not sent its data (R232). -/
def State.abortNotice (s : State) (k ch : Nat) : State :=
  match (s.strand? k).map fun x => x.coll ch with
  | some c =>
    match c.step with
    | some t =>
      if (c.cstate = .running ∨ c.cstate = .waiting) ∧ ¬ t.sent ∧ ¬ c.aborting then
        s.post t.qpkg (.abort t.qpkg t.qdie t.key t.kind t.s t.r)
      else s
    | none => s
  | none => s

/-- A collective chain that waits for the event queue pushes its record (R227). -/
def State.resumeCollEvent (s : State) (k ch : Nat) : State :=
  match s.strand? k with
  | none => s
  | some x =>
    let c := x.coll ch
    if ¬ x.save.free then s
    else if c.aborting then s.collAbortGoes k ch
    else if c.cstate ≠ .eventq ∨ ¬ x.eventTurn (128 + ch) then s
    else match c.event with
      | some e => ((s.pushFor k (128 + ch) e.toNat).modColl k ch CollChain.settled).pollEngines k
      | none => s.modColl k ch CollChain.settled

/-- EVENT_QUEUE_RESUME (R203, R227): copy chain ch, or collective chain ch - 128, waits for the event queue. -/
def execEventQueueResume (k ch : Nat) (s : State) : Host.Outcome State Fault Refusal :=
  .next (if ch < 128 then s.resumeCopyEvent k ch else s.resumeCollEvent k (ch - 128))

/-! ### The instructions -/

/-- CLAPP c (R232). -/
def execClapp (p : PMode) (c : BitVec 4) (a : Tgt) (s : State) : Host.Outcome State Fault Refusal :=
  .next (s.member p needL true a .none true none fun s =>
    match recordAddr s.fire.left, s.strand? s.fire.k with
    | .error (c, e), _ => .fault s c e
    | .ok _, none => .stay s
    | .ok v, some x =>
      let ch := x.coll c.toNat
      if ch.append = 0 then Try.complete (s.modColl s.fire.k c.toNat fun ch => { ch with first := v, append := v })
      else match s.dwrite x.ctx x.die ⟨x.lead, s.fire.req⟩ x.stamp s.fire.req true ch.append
          (leBytes 8 v) with
        | .wait u => .stay u
        | .fail u c va => .fault u c va
        | .ok (n, st, u) => .wait ((u.modStrand s.fire.k fun x => { x with stamp := st }).modColl s.fire.k c.toNat fun ch =>
            { ch with append := v }) .memory none [n])

/-- CLTAIL c (R232). -/
def execCltail (p : PMode) (c : BitVec 4) (a : Tgt) (s : State) : Host.Outcome State Fault Refusal :=
  .next (s.member p need0 true a .none false (some .package) fun s =>
    match s.strand? s.fire.k with
    | none => .stay s
    | some x => Try.complete (s.modColl s.fire.k c.toNat fun ch =>
        { ch with tail := ch.append, stamp := ch.stamp.join x.stamp }))

/-- CLSEQ c (R232). -/
def execClseq (p : PMode) (c : BitVec 4) (a : Tgt) (s : State) : Host.Outcome State Fault Refusal :=
  .next (s.tries p need0 true a .none fun s =>
    match s.strand? s.fire.k with
    | none => .stay s
    | some x => Try.tok s (Tok.i64 (x.coll c.toNat).status s.fire.marks))

/-- CLWAIT c (R230, R232). -/
def execClwait (p : PMode) (c : BitVec 4) (a : Tgt) (s : State) : Host.Outcome State Fault Refusal :=
  .next (s.tries p needL true a .none fun s =>
    match wordOperand s.fire.left with
    | .error c => .fault s c c
    | .ok v => s.tryEngine (.collSeq c.toNat (v % 2 ^ 32)))

/-- CLABRT c (R232). -/
def execClabrt (p : PMode) (c : BitVec 4) (a : Tgt) (s : State) : Host.Outcome State Fault Refusal :=
  .next (s.tries p need0 true a .none fun s =>
    let s := s.abortNotice s.fire.k c.toNat
    match s.abortColl s.fire.k c.toNat with
    | some t => Try.tok t (Tok.i64 (((t.strand? s.fire.k).map fun x => (x.coll c.toNat).status).getD 0) s.fire.marks)
    | none => .wait (s.modColl s.fire.k c.toNat fun ch => { ch with aborting := true }) (.abort (128 + c.toNat)) none [])

end Sys2Proof.Machine
end

