-- ==== Sys2Proof/Machine/Search.lean ====
section
/-! DEFINITION. Machine/Search.lean: the arithmetic and the data of Geode trees: node records (R277), scores (R281),
allocation (R278), descriptors and result elements (R283, R284). -/

namespace Sys2Proof.Machine

open Sys2Proof

/-! ### Node records -/

/-- A node of an arena (R277). -/
structure GNode where
  n : Nat
  w : Int
  p : Nat
  vl : Nat
  first : Nat
  count : Nat
  action : Nat
  parent : Nat
  expanded : Bool
  terminal : Bool
  free : Bool
  sat : Bool
  gen : Nat
  deriving DecidableEq, Repr

/-- No index (R277). -/
def noIndex : Nat := 2 ^ 32 - 1

/-- A record read (R277). -/
def GNode.ofBytes (bs : List Byte) : GNode :=
  let fl := fieldOf bs 28 1
  { n := fieldOf bs 0 4, w := signed 64 (fieldOf bs 4 8), p := fieldOf bs 12 2, vl := fieldOf bs 14 2,
    first := fieldOf bs 16 4, count := fieldOf bs 20 2, action := fieldOf bs 22 2, parent := fieldOf bs 24 4,
    expanded := bit fl 0, terminal := bit fl 1, free := bit fl 2, sat := bit fl 3, gen := fieldOf bs 29 3 }

/-- The flags byte of a record (R277). -/
def GNode.flags (g : GNode) : Nat :=
  (if g.expanded then 1 else 0) + (if g.terminal then 2 else 0) + (if g.free then 4 else 0) + if g.sat then 8 else 0

/-- The 32 bytes of a record (R277). -/
def GNode.bytes (g : GNode) : List Byte :=
  leBytes 4 g.n ++ leBytes 8 (wrap 64 g.w) ++ leBytes 2 g.p ++ leBytes 2 g.vl ++ leBytes 4 g.first ++ leBytes 2 g.count
    ++ leBytes 2 g.action ++ leBytes 4 g.parent ++ leBytes 1 g.flags ++ leBytes 3 g.gen

/-- A node as an expansion or GTROOT makes it (R286, R293). -/
def GNode.fresh (prior action parent gen : Nat) : GNode :=
  { n := 0, w := 0, p := prior, vl := 0, first := 0, count := 0, action := action, parent := parent, expanded := false,
    terminal := false, free := false, sat := false, gen := gen }

/-- Records of a block of the arena. -/
def nodesOf : Nat → List Byte → List GNode
  | 0, _ => []
  | n + 1, bs => GNode.ofBytes (bs.take 32) :: nodesOf n (bs.drop 32)

/-! ### Scores (R281) -/

/-- An F32 pattern of a value, rounded to nearest even. -/
def rneF32 (v : FVal) : Nat := (ffmt .f32).encode .rne v
/-- The value of an F32 pattern. -/
def valF32 (v : Nat) : FVal := (ffmt .f32).decode v
/-- An integer times 2^e as an exact value. -/
def FVal.ofInt (v : Int) (e : Int) : FVal := .fin (v < 0) v.natAbs e

/-- A quotient rounded once (R98). -/
def divF32 (x y : FVal) : Nat :=
  match x, y with
  | .nan, _ => rneF32 .nan
  | _, .nan => rneF32 .nan
  | .inf _, .inf _ => rneF32 .nan
  | .inf a, .fin b _ _ => rneF32 (.inf (a != b))
  | .fin a _ _, .inf b => rneF32 (.fin (a != b) 0 0)
  | .fin a m e, .fin b n g =>
    if n = 0 then rneF32 (if m = 0 then .nan else .inf (a != b))
    else if m = 0 then rneF32 (.fin (a != b) 0 0)
    else
      let k := Nat.log2 n + 64
      (ffmt .f32).round .rne (a != b) (m * 2 ^ k / n) (e - g - k) (m * 2 ^ k % n != 0)

/-- sp of a node (R281). -/
def scoreRoot (p : GNode) : Nat := (ffmt .f32).sqrt .rne (valF32 (rneF32 (FVal.ofInt ((p.n + p.vl : Nat) : Int) 0)))

/-- The score of a child (R281). -/
def scoreOf (t : Tree) (sp : Nat) (i : GNode) : FVal :=
  let m := i.n + i.vl
  let q := if m = 0 then t.fpu.toNat
    else
      let w := rneF32 (FVal.ofInt i.w (-32))
      let v := rneF32 (FVal.mul (FVal.ofInt i.vl 0) (valF32 t.vloss.toNat))
      divF32 (valF32 (rneF32 (FVal.add .rne (valF32 w) (valF32 v).neg))) (valF32 (rneF32 (FVal.ofInt m 0)))
  let cp := rneF32 (FVal.mul (valF32 t.c.toNat) (FVal.ofInt i.p (-16)))
  let u := divF32 (valF32 (rneF32 (FVal.mul (valF32 cp) (valF32 sp)))) (valF32 (rneF32 (FVal.ofInt ((1 + m : Nat) : Int) 0)))
  valF32 (rneF32 (FVal.add .rne (valF32 q) (valF32 u)))

/-- The offset of the chosen child (R281): the greatest score, equal scores to the lower index, a NaN never greater. -/
def choose (t : Tree) (p : GNode) (cs : List GNode) : Nat :=
  let sp := scoreRoot p
  let best := cs.zipIdx.foldl (fun (b : Option (FVal × Nat)) e =>
    let v := scoreOf t sp e.1
    match b with
    | none => if v.isNan then none else some (v, e.2)
    | some (w, _) => if !v.isNan && w.le v && !w.eqv v then some (v, e.2) else b) none
  (best.map (·.2)).getD 0

/-! ### Allocation (R278) -/

/-- A run put in its place by index. -/
def insertRun (r : Nat × Nat) : List (Nat × Nat) → List (Nat × Nat)
  | [] => [r]
  | q :: l => if r.1 < q.1 then r :: q :: l else q :: insertRun r l

/-- Runs that touch merged. -/
def mergeRuns : List (Nat × Nat) → List (Nat × Nat)
  | [] => []
  | r :: l =>
    match mergeRuns l with
    | [] => [r]
    | q :: m => if r.1 + r.2 = q.1 then (r.1, r.2 + q.2) :: m else r :: q :: m

/-- A run freed: merged on either side, and lowering `next` where it ends there (R278). -/
def Tree.freeRun (t : Tree) (first len : Nat) : Tree :=
  if len = 0 then t
  else
    let runs := mergeRuns (insertRun (first, len) t.runs)
    match runs.find? fun r => r.1 + r.2 == t.next with
    | some r => { t with runs := runs.filter fun q => q != r, next := r.1 }
    | none => { t with runs := runs }

/-- k records allocated (R278): the lowest run that holds them, else past `next`. -/
def Tree.alloc (t : Tree) (k : Nat) : Option (Nat × Tree) :=
  match t.runs.find? fun r => k ≤ r.2 with
  | some r => some (r.1, { t with runs := t.runs.filterMap fun q =>
      if q = r then (if q.2 = k then none else some (q.1 + k, q.2 - k)) else some q })
  | none => if t.next + k ≤ t.cap then some (t.next, { t with next := t.next + k }) else none

/-- What the head records of the free runs hold: index, length, next run (R277). -/
def Tree.heads (t : Tree) : List (Nat × Nat × Nat) :=
  t.runs.zipIdx.map fun e => (e.1.1, e.1.2, ((t.runs[e.2 + 1]?).map (·.1)).getD noIndex)

/-- Free records (R293). -/
def Tree.freeCount (t : Tree) : Nat := (t.runs.map (·.2)).sum + (t.cap - t.next)

/-- Address of a record (R276). -/
def Tree.at (t : Tree) (i : Nat) : Nat := t.base + 32 * i

/-! ### Descriptors and elements -/

/-- The ticket word (R283). -/
def ticketWord (slot serial tree : Nat) : Nat := slot % 64 + serial % 2 ^ 26 * 2 ^ 6 + tree % 16 * 2 ^ 32

/-- The eight lanes of a leaf descriptor (R283): `path` runs from the root to the leaf. -/
def descriptorLanes (slot serial tree leaf : Nat) (path : List GNode) : List Nat :=
  let depth := path.length - 1
  let acts := (path.drop 1).map (·.action)
  let term := (path.getLast?).any fun g => g.terminal
  ticketWord slot serial tree
    :: (leaf % 2 ^ 32 + depth % 2 ^ 16 * 2 ^ 32 + (if term then 2 ^ 48 else 0) + if 24 < depth then 2 ^ 49 else 0)
    :: (List.range 6).map fun l => lanesNat 16 ((List.range 4).map fun j => acts.getD (4 * l + j) 0)

/-- A result element's lanes 0 and 1 (R284): ticket slot, serial, tree, value, child count, terminal. -/
structure GElem where
  slot : Nat
  serial : Nat
  tree : Nat
  v : Nat
  k : Nat
  term : Bool
  deriving DecidableEq, Repr

/-- Lane i of 64 bits of a row. -/
def Row.lane64 (r : Row) (i : Nat) : Nat := r.data.toNat / 2 ^ (64 * i) % 2 ^ 64

/-- An element read, or none where it is malformed (R284, R294). -/
def elemOf (r : Row) : Option GElem :=
  let a := r.lane64 0
  let b := r.lane64 1
  if r.tag = .mark ∨ r.tag = .poison ∨ bits a 63 36 ≠ 0 ∨ bits b 63 41 ≠ 0 then none
  else some { slot := bits a 5 0, serial := bits a 31 6, tree := bits a 35 32, v := bits b 31 0, k := bits b 39 32,
              term := bit b 40 }

/-- Where an expansion finds its children (R284): in the row, or in a list; none where the element is malformed. -/
def childrenAt (r : Row) (k : Nat) : Option (List Nat ⊕ Nat) :=
  let f := r.data.toNat / 2 ^ 128
  if k ≤ 28 then
    if f / 2 ^ (32 * k) = 0 then some (.inl ((List.range k).map fun j => f / 2 ^ (32 * j) % 2 ^ 32)) else none
  else if f / 2 ^ 64 = 0 ∧ f % 64 = 0 then some (.inr (f % 2 ^ 64)) else none

/-- A value as Q32.32 (R287): rounded to an integer multiple of 2^-32 and clamped; none for NaN. -/
def q32 (v : Nat) : Option Int :=
  match valF32 v with
  | .nan => none
  | .inf neg => some (if neg then -(2 ^ 63 : Nat) else (2 ^ 63 - 1 : Nat))
  | .fin neg m e =>
    let n := roundAt .rne neg m e (-32) false
    some (clampS 64 (if neg then -(n : Int) else n))

/-- A node of a path backed up at depth d from the leaf (R287). -/
def GNode.backup (g : GNode) (alt : Bool) (d : Nat) (qv : Int) : GNode :=
  let w := g.w + if alt ∧ d % 2 = 1 then -qv else qv
  { g with n := min (g.n + 1) (2 ^ 32 - 1), w := clampS 64 w, vl := g.vl - 1,
           sat := g.sat || decide (2 ^ 32 - 1 < g.n + 1) || clampS 64 w != w }

end Sys2Proof.Machine
end

