-- ==== Sys2Proof/Machine/Geode.lean ====
section
/-! DEFINITION. Machine/Geode.lean: the Geode engine: group 0xB and its steps (R275 to R300). -/

namespace Sys2Proof.Machine

open Sys2Proof

/-! ### Trees, tickets and arena accesses -/

/-- Key of a tree among those of its context (R275). -/
def treeKey (d t : Nat) : Nat := 16 * (d % 4) + t % 16

/-- A bound tree. -/
def State.tree? (s : State) (c d t : Nat) : Option Tree := (s.ctx? c).bind fun x => look (treeKey d t) x.trees

/-- A bound tree set. -/
def State.setTree (s : State) (c d t : Nat) (g : Tree) : State :=
  s.modCtx c fun x => { x with trees := put (treeKey d t) g x.trees }

/-- A bound tree changed. -/
def State.modTree (s : State) (c d t : Nat) (f : Tree → Tree) : State :=
  s.modCtx c fun x => { x with trees := modAt (treeKey d t) f x.trees }

/-- Live tickets of a tree (R282). -/
def State.liveTickets (s : State) (c d t : Nat) : Nat :=
  ((s.die d).tickets.filter fun e => e.2.ctx == c && e.2.tree == t % 16).length

/-- The live ticket that an element names: slot, serial and tree agree (R282, R284). -/
def State.ticket? (s : State) (c d t : Nat) (e : GElem) : Option Ticket :=
  match look e.slot (s.die d).tickets with
  | some k => if k.serial = e.serial ∧ k.ctx = c ∧ k.tree = t % 16 ∧ e.tree = t % 16 then some k else none
  | none => none

/-- The state before a step that has to wait, with the walks that it has asked for. -/
def State.keepWalks (s u : State) : State :=
  { s with dies := Vector.ofFn fun (i : Fin 4) => { s.dies[i] with walks := u.dies[i].walks } }

/-- How the arena accesses of a step stand: to be tried again, a cause with its address, or done, with the words that
the step leaves. -/
inductive Arena where
  | wait (s : State)
  | fail (s : State) (cause va : Nat)
  | ok (s : State) (out : List Nat)

/-- Done without words. -/
def Arena.fine (s : State) : Arena := .ok s []

/-- The Geode engine as it works for the firing under way. -/
def Firing.geode (f : Firing) : Req := .geode f.k f.slot

/-- Bytes read by the engine for a tree (R279): the tree's stamp takes in what the homes know. -/
def State.geoRead (s : State) (x : Strand) (t va n : Nat) (f : State → List Byte → Arena) : Arena :=
  let st := (((s.tree? x.ctx x.die t).map fun g => g.stamp).getD Stamp.zero).join x.stamp
  if 2 ^ 56 < va + n then .fail s 0x06 va
  else match s.dread x.ctx x.die ⟨x.lead, s.fire.geode⟩ st .rd true va n with
    | .wait u => .wait u
    | .fail u c a => .fail u c a
    | .ok (bs, st, u) => f (u.modTree x.ctx x.die t fun g => { g with stamp := st }) bs

/-- What the engine has seen as it works on a tree (R279). -/
def State.treeStamp (s : State) (x : Strand) (t : Nat) : Stamp :=
  ((s.tree? x.ctx x.die t).map fun g => g.stamp).getD Stamp.zero

/-- Every range to be written translates (R79, R80), by walks that come after what `st` covers (R304). -/
def State.geoReach (s : State) (x : Strand) (t : Nat) (st : Stamp) : List (Nat × List Byte) → Arena
  | [] => .fine s
  | (va, bs) :: l =>
    if 2 ^ 56 < va + bs.length then .fail s 0x06 va
    else match s.reach x.ctx x.die ⟨x.lead, s.fire.geode⟩ st va bs.length with
      | .wait u => .wait u
      | .fail u c a => .fail u c a
      | .ok (st', _, u) => (u.modTree x.ctx x.die t fun g => { g with stamp := g.stamp.join st' }).geoReach x t st l

/-- One range that translates written (R279): the stamps of the tree and of the issuer take its numbers in. -/
def State.geoPut (s : State) (x : Strand) (k t : Nat) (w : Nat × List Byte) : State :=
  match s.physPieces x.ctx x.die ⟨x.lead, .nobody⟩ Stamp.zero .wr (pieces w.1 w.2.length) with
  | .ok ps =>
    let (st, u) := s.dsend x.die ((s.treeStamp x t).join x.stamp) (.geode k s.fire.slot) true ps w.2
    (u.modTree x.ctx x.die t fun g => { g with stamp := st }).modStrand k fun x => { x with stamp := x.stamp.join st }
  | .wait u => u
  | .fail u _ _ => u

/-- The writes of a step, all of them or none (R280). -/
def State.geoWrite (s : State) (x : Strand) (k t : Nat) (ws : List (Nat × List Byte)) (f : State → Arena) : Arena :=
  match s.geoReach x t ((s.treeStamp x t).join x.stamp) ws with
  | .ok s _ => f (ws.foldl (fun s w => s.geoPut x k t w) s)
  | r => r

/-- The head records of free runs that a change of the allocation state writes (R277). -/
def headWrites (a b : Tree) : List (Nat × List Byte) :=
  (b.heads.filter fun h => !a.heads.contains h).flatMap fun h =>
    [(b.at h.1 + 16, leBytes 4 h.2.2), (b.at h.1 + 24, leBytes 4 h.2.1 ++ leBytes 1 4)]

/-- The children of a node read (R277). -/
def State.childrenOf (s : State) (x : Strand) (g : Tree) (t : Nat) (p : GNode) (f : State → List GNode → Arena) : Arena :=
  s.geoRead x t (g.at p.first) (32 * p.count) fun s bs => f s (nodesOf p.count bs)

/-! ### The order of steps -/

/-- The instructions of group 0xB. -/
def isGeode : Instr → Bool
  | .gtinit .. | .gtroot .. | .gtdesc .. | .gtexp .. | .gtback .. | .gtvl .. | .gtread .. | .gtbest .. | .gtreroot ..
  | .gtfree .. | .gtstat .. | .gtparm .. => true
  | _ => false

/-- The strand's earlier Geode commands have completed (R280). -/
def Run.geodeTurn (r : Run) (f : Firing) : Bool :=
  r.nodes.all fun m =>
    f.slot ≤ m.slot || !((r.blk.instr? m.slot).any isGeode) || m.done != 0 || (m.fired == 0 && !r.alive.contains m.slot)

/-- A suspended block leaves nothing that a Geode command of its handler must follow (R116, R280): its commands that have
begun have completed, and its accesses have been performed. -/
def Run.geodeClear (r : Run) : Bool :=
  r.nodes.all fun m => (m.fired == 0 || m.done != 0 || !((r.blk.instr? m.slot).any isGeode)) && m.pend.all fun p => !p.isAccess

/-- The identity of the strand whose log record of kind 9 is the tree's first not yet consumed, with fuel (R337). -/
def State.firstGeode (s : State) (c d t : Nat) (x : Ctx) (top : Nat) : Nat → Nat → Option Nat
  | 0, _ => none
  | f + 1, u =>
    if top ≤ u then none
    else
      let h := s.logUnits c d x u 1
      let i := leNat (h.take 2)
      if fieldOf h 2 1 = 9 ∧ bits (fieldOf h 8 8) 19 16 = t % 16 ∧ bits i 12 11 = d % 4 ∧
          ((s.strand? (idKey i)).any fun y => decide (y.seqc.toNat ≤ fieldOf h 4 4)) then some i
      else s.firstGeode c d t x top f (u + max 1 (fieldOf h 3 1))

/-- A step of a command is logged with its index (R335), or in replay takes its place in the tree's order (R337); none
while it must wait for that. -/
def State.logStep (s : State) (k t j : Nat) : Option State :=
  match (s.strand? k).bind fun x => (s.ctx? x.ctx).map fun c => (x, c) with
  | none => some s
  | some (x, c) =>
    let top := c.rechead.toNat
    let start := if top ≤ 2 ^ ringSize c.recbuf then 0 else c.rectail.toNat
    if c.playing ∧ s.firstGeode x.ctx x.die t c top (2 ^ ringSize c.recbuf + 1) start ≠ some (strandId k) then none
    else (s.outcome k 9 (leBytes 8 (t % 16 * 2 ^ 16 + j % 2 ^ 28 * 2 ^ 20))).map (·.2)

/-! ### How commands end -/

/-- s31 of a misuse (R294). -/
def geoExtra (sub t i : Nat) : Nat := sub + t % 16 * 2 ^ 8 + i % 2 ^ 32 * 2 ^ 16

/-- The status word (R293). -/
def geoStatus (code done skipped : Nat) : Nat := code + done % 256 * 2 ^ 8 + skipped % 256 * 2 ^ 16

/-- An engine command stops with a cause (R94, R294): the trap and the POISON carry the strand's sequencer origin. -/
def Try.geo (s : State) (cause extra : Nat) : Try :=
  let o := seqOrigin s.fire.k 0
  let p : Item := .tok (Tok.poisonOf cause o s.fire.marks)
  .done (s.addTrap s.fire.k { cause := cause, origin := o, extra := extra, atExit := false }) (some p) none

/-- A command ends with a value. -/
def Try.value (s : State) (v : Nat) : Try := .done s (some (.tok (Tok.i64 v s.fire.marks))) none

/-- A command begins (R278, R280): its turn has come, the strand's earlier accesses have been performed, and traps of
lazy freeing that no issuer is left for are raised at this strand's next edge. -/
def State.geode (s : State) (p : PMode) (need : Firing → Bool) (a : Tgt) (t : Nat) (body : Strand → State → Try) : State :=
  s.firing p need true a .none <|
    match s.here? with
    | some (x, r, _) =>
      if r.geodeTurn s.fire && r.streamTurn x.region s.fire && x.susp.all Run.geodeClear then
        match body x s with
        | .stay u => u
        | r =>
          let owed := ((s.tree? x.ctx x.die t).map fun g => g.owed).getD []
          let u := State.begin true a .none r
          owed.foldl (fun u o => u.oweTrap u.fire.k
            { cause := o.1, origin := seqOrigin u.fire.k 0, extra := o.2, atExit := false })
            (u.modTree x.ctx x.die t fun g => { g with owed := [] })
      else s
    | none => s

/-- A whole command is one step (R280), logged and ordered among the tree's steps whatever it answers (R335, R337): where
it has to wait, nothing of it has happened. -/
def State.oneStep (s : State) (t : Nat) (f : State → Try) : Try :=
  match s.logStep s.fire.k t 0 with
  | none => .stay s
  | some u => match f u with
    | .stay v => .stay (s.keepWalks v)
    | r => r

/-- What the arena accesses of a command give. -/
def Arena.fin (r : Arena) (f : State → Try) : Try :=
  match r with
  | .wait v => .stay v
  | .fail v c a => Try.geo v c a
  | .ok v _ => f v

/-- Bytes that a command reads, with the stamp after them, or how it ends. -/
def Direct.geo (r : Direct (List Byte × Stamp × State)) (f : List Byte → Stamp → State → Try) : Try :=
  match r with
  | .wait v => .stay v
  | .fail v c a => Try.geo v c a
  | .ok (bs, st, v) => f bs st v

/-- The tree a command names; unbound gives status 0x05 (R293). -/
def State.onTree (s : State) (x : Strand) (t : Nat) (f : Tree → Try) : Try :=
  match s.tree? x.ctx x.die t with
  | some g => f g
  | none => Try.value s (geoStatus 5 0 0)

/-! ### Whole commands -/

/-- The tree that a record describes, or none where it is malformed (R276). -/
def treeOf (bs : List Byte) : Option Tree :=
  let f := fieldOf bs
  let nan := fun (o : Nat) => (valF32 (f o 4)).isNan
  if f 0 8 % 4096 = 0 ∧ f 0 8 < 2 ^ 56 ∧ 4 ≤ f 8 4 ∧ f 8 4 ≤ 2 ^ 28 ∧ f 8 4 ≤ f 12 4 ∧ f 12 4 ≤ 2 ^ 28 ∧ ¬ nan 16 ∧ ¬ nan 20
      ∧ ¬ nan 24 ∧ f 28 1 < 4 ∧ f 29 35 = 0 then
    some { base := f 0 8, cap := f 8 4, limit := f 12 4, c := BitVec.ofNat 32 (f 16 4), vloss := BitVec.ofNat 32 (f 20 4),
           fpu := BitVec.ofNat 32 (f 24 4), alt := bit (f 28 1) 0, grow := bit (f 28 1) 1, root := false, next := 0,
           runs := [], queue := [], gen := 1, owed := [], growing := false, stamp := Stamp.zero }
  else none

/-- GTINIT (R276, R293). -/
def tryGtinit (t : Nat) (x : Strand) (s : State) : Try :=
  match memAddr s.fire.left 64 with
  | .error (c, e) => .fault s c e
  | .ok va => s.oneStep t fun u =>
    if (u.tree? x.ctx x.die t).isSome then Try.value u (geoStatus 5 0 0)
    else (u.dread x.ctx x.die ⟨x.lead, s.fire.geode⟩ x.stamp .rd true va 64).geo fun bs st v =>
      match treeOf bs with
      | none => Try.geo v 0x0E (geoExtra 1 t 0)
      | some g => Try.value (v.setTree x.ctx x.die t { g with stamp := st }) (geoStatus 0 0 0)

/-- GTROOT (R293). -/
def tryGtroot (t : Nat) (x : Strand) (s : State) : Try :=
  match wordOperand s.fire.left with
  | .error c => .fault s c c
  | .ok n => s.oneStep t fun s => s.onTree x t fun g =>
    if s.liveTickets x.ctx x.die t ≠ 0 then Try.value s (geoStatus 2 0 0)
    else (s.geoWrite x s.fire.k t [(g.at 0, (GNode.fresh 0 (n % 2 ^ 16) noIndex g.gen).bytes)] fun s =>
        .fine (s.modTree x.ctx x.die t fun g => { g with root := true, next := 1, runs := [], queue := [] })).fin
      fun s => Try.value s (geoStatus 0 0 0)

/-- Field f of a record (R293). -/
def GNode.field (g : GNode) (f : Nat) : Nat :=
  [g.n, wrap 64 g.w, g.p, g.vl, g.first, g.count, g.action, g.parent, g.flags, g.gen].getD f 0

/-- A command that reads the node whose index it is given and emits a value computed from what it reads. -/
def State.nodeRead (s : State) (x : Strand) (t : Nat) (f : State → Tree → GNode → (State → Nat → Try) → Try) : Try :=
  match wordOperand s.fire.left with
  | .error c => .fault s c c
  | .ok i => s.oneStep t fun s => s.onTree x t fun g =>
    if g.cap ≤ i then Try.geo s 0x0E (geoExtra 2 t i)
    else (s.dread x.ctx x.die ⟨x.lead, s.fire.geode⟩ (g.stamp.join x.stamp) .rd true (g.at i) 32).geo fun bs st v =>
      f (v.modTree x.ctx x.die t fun g => { g with stamp := st }) g (GNode.ofBytes bs) Try.value

/-- GTREAD (R293). -/
def tryGtread (f t : Nat) (x : Strand) (s : State) : Try := s.nodeRead x t fun s _ n fin => fin s (n.field f)

/-- Offset of the child with the greatest N, then the greatest W, then the lower index (R293). -/
def bestChild (cs : List GNode) : Nat :=
  match cs.zipIdx with
  | [] => 0
  | e :: l => (l.foldl (fun b c => if b.1.n < c.1.n ∨ (b.1.n = c.1.n ∧ b.1.w < c.1.w) then c else b) e).2

/-- GTBEST (R293). -/
def tryGtbest (t : Nat) (x : Strand) (s : State) : Try :=
  s.nodeRead x t fun u g n fin =>
    if ¬ n.expanded ∨ n.count = 0 then fin u (2 ^ 64 - 1)
    else (u.dread x.ctx x.die ⟨x.lead, s.fire.geode⟩ (g.stamp.join x.stamp) .rd true (g.at n.first) (32 * n.count)).geo
      fun bs _ v => fin v (n.first + bestChild (nodesOf n.count bs))

/-- What GTREROOT does once it is known to keep child `c`, the j-th child of the root (R289). -/
def State.reroot (s : State) (x : Strand) (k t : Nat) (g : Tree) (root : GNode) (cs : List GNode) (j : Nat) (c : GNode) : Arena :=
  let gen := (g.gen + 1) % 2 ^ 24
  let kids := (List.range (if c.expanded then c.count else 0)).map fun i => (g.at (c.first + i) + 24, leBytes 4 0)
  let blocks := (cs.zipIdx.filter fun e => e.2 != j && e.1.expanded).map fun e => (e.1.first, e.1.count, k)
  let h := { g.freeRun root.first root.count with gen := gen, queue := g.queue ++ blocks }
  s.geoWrite x k t ([(g.at 0, ({ c with parent := noIndex, gen := gen } : GNode).bytes)] ++ kids ++ headWrites g h) fun s =>
    .fine (s.modTree x.ctx x.die t fun g => { h with stamp := g.stamp, owed := g.owed })

/-- GTREROOT (R289). -/
def tryGtreroot (t : Nat) (x : Strand) (s : State) : Try :=
  match wordOperand s.fire.left with
  | .error c => .fault s c c
  | .ok i => s.oneStep t fun s => s.onTree x t fun g =>
    let bad := fun (s : State) (c : Nat) => Try.value s (geoStatus c 0 0)
    if s.liveTickets x.ctx x.die t ≠ 0 then bad s 2
    else if ¬ g.root then bad s 3
    else (s.dread x.ctx x.die ⟨x.lead, s.fire.geode⟩ (g.stamp.join x.stamp) .rd true (g.at 0) 32).geo fun bs _ v =>
      let root := GNode.ofBytes bs
      if ¬ root.expanded ∨ i < root.first ∨ root.first + root.count ≤ i then bad v 3
      else (v.childrenOf x g t root fun w cs =>
          w.reroot x s.fire.k t g root cs (i - root.first) (cs.getD (i - root.first) root)).fin fun w => bad w 0

/-- GTFREE (R293). -/
def tryGtfree (t : Nat) (x : Strand) (s : State) : Try :=
  s.oneStep t fun s => s.onTree x t fun _ =>
    if s.liveTickets x.ctx x.die t ≠ 0 then Try.value s (geoStatus 2 0 0)
    else Try.value (s.modCtx x.ctx fun c => { c with trees := del (treeKey x.die t) c.trees }) (geoStatus 0 0 0)

/-- GTSTAT (R293). -/
def tryGtstat (i t : Nat) (x : Strand) (s : State) : Try :=
  s.oneStep t fun s => s.onTree x t fun g =>
    Try.value s ([g.next, g.cap, g.freeCount, s.liveTickets x.ctx x.die t, (g.queue.map fun b => b.2.1).sum, g.gen].getD i 0)

/-- The operand of GTPARM (R293). -/
def parmOperand (q : Nat) (o : Option Tok) : Except Nat Nat :=
  if q = 3 then wordOperand o
  else match o with
    | some t => if t.tag = .f32 ∧ t.scalar then .ok (t.lane 32 0) else .error 0x03
    | none => .error 0x03

/-- A parameter set (R293). -/
def Tree.setParm (g : Tree) (q v : Nat) : Tree :=
  match q with
  | 0 => { g with c := BitVec.ofNat 32 v }
  | 1 => { g with vloss := BitVec.ofNat 32 v }
  | 2 => { g with fpu := BitVec.ofNat 32 v }
  | _ => { g with alt := bit v 0, grow := bit v 1 }

/-- GTPARM (R293, R294). -/
def tryGtparm (q t : Nat) (x : Strand) (s : State) : Try :=
  match parmOperand q s.fire.left with
  | .error c => .fault s c c
  | .ok v => s.oneStep t fun s => s.onTree x t fun _ =>
    if q = 3 ∧ 3 < v then Try.geo s 0x0E (geoExtra 1 t 0)
    else if q ≠ 3 ∧ (valF32 v).isNan then Try.value s (geoStatus 4 0 0)
    else Try.value (s.modTree x.ctx x.die t fun g => g.setParm q v) (geoStatus 0 0 0)

/-! ### Commands of several steps -/

/-- Where the descriptors of a GTDESC go (R285): the owner and entry of the receiving window, and whether through a
channel; none where entry w does not suit. -/
def State.descDest (s : State) (x : Strand) (k w : Nat) : Option (Nat × Nat × Bool) :=
  match x.fillDest k w with
  | some (j, e, chan) =>
    match s.win? j e with
    | some v => if (v.tag = .i64 ∨ v.tag = .raw) ∧ 64 ≤ v.elem ∧ (chan ∨ (v.state = .opened ∧ v.filler.toNat = strandId k))
                then some (j, e, chan) else none
    | none => none
  | none => none

/-- Whether entry w suits GTEXP, GTBACK or GTVL (R285). -/
def Strand.elemOk (x : Strand) (k w least : Nat) : Bool :=
  (look w x.wins).any fun v => v.drainer.toNat == strandId k && (v.tag == .i64 || v.tag == .raw) && decide (least ≤ v.elem)

/-- The window of a command goes back to its strand (R285). -/
def State.geodeWin (s : State) (k w : Nat) (fill : Bool) : State :=
  s.modWin k w fun v =>
    let me := BitVec.ofNat 16 (engineIdent 3 (k / 256) v.tile)
    if fill ∧ v.filler = me then { v with filler := BitVec.ofNat 16 (strandId k) }
    else if ¬ fill ∧ v.drainer = me then { v with drainer := BitVec.ofNat 16 (strandId k) }
    else v

/-- GTDESC, GTEXP, GTBACK and GTVL begin (R282, R285 to R288): n, the tree, the window, the root; then the engine fills
or drains the window for the length of the command. -/
def tryGeoLoop (w t : Nat) (fill : Bool) (least : Nat) (x : Strand) (s : State) : Try :=
  let k := s.fire.k
  match wordOperand s.fire.left with
  | .error c => .fault s c c
  | .ok n => s.onTree x t fun g =>
    if n = 0 ∨ 64 < n then Try.geo s 0x0E (geoExtra 5 t 0)
    else if (if fill then (s.descDest x k w).isNone else !x.elemOk k w least) then Try.geo s 0x0E (geoExtra 4 t 0)
    else if fill ∧ ¬ g.root then Try.value s (geoStatus 3 0 0)
    else
      let own := fill && (s.descDest x k w).any fun e => !e.2.2
      let s := s.modWin k w fun v =>
        let me := BitVec.ofNat 16 (engineIdent 3 x.die v.tile)
        if own then { v with filler := me } else if fill then v else { v with drainer := me }
      .wait s (.geode t 0 0 k w) none [0, 0, 0]

/-- A command of several steps stops with a cause at its step (R294): earlier steps stand. -/
def Try.geoStop (s : State) (w : Nat) (fill : Bool) (cause extra : Nat) : Try :=
  Try.geo (s.geodeWin s.fire.k w fill) cause extra

/-- It ends with a status. -/
def Try.geoEnd (s : State) (w : Nat) (fill : Bool) (code done skipped : Nat) : Try :=
  Try.value (s.geodeWin s.fire.k w fill) (geoStatus code done skipped)

/-- How many steps a command takes (R293). -/
def stepCount (f : Firing) : Nat := match wordOperand f.left with
  | .ok n => n
  | .error _ => 0

/-- The descent from a node (R281, R282), with fuel: the path from the root and its records, newest first. -/
def State.descend (s : State) (x : Strand) (g : Tree) (t : Nat) :
    Nat → List (Nat × GNode) → (State → List (Nat × GNode) → Arena) → Arena
  | 0, path, k => k s path
  | f + 1, path, k =>
    match path with
    | [] => k s path
    | (_, n) :: _ =>
      if n.expanded ∧ ¬ n.terminal ∧ n.count ≠ 0 then
        s.childrenOf x g t n fun s cs =>
          let j := choose g n cs
          s.descend x g t f ((n.first + j, cs.getD j n) :: path) k
      else k s path

/-- One descent (R282): the ticket is live and the descriptor waits to be filled. -/
def State.descent (s : State) (x : Strand) (w t slot : Nat) (g : Tree) (prog : List Nat) : Try :=
  let k := s.fire.k
  let d := x.die
  match s.logStep k t (prog.headD 0) with
  | none => .stay s
  | some u =>
    let r := u.geoRead x t (g.at 0) 32 fun u bs =>
      u.descend x g t g.cap [(0, GNode.ofBytes bs)] fun u path =>
        u.geoWrite x k t (path.map fun e => (g.at e.1 + 14, leBytes 2 (e.2.vl + 1))) fun u =>
          let y := u.die d
          let leaf := (path.headD (0, GNode.ofBytes bs)).1
          let lanes := descriptorLanes slot y.serial.toNat t leaf (path.reverse.map (·.2))
          let tk : Ticket :=
            { serial := y.serial.toNat, ctx := x.ctx, tree := t % 16, leaf := leaf, issuer := k, order := y.order }
          let u := u.modDie d fun y =>
            { y with serial := y.serial + 1, order := y.order + 1, tickets := put slot tk y.tickets }
          .ok u lanes
    match r with
    | .wait v => .stay (s.keepWalks v)
    | .fail v c a => Try.geoStop v w true c a
    | .ok v lanes => .wait v (.geode t 0 0 k w) none ([prog.headD 0, 1, 0] ++ lanes)

/-- A descriptor fill (R283, R285), in its turn among the fills of the block (R146): the receiving window, the progress of
the command. -/
def State.descFill (s : State) (w t : Nat) (prog : List Nat) : Try :=
  let k := s.fire.k
  let row := Tok.vectorOf .i64 (prog.drop 3) 0
  let s := (s.strand? k).elim s fun x => s.sees k (s.treeStamp x t)
  if ¬ (s.strand? k).any (fun x => x.run.any fun r => r.fillTurn x.region s.fire w) then .wait s (.geode t 0 0 k w) none prog
  else match (s.strand? k).bind fun x => x.fillDest k w with
  | none => Try.geoStop s w true 0x07 (windowExtra 0x03 w)
  | some (j, e, chan) =>
    match s.win? j e with
    | none => Try.geoStop s w true 0x07 (windowExtra 0x03 w)
    | some v =>
      let waits := Why.geode t 2 v.extent j e
      if prog.getD 1 0 = 2 then .wait s waits none prog
      else if v.eos then Try.geoStop s w true 0x07 (windowExtra 0x05 w)
      else if chan then
        let f : Fill := { k := k, hand := s.fire.hand, copy := 0, slot := s.fire.slot, row := v.rowOf row, marker := false
                          fits := (FillBody.tok row).fits v, stamp := s.stampOf k }
        .wait (s.modWin j e fun v => { v with link := v.link ++ [f] }) waits none (prog.set 1 2)
      else if ¬ s.openTo j ∨ (v.frow = 0 ∧ v.free = 0) then .wait s waits none prog
      else .wait (s.fillBy k j e fun v => v.putRow (v.rowOf row)) (.geode t 0 0 k w) none [prog.headD 0 + 1, 0, 0]

/-- GTDESC goes on (R282): a descent once a slot is free, its descriptor, or the end. -/
def tryDescent (w t : Nat) (prog : List Nat) (s : State) : Try :=
  match s.strand? s.fire.k with
  | none => .stay s
  | some x =>
    if prog.getD 1 0 ≠ 0 then s.descFill w t prog
    else if stepCount s.fire ≤ prog.headD 0 then Try.geoEnd s w true 0 (prog.headD 0) 0
    else match s.tree? x.ctx x.die t with
      | none => Try.geoEnd s w true 5 (prog.headD 0) 0
      | some g =>
        if ¬ g.root then Try.geoEnd s w true 3 (prog.headD 0) 0
        else match freeKey 64 (s.die x.die).tickets with
          | none => .wait s (.geode t 1 0 s.fire.k w) none prog
          | some slot => s.descent x w t slot g prog

/-- A waiting command of several steps goes on. -/
def State.geodeGoes (s : State) (k slot : Nat) (f : Instr → Option (List Nat → State → Try)) : State :=
  match s.oldest? k 0 slot with
  | none => s
  | some (_, i, p) =>
    match p.why, f i with
    | .geode _ _ _ _ _, some t => s.again p true (tgtA i) .none (t p.prog)
    | _, _ => s

/-- GEODE_DESCENT (R280, R282). -/
def execGeodeDescent (k slot : Nat) (s : State) : Host.Outcome State Fault Refusal :=
  .next (s.geodeGoes k slot fun i => match i with
    | .gtdesc _ w t _ => some (tryDescent w.toNat t.toNat)
    | _ => none)

/-- The element of a step, at an offset from the head (R284, R285): it waits until it is there; an element that cannot
be read or is malformed stops the command. -/
def State.element (s : State) (x : Strand) (w t off j : Nat) (f : State → Row → GElem → Try) : Try :=
  match look w x.wins with
  | none => Try.geoStop s w false 0x0E (geoExtra 4 t j)
  | some v =>
    if v.extent ≤ off then .wait s (.geode t 3 off s.fire.k w) none []
    else match s.readRow x w v off 0 (off * v.rpe) 0 fun s _ => .stay s with
      | .fault u c e => Try.geoStop u w false c e
      | .stay u =>
        match elemOf (v.row off 0) with
        | none => Try.geoStop u w false 0x0E (geoExtra 3 t j)
        | some g => f (u.readElems s.fire.k v off 1) (v.row off 0) g
      | r => r

/-- The next step of a command over elements, of progress [index, done, skipped]: it ends, waits for its element, or
performs the step, which `f` gives with the state once logged. -/
def State.elements (s : State) (w t : Nat) (prog : List Nat) (atHead : Bool)
    (f : Strand → Tree → State → Row → GElem → Try) : Try :=
  let (j, done, skipped) := (prog.headD 0, prog.getD 1 0, prog.getD 2 0)
  match s.strand? s.fire.k with
  | none => .stay s
  | some x =>
    if stepCount s.fire ≤ j then Try.geoEnd s w false 0 done skipped
    else match s.tree? x.ctx x.die t with
      | none => Try.geoEnd s w false 5 done skipped
      | some g =>
        match s.element x w t (if atHead then 0 else j) j fun u row e =>
            match u.logStep u.fire.k t j with
            | none => .stay s
            | some u => f ((u.strand? u.fire.k).getD x) g u row e with
        | .wait u why a [] => .wait u why a prog
        | r => r

/-- A step is over: the next element, with one more done or skipped; GTBACK and GTVL shrink by one (R285). -/
def Try.nextElem (s : State) (w t : Nat) (prog : List Nat) (atHead did : Bool) : Try :=
  let s := if atHead then ((s.strand? s.fire.k).elim s fun x => s.sees s.fire.k (s.treeStamp x t)).shrinkWin s.fire.k w 1
    else s
  let (j, nd, ns) := (prog.headD 0, prog.getD 1 0, prog.getD 2 0)
  .wait s (.geode t 0 0 s.fire.k w) none (if did then [j + 1, nd + 1, ns] else [j + 1, nd, ns + 1])

/-- The writes of a step, then what follows; a step that has to wait has not begun. -/
def Arena.then (s : State) (w : Nat) (r : Arena) (f : State → Try) : Try :=
  match r with
  | .wait v => .stay (s.keepWalks v)
  | .fail v c a => Try.geoStop v w false c a
  | .ok v _ => f v

/-- The records that an expansion writes (R286). -/
def expandWrites (g h : Tree) (first : Nat) (ps : List Nat) (leaf : Nat) (n : GNode) (term : Bool) : List (Nat × List Byte) :=
  headWrites g h
    ++ [(g.at first, ps.flatMap fun v => (GNode.fresh (v % 2 ^ 16) (v / 2 ^ 16 % 2 ^ 16) leaf g.gen).bytes),
        (g.at leaf, ({ n with first := first, count := ps.length, expanded := true, terminal := term } : GNode).bytes)]

/-- The context's arenas grow with Jasper's help (R292, R347). -/
def Ctx.growsByHost (c : Ctx) : Bool := bit c.hamode.toNat 1

/-- Kind of a post to Jasper for arena growth (R292). -/
def postGrowKind : Nat := 5

/-- An expansion of k children that finds no space (R286, R292). -/
def State.noSpace (s u : State) (x : Strand) (w t : Nat) (g : Tree) (prog : List Nat) : Try :=
  if g.grow ∧ g.cap < g.limit ∧ (s.ctx? x.ctx).any Ctx.growsByHost then
    let s := (s.modTree x.ctx x.die t fun g => { g with growing := true }).modCtx x.ctx fun c =>
      if c.posts.contains (postGrowKind, treeKey x.die t) then c
      else { c with posts := c.posts ++ [(postGrowKind, treeKey x.die t)] }
    .wait s (.geode t 5 0 s.fire.k w) none prog
  else Try.geoEnd u w false 1 (prog.getD 1 0) (prog.getD 2 0)

/-- One element of GTEXP (R286), from the state s before the step and u with it logged. -/
def State.expand (s : State) (w t : Nat) (prog : List Nat) (x : Strand) (g : Tree) (u : State) (row : Row) (e : GElem) : Try :=
  let k := s.fire.k
  match childrenAt row e.k with
  | none => Try.geoStop s w false 0x0E (geoExtra 3 t (prog.headD 0))
  | some src =>
    match u.ticket? x.ctx x.die t e with
    | none => Try.nextElem u w t prog false false
    | some tk =>
      match u.dread x.ctx x.die ⟨x.lead, s.fire.geode⟩ (g.stamp.join x.stamp) .rd true (g.at tk.leaf) 32 with
      | .wait v => .stay (s.keepWalks v)
      | .fail v c a => Try.geoStop v w false c a
      | .ok (bs, st, v) =>
        let v := v.modTree x.ctx x.die t fun g => { g with stamp := st }
        let n := GNode.ofBytes bs
        if n.expanded ∨ n.terminal then Try.nextElem v w t prog false false
        else if e.k = 0 then
          Arena.then s w (v.geoWrite x k t [(g.at tk.leaf, ({ n with terminal := e.term } : GNode).bytes)] .fine) fun v =>
            Try.nextElem v w t prog false true
        else if g.queue ≠ [] then .wait s (.geode t 4 0 k w) none prog
        else match g.alloc e.k with
          | none => s.noSpace v x w t g prog
          | some (first, h) =>
            let fin := fun (v : State) (ps : List Nat) =>
              v.geoWrite x k t (expandWrites g h first ps tk.leaf n e.term) fun v =>
                .fine (v.modTree x.ctx x.die t fun g => { h with stamp := g.stamp, owed := g.owed })
            let r := match src with
              | .inl ps => fin v ps
              | .inr va => v.geoRead x t va (4 * e.k) fun v bs =>
                  fin v ((List.range e.k).map fun i => fieldOf bs (4 * i) 4)
            Arena.then s w r fun v => Try.nextElem v w t prog false true

/-- GTEXP goes on (R286). Progress with a fourth number: Jasper has declined to let the arena grow, and the element's step
ends the command once it is logged (R292, R335). -/
def tryExpand (w t : Nat) (prog : List Nat) (s : State) : Try :=
  if prog.getD 3 0 = 1 then
    match s.logStep s.fire.k t (prog.headD 0) with
    | none => .stay s
    | some u => Try.geoEnd u w false 1 (prog.getD 1 0) (prog.getD 2 0)
  else s.elements w t prog false fun x g u row e => s.expand w t prog x g u row e

/-- A GTEXP that waits goes on. -/
def State.expandGoes (s : State) (k slot : Nat) : State :=
  s.geodeGoes k slot fun i => match i with
    | .gtexp _ w t _ => some (tryExpand w.toNat t.toNat)
    | _ => none

/-- GEODE_EXPAND_ELEMENT (R286). -/
def execGeodeExpandElement (k slot : Nat) (s : State) : Host.Outcome State Fault Refusal := .next (s.expandGoes k slot)

/-- The path of a ticket from its leaf to the root, with fuel (R282): each record changed by `f` at its depth from the
leaf. -/
def State.pathWrites (s : State) (x : Strand) (g : Tree) (t : Nat) (f : Nat → GNode → GNode) :
    Nat → Nat → Nat → List (Nat × List Byte) → (State → List (Nat × List Byte) → Arena) → Arena
  | 0, _, _, ws, k => k s ws
  | m + 1, y, d, ws, k =>
    s.geoRead x t (g.at y) 32 fun s bs =>
      let n := GNode.ofBytes bs
      let ws := ws ++ [(g.at y, (f d n).bytes)]
      if y = 0 then k s ws else s.pathWrites x g t f m n.parent (d + 1) ws k

/-- One element of GTBACK or GTVL (R287, R288). -/
def State.withdraw (s : State) (w t : Nat) (prog : List Nat) (back : Bool) (x : Strand) (g : Tree) (u : State) (e : GElem) : Try :=
  let k := s.fire.k
  match u.ticket? x.ctx x.die t e with
  | none => Try.nextElem u w t prog true false
  | some tk =>
    match (if back then q32 e.v else some 0) with
    | none => Try.geoEnd u w false 4 (prog.getD 1 0) (prog.getD 2 0)
    | some qv =>
      let f := fun (d : Nat) (n : GNode) => if back then n.backup g.alt d qv else { n with vl := n.vl - 1 }
      Arena.then s w (u.pathWrites x g t f (g.cap + 1) tk.leaf 0 [] fun u ws => u.geoWrite x k t ws .fine) fun v =>
        Try.nextElem (v.modDie x.die fun y => { y with tickets := del e.slot y.tickets }) w t prog true true

/-- GTBACK and GTVL go on (R287, R288). -/
def tryWithdraw (back : Bool) (w t : Nat) (prog : List Nat) (s : State) : Try :=
  s.elements w t prog true fun x g u _ e => s.withdraw w t prog back x g u e

/-- GEODE_BACKUP_ELEMENT (R287). -/
def execGeodeBackupElement (k slot : Nat) (s : State) : Host.Outcome State Fault Refusal :=
  .next (s.geodeGoes k slot fun i => match i with
    | .gtback _ w t _ => some (tryWithdraw true w.toNat t.toNat)
    | _ => none)

/-- GEODE_VL_ELEMENT (R288). -/
def execGeodeVlElement (k slot : Nat) (s : State) : Host.Outcome State Fault Refusal :=
  .next (s.geodeGoes k slot fun i => match i with
    | .gtvl _ w t _ => some (tryWithdraw false w.toNat t.toNat)
    | _ => none)

/-! ### Lazy freeing and host growth -/

/-- A strand that stands for the engine itself where it frees lazily: die d, context c. -/
def engineStrand (c d : Nat) : Strand := { Strand.init with ctx := c, die := d }

/-- A fault of lazy freeing (R278): the block is dropped, and the trap goes to its issuer or waits for the next. -/
def State.lazyFault (s : State) (c d t issuer cause va : Nat) (q : List (Nat × Nat × Nat)) : State :=
  let s := s.modTree c d t fun g => { g with queue := q }
  if (s.strand? issuer).any fun x => x.ctx == c then
    s.oweTrap issuer { cause := cause, origin := seqOrigin issuer 0, extra := va, atExit := false }
  else s.modTree c d t fun g => { g with owed := g.owed ++ [(cause, va)] }

/-- LAZY_FREE (R278): the first block of a tree's queue. The latch stands for the engine meanwhile. -/
def execLazyFree (d c t : Nat) (s : State) : Host.Outcome State Fault Refusal :=
  let old := s.fire
  let s := { s with fire := { Firing.zero with k := 1024 + d % 4, slot := 16 * c + t } }
  let u := (match s.tree? c d t with
    | none => s
    | some g =>
      match g.queue with
      | [] => s
      | (first, n, issuer) :: q =>
        let x := engineStrand c d
        match s.geoRead x t (g.at first) (32 * n) fun u bs =>
            let more := ((nodesOf n bs).filter fun (m : GNode) => m.expanded).map fun (m : GNode) => (m.first, m.count, issuer)
            let h := { g.freeRun first n with queue := q ++ more }
            u.geoWrite x 1024 t (headWrites g h) fun u =>
              .fine (u.modTree c d t fun g => { h with stamp := g.stamp }) with
        | .wait v => s.keepWalks v
        | .fail v e va => v.lazyFault c d t issuer e va q
        | .ok v _ => v)
  .next { u with fire := old }

/-- Operations in flight of a die and context that wait for a tree's growth. -/
def State.growWaits (s : State) (c d t : Nat) : List Pend :=
  s.strands.flatMap fun (_, x) =>
    if x.ctx = c ∧ x.die % 4 = d % 4 then
      ([x.run, x.susp].filterMap id).flatMap fun r => r.nodes.flatMap fun n => n.pend.filter fun p => match p.why with
        | .geode u 5 _ _ _ => u == t % 16
        | _ => false
    else []

/-- One wait for growth ends (R292): the allocation is tried again, or fails with status 0x01, at once where its step can be
logged (R335). -/
def State.growEnd (raised : Bool) (s : State) (p : Pend) : State :=
  match p.why with
  | .geode t _ _ k w =>
    let s := (s.endWait p).modPend p fun q =>
      { q with why := .geode t 0 0 k w, prog := if raised then q.prog else q.prog ++ [1], reg := false }
    if raised then s else s.expandGoes p.fire.k p.fire.slot
  | _ => s

/-- HOST_GROWTH (R292): Jasper has raised a tree's capacity, at most to the limit, or declines. -/
def execHostGrowth (d c t : Nat) (cap : Option Nat) (s : State) : Host.Outcome State Fault Refusal :=
  .next (match s.tree? c d t with
    | none => s
    | some g =>
      if ¬ g.growing then s
      else
        let raise := cap.filter fun n => decide (g.cap < n ∧ n ≤ g.limit)
        let ps := s.growWaits c d t
        let s := (s.modTree c d t fun g => { g with growing := false, cap := raise.getD g.cap }).modCtx c fun c =>
          { c with posts := c.posts.erase (postGrowKind, treeKey d t) }
        ps.foldl (State.growEnd raise.isSome) s)

/-! ### The end of a block or strand -/

/-- The Geode commands of a block that will not go on are given up where they stand (R119): their windows return. -/
def State.dropGeode (s : State) (r : Run) : State :=
  r.nodes.foldl (fun s n => n.pend.foldl (fun s p =>
    match p.why, r.blk.instr? n.slot with
    | .geode _ _ _ _ _, some (.gtdesc _ w _ _) => s.geodeWin p.fire.k w.toNat true
    | .geode _ _ _ _ _, some (.gtexp _ w _ _) | .geode _ _ _ _ _, some (.gtback _ w _ _)
    | .geode _ _ _ _ _, some (.gtvl _ w _ _) => s.geodeWin p.fire.k w.toNat false
    | _, _ => s) s) s

/-- Tickets and queued blocks of a strand that has ended have no issuer any more (R278, R291). -/
def State.orphan (s : State) (k : Nat) : State :=
  { s with
    dies := s.dies.map fun (y : Die) => { y with tickets := y.tickets.map fun e =>
      if e.2.issuer = k then (e.1, { e.2 with issuer := 1024 }) else e }
    ctxs := s.ctxs.map fun c => (c.1, { c.2 with trees := c.2.trees.map fun e =>
      (e.1, { e.2 with queue := e.2.queue.map fun b => if b.2.2 = k then (b.1, b.2.1, 1024) else b }) }) }

/-! ### The instructions -/

/-- GTINIT t (R293). -/
def execGtinit (p : PMode) (t : BitVec 4) (a : Tgt) (s : State) : Host.Outcome State Fault Refusal :=
  .next (s.geode p needL a t.toNat (tryGtinit t.toNat))

/-- GTROOT t (R293). -/
def execGtroot (p : PMode) (t : BitVec 4) (a : Tgt) (s : State) : Host.Outcome State Fault Refusal :=
  .next (s.geode p needL a t.toNat (tryGtroot t.toNat))

/-- GTDESC t, w (R282, R293). -/
def execGtdesc (p : PMode) (w : BitVec 6) (t : BitVec 4) (a : Tgt) (s : State) : Host.Outcome State Fault Refusal :=
  .next (s.geode p needL a t.toNat (tryGeoLoop w.toNat t.toNat true 64))

/-- GTEXP t, w (R286, R293). -/
def execGtexp (p : PMode) (w : BitVec 6) (t : BitVec 4) (a : Tgt) (s : State) : Host.Outcome State Fault Refusal :=
  .next (s.geode p needL a t.toNat (tryGeoLoop w.toNat t.toNat false 128))

/-- GTBACK t, w (R287, R293). -/
def execGtback (p : PMode) (w : BitVec 6) (t : BitVec 4) (a : Tgt) (s : State) : Host.Outcome State Fault Refusal :=
  .next (s.geode p needL a t.toNat (tryGeoLoop w.toNat t.toNat false 64))

/-- GTVL t, w (R288, R293). -/
def execGtvl (p : PMode) (w : BitVec 6) (t : BitVec 4) (a : Tgt) (s : State) : Host.Outcome State Fault Refusal :=
  .next (s.geode p needL a t.toNat (tryGeoLoop w.toNat t.toNat false 64))

/-- GTREAD t, f (R293). -/
def execGtread (p : PMode) (f : BitVec 6) (t : BitVec 4) (a : Tgt) (s : State) : Host.Outcome State Fault Refusal :=
  .next (s.geode p needL a t.toNat (tryGtread f.toNat t.toNat))

/-- GTBEST t (R293). -/
def execGtbest (p : PMode) (t : BitVec 4) (a : Tgt) (s : State) : Host.Outcome State Fault Refusal :=
  .next (s.geode p needL a t.toNat (tryGtbest t.toNat))

/-- GTREROOT t (R289, R293). -/
def execGtreroot (p : PMode) (t : BitVec 4) (a : Tgt) (s : State) : Host.Outcome State Fault Refusal :=
  .next (s.geode p needL a t.toNat (tryGtreroot t.toNat))

/-- GTFREE t (R293). -/
def execGtfree (p : PMode) (t : BitVec 4) (a : Tgt) (s : State) : Host.Outcome State Fault Refusal :=
  .next (s.geode p needL a t.toNat (tryGtfree t.toNat))

/-- GTSTAT t, i (R293). -/
def execGtstat (p : PMode) (i : BitVec 6) (t : BitVec 4) (a : Tgt) (s : State) : Host.Outcome State Fault Refusal :=
  .next (s.geode p needL a t.toNat (tryGtstat i.toNat t.toNat))

/-- GTPARM t, p (R293). -/
def execGtparm (p : PMode) (q : BitVec 6) (t : BitVec 4) (a : Tgt) (s : State) : Host.Outcome State Fault Refusal :=
  .next (s.geode p needL a t.toNat (tryGtparm q.toNat t.toNat))

end Sys2Proof.Machine
end

