-- ==== Sys2Proof/Machine/Load.lean ====
section
/-! DEFINITION. Machine/Load.lean: block load: capture, the checks of R50 in their order, and the start of a block
(R27, R39, R41, R44 to R53, R132, R138, R157, R158, R165). -/

namespace Sys2Proof.Machine

open Sys2Proof

/-! ### What entries admit -/

/-- An operand position of an entry: not there, optional, or required (R41). -/
inductive Slot where
  | absent | optional | required
  deriving DecidableEq, Repr

/-- The left, right and third operands of an entry (R41), in a fabric block or not (R132). -/
def operandsOf (fab : Bool) (i : Instr) : Slot × Slot × Slot :=
  let l : Slot × Slot × Slot := (.required, .absent, .absent)
  let lr : Slot × Slot × Slot := (.required, .required, .absent)
  let lrt : Slot × Slot × Slot := (.required, .required, .required)
  let lo : Slot × Slot × Slot := (.optional, .absent, .absent)
  let lro : Slot × Slot × Slot := (.required, .optional, .absent)
  let lto : Slot × Slot × Slot := (.required, .absent, .optional)
  let lrto : Slot × Slot × Slot := (.required, .required, .optional)
  let none3 : Slot × Slot × Slot := (.absent, .absent, .absent)
  match i with
  | .exit .. => if fab then l else lo
  | .callb .. | .retb .. | .enter .. | .leave .. | .trapi .. | .halts .. | .brks .. | .nullw .. => lo
  | .exitc .. | .exiti .. | .movt .. => l
  | .writes .. => lr
  | .sel .. | .fma .. => lrt
  | .idx .. => lro
  | .addi .. | .abs .. | .neg .. | .clz .. | .popc .. | .exts .. | .extz .. | .last .. => l
  | .add .. | .sub .. | .mul .. | .mulh .. | .and .. | .or .. | .xor .. | .shl .. | .shr .. | .sra .. | .min .. | .max ..
  | .cmps .. | .cmpu .. | .divs .. | .divu .. | .addsat .. | .subsat .. | .lea .. | .andn .. | .rotl .. | .bfx .. => lr
  | .fadd .. | .fsub .. | .fmul .. | .fmin .. | .fmax .. | .fcmp .. | .fscale .. => lr
  | .fabs .. | .fneg .. | .frcp .. | .fsqrt .. | .frsq .. | .fexp2 .. | .flog2 .. | .fclass .. => l
  | .cvt .. | .cvtr .. | .cvti .. | .cvtf .. | .packb .. | .unpackb .. | .retag .. | .tagq .. | .sati .. => lto
  | .rsum .. | .rmax .. | .rmin .. | .rand .. | .ror .. | .bcastl .. | .cntl .. | .firstl .. => l
  | .scana .. | .slide .. => lro
  | .shuf .. | .maskl .. | .zip .. | .unzip .. | .rtree .. => lr
  | .segsc .. => lrto
  | .mldb .. | .mclm .. | .mrel .. | .macr .. | .manc .. | .mdrn .. | .mdrk .. | .mstat .. => l
  | .mrow .. | .mrowt .. => (.required, .optional, .required)
  | .wrd .. | .wfl .. | .wsh .. | .wmark .. | .weos .. | .wopen .. | .wsave .. | .wrest .. | .wlink .. => l
  | .wup .. | .wrdb .. | .wflb .. => lr
  | .wext .. | .wfree .. | .wclose .. => lo
  | .wspl _ off _ _ => if off then l else lr
  | .ldg .. | .ldgv .. | .ldk .. | .pref .. | .acq .. | .placeq .. | .mona .. | .mseq .. => l
  | .stg .. | .stgv .. | .rel .. => lr
  | .amog _ x _ _ _ _ => if x = .cas then lrt else lrto
  | .ctok .. => lrto
  | .kset _ x _ _ => if x = .oper then l else none3
  | .sgen .. | .sgrun .. | .psnk .. | .ctlsnd .. => l
  | .bustx .. => lr
  | .cqapp .. | .cqwait .. | .clapp .. | .clwait .. => l
  | .cqtail .. | .cqseq .. | .evpop .. | .evpeek .. | .cqabrt .. | .cltail .. | .clseq .. | .clabrt .. => lo
  | .gtinit .. | .gtroot .. | .gtdesc .. | .gtexp .. | .gtback .. | .gtvl .. | .gtread .. | .gtbest .. | .gtreroot ..
  | .gtfree .. | .gtstat .. | .gtparm .. => l
  | .tspawn .. | .trange .. | .lkacq .. | .lkrel .. | .qpop .. | .wdereg .. | .prio .. => l
  | .tpop .. | .tidle .. | .tdone .. | .gjoin .. | .gleave .. | .gbar .. => lo
  | .tdep _ x _ => if x = .e then lr else l
  | .qpush .. => lr
  | .wreg .. => lro
  | .splins .. | .splrem .. | .splbnd .. => l
  | .splack .. => lo
  | .stglnk .. | .stgst .. | .stgld .. => lr
  | .splq _ c _ => if c then lo else l
  | .foldset .. => lrt
  | .ctxsv _ x _ => if x = .die then l else lr
  | .ctxrs .. | .mapset .. | .rgnal .. | .scan .. | .elogrd .. | .attest .. => lr
  | .tlbinv .. | .prmt .. | .rgnfr .. | .csrwr .. | .injerr .. | .selft .. | .cycrd .. | .vchk .. | .brkr .. => l
  | .trapret _ a _ => if a then l else none3
  | .csrrd .. | .trcmk .. => lo
  | _ => none3

/-- The position that a target names in its consumer's entry. -/
def slotOf (fab : Bool) (i : Instr) : Pos → Slot
  | .left => (operandsOf fab i).1
  | .right => (operandsOf fab i).2.1
  | .third => (operandsOf fab i).2.2
  | .pred => .optional

/-- Node kinds (R10). -/
inductive NodeKind where
  | window | scalar | memory | vector | matrix | converter
  deriving DecidableEq, Repr

/-- The node kind of a slot (R10, R49). -/
def nodeKind (g : Region) (fcols slot : Nat) : NodeKind :=
  let t := slot / 8
  let i := slot % 8
  if (g.r + t / fcols + g.c + t % fcols) % 2 = 0 then
    if i < 4 then .window else if i < 6 then .scalar else .memory
  else if i < 6 then .vector else if i = 6 then .matrix else .converter

/-- Whether a node kind executes an opcode in a fabric block (R10, R132, R149, and the entries of group 0x8 and 0x5). -/
def fabricAdmits (kd : NodeKind) (op slot : Nat) : Bool :=
  if op = 0x00 then true
  else match op / 16 with
    | 0 =>
      if op = 0x09 then kd != .converter && slot % 8 != 7
      else if op = 0x0A then kd == .window || kd == .scalar || kd == .vector
      else (op == 0x01 || op == 0x02 || op == 0x06 || op == 0x07 || op == 0x08) && kd == .scalar
    | 1 | 2 => kd == .scalar
    | 3 => kd == .vector
    | 4 => kd == .converter
    | 5 => kd == .vector || (op == 0x5F && kd == .memory)
    | 6 => kd == .matrix
    | 7 => kd == .window && (op ≤ 0x75 || op == 0x78 || op == 0x79)
    | 8 => kd == .memory && op != 0x86 && op != 0x8D && op != 0x8E
    | 9 => kd == .window && op != 0x94 && op != 0x95
    | _ => false

/-- Whether a control block admits an opcode (R52). -/
def controlAdmits (op : Nat) : Bool :=
  match op / 16 with
  | 0 | 1 | 2 | 8 => true
  | 7 => op == 0x76 || op == 0x77 || 0x7A ≤ op
  | 9 => op == 0x94 || op == 0x95
  | n => 10 ≤ n

/-- Opcodes that no instruction has (R53). -/
def opReserved (op : Nat) : Bool :=
  (0x49 ≤ op && op ≤ 0x4F) || (0x6A ≤ op && op ≤ 0x6F) || op == 0x8F || (0x9D ≤ op && op ≤ 0x9F)
    || (0xAC ≤ op && op ≤ 0xAF) || (0xBC ≤ op && op ≤ 0xBF) || (0xD9 ≤ op && op ≤ 0xDF) || op == 0xEF || 0xF4 ≤ op

/-- Slots that store to a window or to generic memory (R29, R45). -/
def countsStore : Instr → Bool
  | .wup .. | .wfl .. | .wflb .. | .wmark .. | .weos .. | .stg .. | .stgv .. | .rel .. | .amog .. | .loopn .. => true
  | _ => false

/-- Slots of group 0x8 that nmseq counts (R46, R60). -/
def countsMember : Instr → Bool
  | .ldg _ u _ _ | .stg _ u _ _ | .ldgv _ u _ _ | .stgv _ u _ _ => !u
  | .amog .. | .fence .. | .acq .. | .rel .. | .mseq .. | .mona .. | .mwait .. => true
  | _ => false

/-- The exit numbers that an instruction names (R47). -/
def exitsOf : Instr → List Nat
  | .exit _ n | .tpop _ n => [n.toNat]
  | .exitc _ f t => [t.toNat, f.toNat]
  | .callb _ r c => [c.toNat, r.toNat]
  | .trapi _ _ n | .brks _ _ n => [n.toNat]
  | _ => []

/-! ### The header -/

/-- A failure of a load: its cause and s31 (R50, R301). -/
abbrev LoadErr := Nat × Nat

/-- A failure of cause 0x01. -/
def loadErr (code slot : Nat) : LoadErr := (0x01, checkExtra slot code)

/-- A block from its bytes (R45, R47): words and exit table. -/
def blockOf (a : Nat) (bs : List Byte) : Block :=
  let h := leNat (bs.take 16)
  let n := bits h 123 117 + 1
  let ws := (wordsOfBytes (bs.drop 16)).take n
  let off := 16 + 4 * (n + n % 2)
  { addr := a, htype := bits h 127 124, ninst := n - 1, rows := bits h 116 113, cols := bits h 112 109,
    nchain := bits h 108 106, nstore := bits h 105 98, nexit := bits h 97 94, rdmask := BitVec.ofNat 32 (bits h 93 62),
    wrmask := BitVec.ofNat 32 (bits h 61 30), nmseq := bits h 29 22, nconv := bits h 21 18, fold := bits h 17 16,
    rsid := bits h 15 8, words := ws,
    exits := (List.range (bits h 97 94)).map fun i => BitVec.ofNat 64 (fieldOf bs (off + 8 * i) 8) }

/-- Bytes of a block from its header (R47). -/
def blockBytes (h : Nat) : Nat :=
  let n := bits h 123 117 + 1
  16 + 4 * (n + n % 2) + 8 * bits h 97 94

/-- The first check of a list that fails. -/
def firstErr : List (Bool × LoadErr) → Option LoadErr
  | [] => none
  | (bad, e) :: l => if bad then some e else firstErr l

/-- Step 2 of R50: the header from bit 127 downwards (R45, R46, R301). `res` is its reserved byte. -/
def headerErr (b : Block) (g : Region) (res : Nat) : Option LoadErr :=
  let fab := b.isFabric
  let e := fun (c : Nat) => loadErr c 0xFF
  firstErr [
    (decide (3 < b.htype), e 0x01),
    (b.htype == 2 && b.ninst != 7, e 0x03),
    (fab && decide (8 * b.frows * b.fcols < b.ninst + 1), e 0x0E),
    (!fab && (b.rows != 0 || b.cols != 0), e 0x03),
    (fab && (decide (g.rows < b.frows) || decide (g.cols < b.fcols)), (0x0C, b.rows + b.cols * 16)),
    (b.nchain != 0 && (b.htype == 0 || b.htype == 2), e 0x03),
    ((b.htype == 0 && b.nstore != 0) || (b.htype == 2 && b.nstore != 1), e 0x03),
    (((b.htype == 1 || b.htype == 3) && b.nexit == 0) || (b.htype == 2 && b.nexit != 1), e 0x03),
    (b.wrmask.getLsbD 0, e 0x02),
    (b.htype == 2 && b.nmseq != 0, e 0x03),
    ((b.htype == 0 || b.htype == 2) && b.nconv != 0, e 0x03),
    (b.fold == 3, e 0x02),
    ((b.htype == 0 || b.htype == 2) && b.fold != 0, e 0x03),
    (res != 0, e 0x02)]

/-! ### The slots -/

/-- The entry of a word by its opcode and xop alone (R39, R51): what it decodes to with other fields put right where it does
not decode itself. A reserved opcode has no entry. -/
def entryOf (w : BitVec 32) : Option Instr :=
  let f := Fields.ofWord w.toNat
  [f.x, 1, 0].findSome? fun x => (List.range 16 ++ [0x140]).findSome? fun b =>
    (decodeFields ⟨f.op, 0, x, 0, b⟩).toOption

/-- The entry a consumer slot has: its instruction, or where it does not decode its opcode's entry (R39). -/
def Block.entry? (b : Block) (m : Nat) : Option Instr := (b.instr? m).or (entryOf (b.word m))

/-- Step 3 for a target (R39): the check code, or none where it is accepted. -/
def targetErr (b : Block) (starts : List Nat) (t : Tgt) : Option Nat :=
  match Tgt.slotPos t, t with
  | some (m, pos), _ =>
    if b.ninst < m ∨ ¬ starts.contains m then some 0x08
    else if pos = .pred then none
    else match b.entry? m with
      | none => some 0x08
      | some j => if slotOf b.isFabric j pos = .absent then some 0x08 else none
  | none, .reg n => if b.wrmask.getLsbD n.toNat then none else some 0x09
  | none, .port _ | none, .bus _ => if b.isFabric then none else some 0x08
  | none, _ => none

/-- PSRC's target A is required (R154); which code a missing one has R50's table leaves open: 0x08 here (log 33). -/
def portTargetErr (op a : Nat) : Option Nat := if op = 0x96 ∧ a = 0 then some 0x08 else none

/-- Step 3 for LOOPN's place (R44). -/
def loopPlaceErr (b : Block) (g : Region) (n : Nat) : Bool :=
  n % 8 != 0 || decide (b.ninst < n + 7) || nodeKind g b.fcols n != .window

/-- Step 3 of R50 for one slot: bit 31 downwards. Whether the block kind or node kind admits an opcode is read from the opcode
bits, so a LOOPN in a control block or off a window node is reported with code 0x0A and not with R44's 0x0C, both of which
fit it (log 33). -/
def slotErr (b : Block) (g : Region) (priv handler : Bool) (starts : List Nat) (n : Nat) : Option LoadErr :=
  let w := (b.word n).toNat
  let op := w / 2 ^ 24
  let f := Fields.ofWord w
  let e := fun (c : Nat) => loadErr c n
  let at_ := fun (v : Nat) => match Tgt.ofNat? v with
    | some t => targetErr b starts t
    | none => none
  if opReserved op then some (e 0x05)
  else if op / 16 = 0xE ∧ ¬ priv ∧ ¬ (op = 0xE7 ∧ handler) then some (0x02, checkExtra n 0x0F)
  else if ¬ (if b.isFabric then fabricAdmits (nodeKind g b.fcols n) op n else controlAdmits op) then some (e 0x0A)
  else if op = 0x98 then
    if loopPlaceErr b g n then some (e 0x0C)
    else match decodeSlot b.words n with
      | .error _ => some (e 0x0C)
      | .ok _ => none
  else match decodeSlot b.words n with
    | .error r =>
      if 19 ≤ r.bit then some (e r.code)
      else match (at_ f.a).or (portTargetErr op f.a) with
        | some c => some (e c)
        | none => some (e r.code)
    | .ok i =>
      match (targetErr b starts (tgtA i)).or (portTargetErr op f.a) with
      | some c => some (e c)
      | none => match targetErr b starts (tgtB i) with
        | some c => some (e c)
        | none =>
          let unread := match i with
            | .reads _ r _ => !b.rdmask.getLsbD r.toNat
            | _ => false
          if unread then some (e 0x09)
          else if (exitsOf i).any fun x => decide (b.nexit ≤ x) then some (e 0x0D)
          else none

/-! ### Checks that span slots -/

/-- Targets of a block that name operand positions: naming slot, predicated, consumer slot and position. -/
def Block.feeds (b : Block) : List (Nat × Bool × Nat × Pos) :=
  b.instrs.flatMap fun (n, i) =>
    [tgtA i, tgtB i].filterMap fun t => (Tgt.slotPos t).map fun q => (n, pmodeOf i != .always, q.1, q.2)

/-- The KSET chain numbers and level counts (R138). -/
def chainLevels (ls : List (Nat × Nat × Nat)) (c : Nat) : Nat := (ls.filter fun l => l.2.1 == c).length

/-- R138's forms: the first slot that breaks one. The forms are tried one after another, each over all slots (log 33). -/
def chainErr (b : Block) : Option Nat :=
  let ins := b.instrs
  let ks := ins.filter fun e => match e.2 with
    | .kset .. => true
    | _ => false
  let ls := ksetLevels ins
  let first := match ks with
    | (n, .kset _ _ g _) :: _ => if g then none else some n
    | _ => none
  let deep := (ls.find? fun l => 5 ≤ l.2.2).map (·.1)
  let sel := ins.filterMap fun e => match e.2 with
    | .kchain _ _ => some e.1
    | _ => none
  let twice := sel.find? fun n => sel.any fun m => decide (m < n) && m / 8 == n / 8
  let lacks := (ins.find? fun e => match e.2 with
    | .kidx _ l _ _ =>
      let have_ := chainLevels ls (b.chainSel e.1)
      have_ == 0 || (l.toNat != 3 && decide (have_ ≤ l.toNat))
    | .klast _ c j _ => decide (chainLevels ls c.toNat ≤ j.toNat)
    | _ => false).map (·.1)
  [first, deep, twice, lacks].findSome? id

/-- R157's identifiers: the first slot that names one no BUSRX carries, or is a second unpredicated sender of one. -/
def busErr (b : Block) : Option Nat :=
  let ins := b.instrs
  let rx := ins.filterMap fun e => match e.2 with
    | .busrx _ i _ => some i
    | _ => none
  let tx := ins.flatMap fun e => [tgtA e.2, tgtB e.2].zipIdx.filterMap fun t => match t.1 with
    | .bus i => some (e.1 * 2 + t.2, i, pmodeOf e.2 == .always)
    | _ => none
  (tx.find? fun t => !rx.contains t.2.1 || (t.2.2 && tx.any fun u => decide (u.1 < t.1) && u.2.1 == t.2.1 && u.2.2)).map
    fun t => t.1 / 2

/-- R158's control channels: the first slot whose channel has not one sender and one receiver. -/
def ctlErr (b : Block) : Option Nat :=
  let ins := b.instrs
  let tx := ins.filterMap fun e => match e.2 with
    | .ctlsnd _ c => some (e.1, c)
    | _ => none
  let rx := ins.filterMap fun e => match e.2 with
    | .ctlrcv _ c _ => some (e.1, c)
    | _ => none
  let bad := fun (c : BitVec 7) => (tx.filter fun t => t.2 == c).length != 1 || (rx.filter fun t => t.2 == c).length != 1
  match ((tx ++ rx).filter fun t => bad t.2).map (·.1) with
  | [] => none
  | n :: ns => some (ns.foldl Nat.min n)

/-- R27's slot: the lower of the lowest predicated slot that no target names and the lowest unpredicated slot that one names.
Where the only break is a predicated slot named more than once, once from an unpredicated slot, the rule's two slots name
none, and the model reports the lowest slot so named (log 33). A NOP is unpredicated. -/
def predErr (b : Block) : Option Nat :=
  let fs := b.feeds.filter fun f => f.2.2.2 == .pred
  let nops : List (Nat × Instr) := (slotStarts 0 0 b.words).filterMap fun n => if b.word n = 0 then some (n, .nop) else none
  let mine := fun (n : Nat) => fs.filter fun f => f.2.2.1 == n
  let lowest := fun (p : Nat × Instr → Bool) => (((b.instrs ++ nops).filter p).map (·.1)).min?
  match lowest fun e => (pmodeOf e.2 == .always) != (mine e.1).isEmpty with
  | some n => some n
  | none => lowest fun e => decide (1 < (mine e.1).length) && (mine e.1).any fun f => !f.2.1

/-- R41: the first slot with a position uncovered or doubly fed. -/
def coverErr (b : Block) : Option Nat :=
  (b.instrs.find? fun e => [Pos.left, .right, .third].any fun p =>
    let mine := b.feeds.filter fun f => f.2.2.1 == e.1 && f.2.2.2 == p
    (mine.isEmpty && slotOf b.isFabric e.2 p == .required)
      || (decide (1 < mine.length) && mine.any fun f => !f.2.1)).map (·.1)

/-- The exits of a fabric block (R132): one EXIT or EXITC, whose left operand a target feeds, or its LOOPN at slot 0. The slot
reported for a break that several slots make, which R50 does not say, is the model's choice: 0xFF where no exit stands, the
second of two exits, slot 0 of a block of htype 2 (log 33). -/
def exitErr (b : Block) : Option Nat :=
  let xs := b.instrs.filterMap fun e => match e.2 with
    | .exit .. | .exitc .. => some e.1
    | _ => none
  if b.htype = 2 then
    match b.instrs with
    | [(0, .loopn _)] => none
    | _ => some 0
  else if b.htype = 1 ∨ b.htype = 3 then
    match xs with
    | [n] => if b.feeds.any fun f => f.2.2.1 == n && f.2.2.2 == .left then none else some n
    | _ :: n :: _ => some n
    | [] => some 0xFF
  else none

/-- Step 4 of R50. The counts of an htype 2 header are fixed by R46 and stand under step 2. -/
def spanErr (b : Block) : Option LoadErr :=
  let ins := b.instrs
  let count := fun (f : Instr → Bool) => (ins.filter fun e => f e.2).length
  let begins := count fun i => match i with
    | .kset _ _ g _ => g
    | _ => false
  let conv := count fun i => i.fields.op / 16 == 4
  let at_ := fun (c : Nat) (o : Option Nat) => o.map fun n => loadErr c n
  [if b.isFabric ∧ begins ≠ b.nchain then some (loadErr 0x14 0xFF) else none,
   if b.htype ≠ 2 ∧ ((b.isFabric ∧ b.nstore ≠ count countsStore) ∨ b.nmseq ≠ count countsMember
       ∨ (b.isFabric ∧ b.nconv ≠ conv)) then
     some (loadErr 0x04 0xFF) else none,
   at_ 0x15 (exitErr b), at_ 0x14 (chainErr b), at_ 0x08 (busErr b), at_ 0x15 (ctlErr b), at_ 0x06 (predErr b),
   at_ 0x0B (coverErr b)].findSome? id

/-- Step 5 of R50: the pad word and the exit table. -/
def tailErr (b : Block) (pad : Nat) : Option LoadErr :=
  if pad ≠ 0 ∨ b.exits.any (fun e => bits e.toNat 63 56 != 0 || bits e.toNat 3 0 != 0) then some (loadErr 0x0D 0xFF) else none

/-- A tile that holds a converter node (R10). -/
def hasConverter (t : Nat) : Bool := t / 16 % 2 == 0 && t % 16 % 4 == 1

/-- Tiles of a region. -/
def Region.tiles (g : Region) : List Nat :=
  (List.range g.rows).flatMap fun i => (List.range g.cols).map fun j => 16 * (g.r + i) + g.c + j

/-- Step 6 of R50: converters (R11, R165, R301). -/
def converterErr (b : Block) (g : Region) : Option LoadErr :=
  if ¬ b.isFabric ∨ b.nconv = 0 then none
  else if (g.tiles.filter hasConverter).length < b.nconv then some (0x0B, 0xFF)
  else
    let slots := b.instrs.filterMap fun e => if e.2.fields.op / 16 = 4 then some e.1 else none
    ((List.range (b.copies g).length).flatMap fun q => slots.map fun n => (q, n)).findSome? fun e =>
      if hasConverter (b.tileOf g e.1 e.2) then none else some (0x0B, e.2 + e.1 % 2 ^ 16 * 256)

/-- Steps 2 to 6 of R50 over a captured block. -/
def blockErr (bs : List Byte) (b : Block) (g : Region) (priv handler : Bool) : Option LoadErr :=
  let starts := slotStarts 0 0 b.words
  let n := b.ninst + 1
  let pad := if n % 2 = 1 then fieldOf bs (16 + 4 * n) 4 else 0
  match headerErr b g (fieldOf bs 0 1) with
  | some e => some e
  | none =>
    match starts.findSome? (slotErr b g priv handler starts) with
    | some e => some e
    | none => [spanErr b, tailErr b pad, converterErr b g].findSome? id

/-! ### Capture and entry -/

/-- A block captured (R47, R48): the whole block is read before it is checked; `countFetch` counts its lines. -/
def State.capture (s : State) (x : Strand) (a : Nat) : Direct (List Byte × Stamp × State) :=
  if a % 16 ≠ 0 then .fail s 0x08 a
  else if 2 ^ 56 ≤ a then .fail s 0x06 a
  else match s.dread x.ctx x.die x.asker x.stamp .fx false a 16 with
    | .wait u => .wait u
    | .fail u c va => .fail u c va
    | .ok (hd, _, u) => u.dread x.ctx x.die x.asker x.stamp .fx false a (blockBytes (leNat hd))

/-- The lines of a captured block counted (R58). -/
def State.countFetch (s : State) (x : Strand) (a n : Nat) : State :=
  match s.physPieces x.ctx x.die x.asker x.stamp .fx (pieces a n) with
  | .ok ps => s.countPieces x.die ps
  | _ => s

/-- The context of a strand is privileged (R52). -/
def State.privileged (s : State) (x : Strand) : Bool := (s.ctx? x.ctx).any fun c => c.priv

/-- A captured block's first failure on the strand's region (R50). -/
def State.checkBlock (s : State) (x : Strand) (a : Nat) (bs : List Byte) : Option LoadErr :=
  blockErr bs (blockOf a bs) x.region (s.privileged x) x.hmode

/-- Head of the stage input (R188). -/
def Strand.inputHead (x : Strand) : BitVec 32 :=
  match look (bits x.stgcfg.toNat 17 8) x.wins with
  | some w => w.head
  | none => 0

/-- Which constant store of its context a block reads that begins now (R59). -/
def State.kcurrent (s : State) (x : Strand) : Nat := ((look x.ctx (s.die x.die).ksegs).map fun p => p.cur).getD 0

/-- A checked block begins. -/
def State.enterBlock (s : State) (k : Nat) (x : Strand) (b : Block) : State :=
  s.modStrand k fun y => { y with phase := .run, run := some (Run.start b y.region x.inputHead (s.kcurrent x) y.hmode) }

/-- A failure of a fetch or load is a trap at the edge, with the entered block in s30 and TRES (R48, R116). -/
def State.loadFails (s : State) (k a cause extra : Nat) : State :=
  s.trapNow k cause (seqOrigin k 0) a extra a false

/-- The address after a block, at the next 16-byte boundary (R197). -/
def Block.after (b : Block) : Nat :=
  (b.addr + 16 + 4 * (b.ninst + 1 + (b.ninst + 1) % 2) + 8 * b.nexit + 15) / 16 * 16

/-- A variant matches its original (R197). -/
def variantFits (b v : Block) (part : Nat) : Bool :=
  v.htype == b.htype && v.rdmask == b.rdmask && v.wrmask == b.wrmask && v.nexit == b.nexit && v.nchain == b.nchain
    && v.rsid == b.rsid && v.exits == b.exits
    && (List.range 8).all (fun c => chainLevels (ksetLevels b.instrs) c == chainLevels (ksetLevels v.instrs) c)
    && decide (v.frows * v.fcols * part ≤ b.frows * b.fcols)

end Sys2Proof.Machine
end

