-- ==== Sys2Proof/Machine/Saves.lean ====
section
/-! DEFINITION. Machine/Saves.lean: context save and restore of a strand (R306, R313 to R320, R331): requests, the save
point, the image, the change of a strand's key, and the events SAVE_POINT and SAVE_COMPLETE. -/

namespace Sys2Proof.Machine

open Sys2Proof

/-! ### Answers to waiting members -/

/-- Operations in flight of the package that wait for what `sel` picks. -/
def State.pendsOf (s : State) (sel : Why → Bool) : List Pend :=
  s.strands.flatMap fun e => ([e.2.run, e.2.susp].filterMap id).flatMap fun r => r.nodes.flatMap fun n =>
    n.pend.filter fun p => sel p.why

/-- A waiting member returns with a status (R321). -/
def State.answer (s : State) (v : Nat) (p : Pend) : State :=
  match s.held? p.fire.k p.fire.hand p.fire.copy p.fire.slot p.fire.iter with
  | some (_, _, i, _) => s.settleHeld p (tgtA i) .none (some (.tok (Tok.i64 v p.fire.marks))) none
  | none => s

/-- Every waiting member that `sel` picks returns with a status. -/
def State.answerAll (s : State) (sel : Why → Bool) (v : Nat) : State := (s.pendsOf sel).foldl (fun s p => s.answer v p) s

/-! ### Regions -/

/-- A tile is an M-tile (R9). -/
def isMTile (t : Nat) : Bool := (t / 16 + t % 16) % 2 == 0

/-- Origin tile of a region (R309). -/
def Region.origin (g : Region) : Nat := 16 * g.r + g.c

/-- A tile lies in a region. -/
def Region.holds (g : Region) (t : Nat) : Bool :=
  decide (g.r ≤ t / 16 ∧ t / 16 < g.r + g.rows ∧ g.c ≤ t % 16 ∧ t % 16 < g.c + g.cols)

/-- The lead tile (R15): the M-tile of lowest number. -/
def Region.lead (g : Region) : Nat := (g.tiles.find? isMTile).getD g.origin

/-- A region's handle (R321). -/
def Region.handle (g : Region) (d : Nat) : Nat :=
  d % 4 + g.origin % 256 * 4 + (g.rows - 1) % 16 * 2 ^ 10 + (g.cols - 1) % 16 * 2 ^ 14 + g.ctx % 64 * 2 ^ 18 + 2 ^ 63

/-- A region's tiles return to the allocator (R126, R312, R321). -/
def State.releaseRegion (s : State) (d origin : Nat) : State :=
  s.modDie d fun y => { y with regions := y.regions.filter fun g => g.origin != origin }

/-! ### The key of a strand changes (R319) -/

/-- A wait names a strand by its new key (R319). -/
def Why.rekey (f : Nat → Nat) : Why → Why
  | .winRead k w o => .winRead (f k) w o
  | .winFill k w o => .winFill (f k) w o
  | .geode t r o k w => .geode t r o (f k) w
  | .save k => .save (f k)
  | .fold k => .fold (f k)
  | w => w

/-- A requester by its new key. -/
def Req.rekey (f : Nat → Nat) : Req → Req
  | .node k hand c n i => .node (f k) hand c n i
  | .chain k ch => .chain (f k) ch
  | .coll k ch => .coll (f k) ch
  | .geode k n => .geode (f k) n
  | .seq k => .seq (f k)
  | r => r

/-- The operations in flight of a run by the new key. -/
def Run.rekey (f : Nat → Nat) (r : Run) : Run :=
  { r with nodes := r.nodes.map fun n => { n with pend := n.pend.map fun p =>
      { p with why := p.why.rekey f, fire := { p.fire with k := f p.fire.k } } } }

/-- A strand's identity as filler or drainer of its own windows (001, R145) by the new key. -/
def rekeyIdent (old new : Nat) (v : BitVec 16) : BitVec 16 :=
  if v.toNat = strandId old then BitVec.ofNat 16 (strandId new) else v

/-- A window by the new key; `own` where it belongs to the strand itself. The identity of a producer (100) follows the
link, which tells strands of one identity apart (R319). -/
def Win.rekey (f : Nat → Nat) (old new : Nat) (own : Bool) (w : Win) : Win :=
  { w with filler := if w.producer.any (fun p => p.1 == old) then BitVec.ofNat 16 (0x8000 + strandId new % 2 ^ 13)
             else if own then rekeyIdent old new w.filler else w.filler
           drainer := if own then rekeyIdent old new w.drainer else w.drainer
           link := w.link.map fun l => { l with k := f l.k }
           producer := w.producer.map fun p => (f p.1, p.2) }

/-- The issuer of a save by the new key. -/
def SaveSt.rekey (f : Nat → Nat) : SaveSt → SaveSt
  | .asked a free i => .asked a free (i.map fun p => (f p.1, p.2))
  | .saving a free i => .saving a free (i.map fun p => (f p.1, p.2))
  | w => w

/-- A strand's record by the new key; `own` where it is the strand itself. -/
def Strand.rekey (f : Nat → Nat) (old new : Nat) (own : Bool) (x : Strand) : Strand :=
  { x with wins := x.wins.map fun e => (e.1, e.2.rekey f old new own)
           chans := x.chans.map fun c => (c.1, f c.2.1, c.2.2)
           copies := x.copies.map fun c => (c.1, { c.2 with win := c.2.win.map fun w => (f w.1, w.2) })
           run := x.run.map (Run.rekey f), susp := x.susp.map (Run.rekey f)
           save := x.save.rekey f
           shrink := x.shrink.map fun e => (e.1, e.2.1, e.2.2.map fun p => (f p.1, p.2)) }

/-- A wait-for entry by the new key; the identities in it stay (R319). -/
def WfEnt.rekey (f : Nat → Nat) (e : WfEnt) : WfEnt :=
  { e with who := match e.who with
      | .node k c n => .node (f k) c n
      | w => w }

/-- A die's records by the new key. -/
def Die.rekey (f : Nat → Nat) (y : Die) : Die :=
  let rq := fun (m : Nat × List Req) => (m.1, m.2.map (Req.rekey f))
  { y with paths := y.paths.map fun l => l.map fun m => { m with req := m.req.rekey f }
           resps := y.resps.map fun r => { r with req := r.req.rekey f }
           acks := y.acks.map fun r => { r with req := r.req.rekey f }
           regions := y.regions.map fun g => { g with strand := g.strand.map f }
           monitors := y.monitors.map fun m => (f m.1, m.2)
           locks := y.locks.map rq, queues := y.queues.map rq
           tickets := y.tickets.map fun t => (t.1, { t.2 with issuer := f t.2.issuer })
           streams := y.streams.map fun t => (t.1, { t.2 with k := f t.2.k })
           walks := y.walks.map fun w => { w with who := w.who.map (Req.rekey f) }
           wft := y.wft.map fun e => (e.1, e.2.rekey f), wfover := y.wfover.map (WfEnt.rekey f) }

/-- A gang by the new key. -/
def Gang.rekey (f : Nat → Nat) (g : Gang) : Gang := { g with members := g.members.map f, arrived := g.arrived.map f }

/-- A tree by the new key. -/
def Tree.rekey (f : Nat → Nat) (t : Tree) : Tree := { t with queue := t.queue.map fun q => (q.1, q.2.1, f q.2.2) }

/-- A context's records by the new key. -/
def Ctx.rekey (f : Nat → Nat) (c : Ctx) : Ctx :=
  { c with gangs := c.gangs.map fun g => (g.1, g.2.rekey f), trees := c.trees.map fun t => (t.1, t.2.rekey f) }

/-- Strand `old` takes the key `new` in every record that names it (R319). -/
def State.rekey (s : State) (old new : Nat) : State :=
  let f := fun (k : Nat) => if k = old then new else k
  { s with strands := match look old s.strands with
             | some x => put new x (del old s.strands) |>.map fun e => (e.1, e.2.rekey f old new (e.1 == new))
             | none => s.strands
           dies := s.dies.map (Die.rekey f)
           ctxs := s.ctxs.map fun c => (c.1, c.2.rekey f)
           images := s.images.map fun i => { i with
             key := i.key.map f, snap := i.snap.map (Strand.rekey f old new (i.key == some old))
             streams := i.streams.map fun t => (t.1, { t.2 with k := f t.2.k })
             trees := i.trees.map fun t => (t.1, t.2.rekey f), deques := i.deques.map fun t => (f t.1, t.2)
             tickets := i.tickets.map fun t => (t.1, { t.2 with issuer := f t.2.issuer })
             gangs := i.gangs.map fun g => (g.1, g.2.rekey f) }
           fire := { s.fire with k := f s.fire.k } }

/-- The key under which a strand stands that is saved with its region freed: die and lead tile as they were, and a
number above them. No strand has a key from 1,024 to 2,047: 1,024 names none. -/
def State.parkKey (s : State) (k : Nat) : Nat :=
  (((List.range (s.strands.length + 1)).map fun n => 1024 * (n + 2) + k % 1024).find? fun j => (s.strand? j).isNone).getD 0

/-! ### The save point (R314) -/

/-- What stands at an edge whose steps 1 to 5 are done may be saved: no SPLACK has begun its action (R190). -/
def Run.edgeSaves (r : Run) : Bool :=
  r.exits.all fun e => match e.2.2 with
    | .passing _ ends => !ends
    | .relinking | .removing | .resplice | .splicing _ => false
    | _ => true

/-- Cycles from a request to the save point of a strand that reaches no block edge first (R314). -/
def saveDelay : Nat := 256

/-- A halt is asked for (R327, R328). -/
def Strand.haltAsked (x : Strand) : Bool := bit x.dbgctl.toNat 0 && !x.halted

/-- The nodes of the strand may start firings: no save or halt that is asked for has come to its point inside the block
(R314, R328). -/
def Strand.starts (x : Strand) : Bool := !((x.save.asking || x.haltAsked) && decide (saveDelay ≤ x.asked))

/-- The strand has a request whose point inside the block comes with time (R312, R314, R328). -/
def Strand.awaitsPoint (x : Strand) : Bool := x.save.asking || x.shrink.isSome || x.haltAsked

/-- The strand stands at a point where a save may start: at an edge, between blocks, or inside a block whose firings
have finished and whose engine steps have reached their boundaries (R213, R231, R314). -/
def Strand.quiescent (x : Strand) : Bool :=
  (x.colls.all fun c => c.2.cstate == .eventq || c.2.cstate == .halted || c.2.step.isNone)
  && ([x.run, x.susp].filterMap id).all (fun r => r.nodes.all fun n => n.pend.all fun p => p.why != .memory)
  && match x.phase with
     | .enter | .run => true
     | .edge => x.crossed && x.splpost.isNone && x.run.all Run.edgeSaves
     | _ => false

/-- Entries of a strand's stream generators removed; each registers again later (R153). -/
def State.dropGenEntries (s : State) (k : Nat) : State :=
  let d := k / 256 % 4
  let mine := (s.die d).streams.filter fun t => t.2.k == k
  (s.removeEntries fun e => !e.sw && match e.who with
    | .gen e' tile g => e' == d && mine.any fun t => t.1 == tile * 4 + g
    | _ => false).modDie d fun y =>
      { y with streams := y.streams.map fun t => if t.2.k = k then (t.1, { t.2 with reg := false }) else t }

/-- The save of a strand starts: its waits stay as node state and their entries go (R153, R314); an armed monitor is
not saved (R81). -/
def State.startSave (s : State) (k addr : Nat) (free : Bool) (by_ : Option (Nat × Nat)) : State :=
  let armed := (s.monitor? k).isSome
  (((s.dropBlockEntries k).dropGenEntries k).disarm k).modStrand k fun x =>
    { x with save := .saving addr free by_, asked := 0, run := x.run.map Run.unregistered
             susp := x.susp.map Run.unregistered, wake := x.wake || armed }

/-! ### The image (R315, R316) -/

/-- M-tiles of a region in footprint order. -/
def Region.mTiles (g : Region) : List Nat := g.tiles.filter isMTile
/-- C-tiles of a region in footprint order. -/
def Region.cTiles (g : Region) : List Nat := g.tiles.filter fun t => !isMTile t

/-- Length of the image of a region (R315). -/
def Region.imageLen (g : Region) : Nat :=
  2 ^ 10 * (80 + 32 * g.tiles.length + 2304 * g.mTiles.length + 352 * g.cTiles.length)

/-- Where an M-tile's SRAM mirror stands in the image. -/
def Region.sramAt (g : Region) (t : Nat) : Nat :=
  2 ^ 10 * (80 + 32 * g.tiles.length + 2304 * g.mTiles.findIdx (· == t))

/-- Where a C-tile's operand slots stand in the image. -/
def Region.slotsAt (g : Region) (t : Nat) : Nat :=
  2 ^ 10 * (80 + 32 * g.tiles.length + 2304 * g.mTiles.length + 352 * g.cTiles.findIdx (· == t))

/-- A unit of a strand is written by a save (R316): every unit, or the dirty ones of a save to the home image. -/
def Strand.writes (x : Strand) (all : Bool) (tile kind i : Nat) : Bool :=
  all || x.dirty.contains ((tile * 4 + kind) * 2 ^ 16 + i)

/-- The filled rows of the strand's windows as pieces of the image: data and row headers (R315, R316). -/
def Strand.sramPieces (x : Strand) (all : Bool) : List (Nat × List Byte) :=
  x.wins.flatMap fun e =>
    let w := e.2
    (List.range w.extent).flatMap fun i => (List.range w.rpe).flatMap fun r =>
      let o := w.sram (w.head + BitVec.ofNat 32 i) r
      if x.writes all w.tile 0 (o / 256) then
        let row := w.row i r
        [(x.region.sramAt w.tile + o, row.bytes w.rowBytes),
         (x.region.sramAt w.tile + 2 ^ 21 + o / 128 * 16, (row.image 0).take 16)]
      else []

/-- The filled operand slots and the accumulators as pieces of the image (R315, R316). -/
def State.arrayPieces (s : State) (x : Strand) (all : Bool) : List (Nat × List Byte) :=
  x.region.cTiles.flatMap fun t =>
    let b := x.region.slotsAt t
    let o := (s.die x.die).opwin t
    ((List.range o.extent).flatMap fun i =>
      let n := (o.head + BitVec.ofNat 32 i).toNat % 32
      if x.writes all t 1 n then
        (List.range 64).flatMap fun r =>
          [(b + 8192 * n + 128 * r, (o.row i r).bytes 128),
           (b + 2 ^ 18 + 1024 * n + 16 * r, ((o.row i r).image 0).take 16)]
      else [])
    ++ (List.range 8).flatMap fun k =>
      if x.writes all t 2 k then
        [(b + 2 ^ 18 + 2 ^ 15 + 8192 * k, (List.range 512).flatMap fun j => leBytes 16 ((s.die x.die).acc t (512 * k + j)).word)]
      else []

/-- A window row or operand-slot row of a strand stands marked (R318). -/
def State.poisoned? (s : State) (x : Strand) : Bool :=
  (x.wins.any fun e => e.2.rows.any fun r => r.2.bad)
  || x.region.cTiles.any fun t => ((s.die x.die).opwin t).rows.any fun r => r.2.bad

/-- Bytes of the header that R315 lays out. -/
def headBytes : Nat := 20

/-- The header fields that R315 lays out, bit 1 of the flags as given. -/
def Strand.header (x : Strand) (k : Nat) (marks : Bool) : List Byte :=
  leBytes 8 x.region.imageLen ++ leBytes 8 (x.region.handle x.die) ++ leBytes 2 (strandId k) ++ leBytes 1 x.ctx
    ++ leBytes 1 (if marks then 2 else 0)

/-- The header fields, and the window directory (R315). -/
def Strand.headPieces (x : Strand) (k : Nat) (marks : Bool) : List (Nat × List Byte) :=
  (0, x.header k marks) :: (2 ^ 15, List.replicate (2 ^ 15) 0) :: x.wins.map fun e => (2 ^ 15 + 32 * e.1, leBytes 32 e.2.descriptor)

/-- Free bytes written over a part of an image. -/
def State.blur (s : State) (c d addr : Nat) (part : Nat × Nat) : State :=
  let (bs, s) := s.freeBytes part.2
  s.vpoke c d (addr + part.1) bs

/-- The rows a save reads meet armed errors: such a row is written with a mark (R318). A save to the home image reads no row
of a clean line (R316). -/
def State.senseWindows (s : State) (k : Nat) (x : Strand) (all : Bool) : State :=
  x.wins.foldl (fun s e => (List.range e.2.extent).foldl (fun s i => (List.range e.2.rpe).foldl (fun s r =>
    if x.writes all e.2.tile 0 (e.2.sram (e.2.head + BitVec.ofNat 32 i) r / 256) then
      match s.senseRow x e.2 i r with
      | (t, true) => t.modWin k e.1 fun w => w.setRow i r { w.row i r with bad := true }
      | (t, false) => t
    else s) s) s) s

/-- A row of an operand window marked (R318). -/
def OpWin.mark (o : OpWin) (e r : Nat) : OpWin :=
  { o with rows := put ((o.head + BitVec.ofNat 32 e).toNat * 64 + r) { o.row e r with bad := true } o.rows }

/-- The filled operand-slot rows a save reads meet armed errors, and are marked (R316, R318). -/
def State.senseSlots (s : State) (x : Strand) (all : Bool) : State :=
  x.region.cTiles.foldl (fun s t =>
    let o := (s.die x.die).opwin t
    (List.range o.extent).foldl (fun s i =>
      let n := (o.head + BitVec.ofNat 32 i).toNat % 32
      if x.writes all t 1 n then
        (List.range 64).foldl (fun s r =>
          match s.senseTile 1 x.die t (n * 8192 + 128 * r) (n * 8192 + 128 * r + 128) x.ctx with
          | (u, true) => u.setOpwin x.die t (((u.die x.die).opwin t).mark i r)
          | (u, false) => u) s
      else s) s) s

/-- The accumulator banks a save reads meet armed errors. An accumulator has no row header to hold a mark: the answer,
whether one was uncorrectable, goes into the header's flags (R318; log 26). -/
def State.senseBanks (s : State) (x : Strand) (all : Bool) : Bool × State :=
  ((x.region.cTiles.flatMap fun t => (List.range 8).map fun b => (t, b)).filter fun e => x.writes all e.1 2 e.2).foldl
    (fun (a : Bool × State) e =>
    let (u, bad) := a.2.senseTile 2 x.die e.1 (512 * e.2) (512 * e.2 + 512) x.ctx
    (a.1 || bad, u)) (false, s)

/-- 64-byte lines that pieces of an image touch, each once, beside the parts that are always written (R58, R315). -/
def imageLines (g : Region) (ps : List (Nat × List Byte)) : List Nat :=
  let fixed := (80 + 32 * g.tiles.length) * 16
  List.range fixed ++ ((ps.flatMap fun p => (List.range (linesOf p.1 p.2.length)).map fun i => p.1 / 64 + i).filter
    fun l => decide (fixed ≤ l)).eraseDups

/-- The image of strand k written at addr in context c, and the header's bytes (R315, R316, R318); its lines count as
stores (R58, R321). -/
def State.writeImage (s : State) (k c addr : Nat) : List Byte × State :=
  match s.strand? k with
  | none => ([], s)
  | some x =>
    let all := x.home != some (c, addr)
    let (bad, s) := ((s.senseWindows k x all).senseSlots x all).senseBanks x all
    let x := (s.strand? k).getD x
    let marks := bad || s.poisoned? x
    let parts := if all then [(20, x.region.imageLen - 20)]
      else [(20, 2 ^ 15 - 20), (2 ^ 16, 2 ^ 14 + 2 ^ 15 * x.region.tiles.length)]
    let s := parts.foldl (fun s p => s.blur c x.die addr p) s
    let body := x.sramPieces all ++ s.arrayPieces x all
    let s := s.modDie x.die fun y => y.countStores (imageLines x.region body).length
    (x.header k marks, (x.headPieces k marks ++ body).foldl (fun s p => s.vpoke c x.die (addr + p.1) p.2) s)

/-- An image recorded, in place of one at its address. -/
def State.keepImage (s : State) (i : Image) : State :=
  { s with images := (s.images.filter fun j => !(j.ctx == i.ctx && j.addr == i.addr)) ++ [i] }

/-- An image of a strand whose region is still held. -/
def Image.ofStrand (c addr k : Nat) (head : List Byte) : Image :=
  { ctx := c, addr := addr, head := head, key := some k, snap := none, die := none, accs := [], opwins := [], streams := [], acct := [], trees := [],
    tickets := [], tasks := [], pool := [], deques := [], gangs := [] }

/-- A request of a generator on one of a region's tiles of die d. -/
def Req.streamsOn (d : Nat) (g : Region) : Req → Bool
  | .gen e t _ => e % 4 == d % 4 && g.holds t
  | _ => false

/-- The state of a region's tiles on die d, taken from the die (R313): accumulators, operand windows, generators, cycle
accounts. What a generator asked a walk for it asks anew from its next tile. -/
def State.stashTiles (s : State) (d : Nat) (g : Region) (i : Image) : Image × State :=
  let y := s.die d
  let mine := fun (t : Nat) => g.holds t
  ({ i with accs := y.accs.filter fun e => mine (e.1 / 4096), opwins := y.opwins.filter fun e => mine e.1
            streams := y.streams.filter fun e => mine (e.1 / 4), acct := y.acct.filter fun e => mine (e.1 / 8) },
   s.modDie d fun y => { y with
     accs := y.accs.filter fun e => !mine (e.1 / 4096), opwins := y.opwins.filter fun e => !mine e.1
     streams := y.streams.filter fun e => !mine (e.1 / 4), acct := y.acct.filter fun e => !mine (e.1 / 8)
     walks := y.walks.map fun w => { w with who := w.who.filter fun r => !r.streamsOn d g } })

/-- The images of a saved strand take over the state of its tiles (R313). -/
def State.stashSaved (s : State) (k : Nat) (x : Strand) : State :=
  (s.images.filter fun i => i.key == some k && i.snap.isNone).foldl (fun (u : State) i =>
    u.keepImage (s.stashTiles x.die x.region i).1) (s.stashTiles x.die x.region (Image.ofStrand 0 0 k [])).2

/-- A saved strand's region is freed: its tile state stays in its images and it waits under a key of its own (R311,
R320). -/
def State.freeSaved (s : State) (k : Nat) : State :=
  match s.strand? k with
  | none => s
  | some x =>
    let s := (s.stashSaved k x).releaseRegion x.die x.region.origin
    s.rekey k (s.parkKey k)

/-- The context whose page table maps the image that a save writes: the issuer's, else the strand's own. -/
def State.saveCtx (s : State) (x : Strand) (by_ : Option (Nat × Nat)) : Nat :=
  match by_.bind fun p => s.strand? p.1 with
  | some y => y.ctx
  | none => x.ctx

/-- A strand's save to addr is complete (R316, R317): its home image is addr, every unit is clean. -/
def State.endSave (s : State) (k addr : Nat) (free : Bool) (by_ : Option (Nat × Nat)) : State :=
  match s.strand? k with
  | none => s
  | some x =>
    let c := s.saveCtx x by_
    let (hd, s) := s.writeImage k c addr
    let s := s.modStrand k fun x => { x with save := .saved addr, home := some (c, addr), dirty := [] }
    let s := s.keepImage (Image.ofStrand c addr k hd)
    let s := s.answerAll (fun w => w == .save k) 0
    if free then s.freeSaved k else s

/-- SAVE_COMPLETE (R317). -/
def execSaveComplete (k : Nat) (s : State) : Host.Outcome State Fault Refusal :=
  .next (match s.strand? k with
    | none => s
    | some x =>
      match x.save with
      | .saving a f i => s.endSave k a f i
      | _ => s)

/-! ### Requests (R320) -/

/-- The whole range of an image is mapped writable for an access from die d (R317). -/
def State.imageMapped (s : State) (c d addr len : Nat) : Bool :=
  (List.range (len / 4096)).all fun i => match s.translate c d (addr + 4096 * i) .wr with
    | .ok _ _ => true
    | _ => false

/-- The slot of a strand in its context's pre-emption area (R311). -/
def State.psaveSlot (s : State) (k : Nat) (x : Strand) : Nat :=
  match s.ctx? x.ctx with
  | some c => bits c.psave.toNat 55 30 * 2 ^ 30 + 2 ^ 30 * (128 * (k / 256 % 4) + k % 256 / 2)
  | none => 0

/-- How a request to save strand k stands (R320): refused with a status, served at once, asked for, or to be tried
again behind the save under way. -/
inductive Asked where
  | no (status : Nat)
  | served (s : State)
  | waits (s : State)
  | later

/-- A request to save strand k at addr: one to the address of the save that is asked for or under way, in the context whose
table maps it, joins it (R320). -/
def State.askSave (s : State) (k addr : Nat) (free : Bool) (by_ : Option (Nat × Nat)) : Asked :=
  match s.strand? k with
  | none => .no 1
  | some x =>
    let same := fun (a : Nat) (i : Option (Nat × Nat)) => a == addr && s.saveCtx x i == s.saveCtx x by_
    if ¬ x.lives then .no 1
    else match x.save with
      | .running => .waits (s.modStrand k fun x => { x with save := .asked addr free by_, asked := 0 })
      | .asked a f i =>
        if same a i then .waits (s.modStrand k fun x => { x with save := .asked a (f || free) i }) else .later
      | .saving a f i =>
        if same a i then .waits (s.modStrand k fun x => { x with save := .saving a (f || free) i }) else .later
      | .saved _ => if 1024 ≤ k then .no 1 else .served (s.endSave k addr free by_)

/-! ### Shrinks (R198, R312) -/

/-- The new region after a shrink: the old origin, fewer rows and columns. -/
def Region.shrunk (g : Region) (rows cols : Nat) : Region := { g with rows := rows, cols := cols }

/-- A shape lies within the region, leaves two tiles and excludes no M-tile that holds an open window (R198, R321). Where it
excludes the lead tile, the lowest M-tile that is left leads the strand (R15; log 26). -/
def Strand.shrinks (x : Strand) (rows cols : Nat) : Bool :=
  decide (rows ≤ x.region.rows) && decide (cols ≤ x.region.cols) && decide (2 ≤ rows * cols) &&
    x.wins.all fun e => (x.region.shrunk rows cols).holds e.2.tile

/-- A block stands on a smaller region as it stands on the present one: a control block lies on no tile, a fabric block keeps
its copies (R49). -/
def Run.keeps (r : Run) (old g : Region) : Bool := r.blk.copies g == r.blk.copies old

/-- A firing of the instruction leaves nothing behind but its tokens and its held register writes, which a block that begins
again makes again. -/
def leavesNothing (i : Instr) : Bool :=
  let op := i.fields.op
  let port := fun (t : Tgt) => match t with
    | .port _ => true
    | _ => false
  ((0x06 ≤ op && op ≤ 0x0A && op != 0x08) || (0x10 ≤ op && op < 0x60) || op == 0x70 || op == 0x74 || op == 0x76 || op == 0x77
    || op == 0x84 || op == 0x8A || (0x90 ≤ op && op ≤ 0x93) || (0x99 ≤ op && op ≤ 0x9C)) && !port (tgtA i) && !port (tgtB i)

/-- A fabric block that has had no effect: what has fired leaves nothing behind, or waits for a window before its own effect. It
may begin again from its first firing (R312; log 26). -/
def Run.pristine (r : Run) : Bool :=
  r.blk.isFabric && r.traps.isEmpty && r.exits.isEmpty && r.stackOps.isEmpty && !r.mstop && r.nodes.all fun n =>
    n.fired == 0 || (r.blk.instr? n.slot).any leavesNothing
      || (n.done == 0 && n.fired == n.pend.length && n.pend.all fun p => p.prog.isEmpty && match p.why with
        | .winRead .. | .winFill .. | .opRead .. | .opFill .. => true
        | _ => false)

/-- The strand's blocks that cannot go on, on a smaller region, as they stand: the running one, unless it has ended, and a
suspended one. -/
def Strand.unsettled (x : Strand) (g : Region) : List Run :=
  ([if x.phase = .run then x.run else none, x.susp].filterMap id).filter fun r => !r.keeps x.region g

/-- A shrink may be taken with the strand's blocks as they stand: each keeps its copies or begins again (R312; log 26). -/
def Strand.settles (x : Strand) (g : Region) : Bool := (x.unsettled g).all Run.pristine

/-- The strand on its smaller region: a block that does not keep its copies begins again once it is entered or resumed, in the
form that fits (R198, R312). -/
def Strand.resettle (x : Strand) (g : Region) (moves : Bool) : Strand :=
  let fresh := fun (r : Run) => if moves then r.unregistered else r
  let y := { x with region := g, lead := g.lead, shrink := none, shrunk := true
                    susp := (x.susp.filter fun r => r.keeps x.region g).map fresh }
  match x.run with
  | some r => if x.phase = .run ∧ ¬ r.keeps x.region g then { y with phase := .enter, bc := BitVec.ofNat 64 r.blk.addr, run := none }
    else { y with run := some (fresh r) }
  | none => y

/-- The strand's region shrinks; vacated tiles return to the allocator and lose their state (R312). A strand whose lead tile is
vacated takes the key of its new one (R15), and its waits register anew. The strand's key, and the state. -/
def State.shrinkNow (s : State) (k rows cols : Nat) : Nat × State :=
  match s.strand? k with
  | none => (k, s)
  | some x =>
    let g := x.region.shrunk rows cols
    let new := strandKey x.die g.lead
    let moves := new != k || !(x.unsettled g).isEmpty
    let s := if moves then s.dropBlockEntries k else s
    let s := (if new = k then s else s.rekey k new).modDie x.die fun y => { y with
      regions := y.regions.map fun h => if h.origin = g.origin then { g with strand := some new } else h
      accs := y.accs.filter fun e => !(x.region.holds (e.1 / 4096) && !g.holds (e.1 / 4096))
      opwins := y.opwins.filter fun e => !(x.region.holds e.1 && !g.holds e.1)
      acct := y.acct.filter fun e => !(x.region.holds (e.1 / 8) && !g.holds (e.1 / 8)) }
    let s := s.modStrand new fun y => y.resettle { g with strand := some new } moves
    (new, (if moves then s.registerAll new else s).answerAll (fun w => w == .fold new) 0)

/-! ### Restore (R306, R319) -/

/-- A tile of the old region at its place in the new one. -/
def moveTile (a b : Region) (t : Nat) : Nat := 16 * (b.r + t / 16 - a.r) + (b.c + t % 16 - a.c)

/-- An engine's or generator's identity follows its window to the new tile (R145, R319). -/
def movedIdent (d0 d t : Nat) (v : BitVec 16) : BitVec 16 :=
  let kind := v.toNat / 2 ^ 13
  if kind = 2 ∨ kind = 3 ∨ kind = 5 then
    BitVec.ofNat 16 (kind * 2 ^ 13 + (if bits v.toNat 12 11 = d0 % 4 then d % 4 else bits v.toNat 12 11) * 2 ^ 11
      + t % 256 * 2 ^ 3 + v.toNat % 8)
  else v

/-- A window on its new tile. -/
def Win.moved (a b : Region) (d0 d : Nat) (w : Win) : Win :=
  let t := moveTile a b w.tile
  { w with tile := t, filler := movedIdent d0 d t w.filler, drainer := movedIdent d0 d t w.drainer }

/-- A wait on something of a tile, on the new tile (R200, R319). -/
def Why.moved (a b : Region) (d : Nat) : Why → Why
  | .stream _ t g => .stream d (moveTile a b t) g
  | .opRead _ t off => .opRead d (moveTile a b t) off
  | .opFill _ t => .opFill d (moveTile a b t)
  | w => w

/-- A block on its new tiles, reading a constant store. -/
def Run.moved (a b : Region) (d kst : Nat) (r : Run) : Run :=
  { r with kstore := kst, nodes := r.nodes.map fun n =>
      { n with pend := n.pend.map fun p => { p with why := p.why.moved a b d } } }

/-- A restored operation that waited for its translation (R306): declined while it was saved, it fails; else it translates
again. -/
def State.retranslate (s : State) (p : Pend) : State :=
  match p.why, s.strand? p.fire.k with
  | .xlat page, some x =>
    if p.prog = [1] then s.decline p
    else s.modDie x.die fun y => y.askWalk
      { ctx := x.ctx, page := page,
        acc := (p.acc.elim 1 fun a => (if a.op.reads then 1 else 0) + if a.op.stores then 2 else 0)
        tile := x.nodeTile p.fire.copy p.fire.slot, prio := x.eff, seq := none, declined := false, who := [p.fire.req]
        stamp := x.stamp }
  | _, _ => s

/-- A resumed TDEP.W whose task completed while its block stood still returns (R248, R272). -/
def State.endedTask (s : State) (p : Pend) : State :=
  match p.why, p.prog, s.held? p.fire.k p.fire.hand p.fire.copy p.fire.slot p.fire.iter with
  | .task _, [v], some (x, _, i, _) =>
    if x.opens p.fire.hand then s.settleHeld p (tgtA i) .none (some (.tok (Tok.i64 v p.fire.marks))) none else s
  | _, _, _ => s

/-- A request of strand k, its generators' apart. -/
def Req.ofStrand (k : Nat) : Req → Bool
  | .gen _ _ _ => false
  | r => r.strand == k

/-- Requests of strand k leave the walks of every die; a walk that nobody waits for any more goes once it was declined
(R306). -/
def State.leaveWalks (s : State) (k : Nat) : State :=
  let left := fun (w : Walk) => { w with who := w.who.filter fun r => !r.ofStrand k }
  { s with dies := s.dies.map fun (y : Die) =>
      { y with walks := (y.walks.map left).filter fun w => !(w.declined && w.who.isEmpty) } }

/-- Requests of strand k leave the walks of every die; the declines among them stand on die d, where the strand is restored and
takes them (R306). -/
def State.carryWalks (s : State) (k d : Nat) : State :=
  let mine := s.dies.toList.flatMap fun y => (y.walks.filter (·.declined)).filterMap fun w =>
    let who := w.who.filter (Req.ofStrand k)
    if who.isEmpty then none else some { w with who := who }
  (s.leaveWalks k).modDie d fun y => { y with walks := y.walks ++ mine }

/-- Kind of a post that tells Jasper of a victim (R311). -/
def postVictimKind : Nat := 8

/-- What happens at once where a block goes on that stood still, before any node of it fires (R116, R248, R272, R306): its
accesses translate again, results that came meanwhile arrive, and every wait registers. -/
def State.resumeRun (s : State) (k : Nat) : State :=
  let s := (s.pendsOf fun w => match w with
    | .xlat _ | .task _ => true
    | _ => false).foldl (fun s p => if p.fire.k = k then (s.retranslate p).endedTask p else s) s
  ((s.pollEngines k).registerAll k).registerGens k

/-- A restored strand goes on where it stands (R81, R319), and a halt that was asked for takes effect (R328). -/
def State.resumeSaved (s : State) (k : Nat) : State :=
  let s := s.resumeRun k
  if (s.strand? k).any Strand.haltAsked then s.halt k else s

/-- The saved strand k is restored from the image at `addr` of context c onto region b of die d, which it holds from then
on (R121, R316, R319): its record and tile state return, on the new tiles; the block reads the constant store current now
(R59); marks come back with their rows; Jasper's post of a victim goes. Debug control, the comparators and the deque are in no
image (R313): they stay as they are (R328). Its images keep what they hold; `home` is what becomes the home image. -/
def State.restoreOn (s : State) (k : Nat) (d : Nat) (b : Region) (c from_ : Nat) (home : Nat × Nat) : Nat × State :=
  match s.strand? k with
  | none => (k, s)
  | some y =>
    let s := if k < 1024 then s.stashSaved k y else s
    let keep := fun (i : Image) => if i.key = some k ∧ i.snap.isNone then { i with snap := some y } else i
    let s := { s with images := s.images.map keep }
    match s.images.find? fun i => i.key == some k && i.ctx == c && i.addr == from_ with
    | none => (k, s)
    | some i =>
      let x := { i.snap.getD y with dbgctl := y.dbgctl, brkr := y.brkr, deque := y.deque, victim := y.victim }
      let a := x.region
      let new := strandKey d b.lead
      let mv := fun (t : Nat) => moveTile a b t
      let kst := s.kcurrent { x with die := d }
      let s := ((s.carryWalks k d).modStrand k fun _ => x).modCtx x.ctx fun z =>
        { z with posts := z.posts.erase (postVictimKind, strandId k) }
      let s := (s.rekey k new).modStrand new fun x => { x with
        die := d, lead := b.lead, region := { b with strand := some new }, save := .running, asked := 0, rovf := false
        home := some home, dirty := [], wins := x.wins.map fun e => (e.1, e.2.moved a b x.die d)
        run := x.run.map (Run.moved a b d kst), susp := x.susp.map (Run.moved a b d kst) }
      let i := (s.images.find? fun j => j.ctx == i.ctx && j.addr == i.addr).getD i
      let hold := fun (g : Region) => if g.origin = b.origin then { g with strand := some new } else g
      let s := s.modDie d fun z => { z with
        regions := z.regions.map hold
        accs := i.accs.foldl (fun l e => put (mv (e.1 / 4096) * 4096 + e.1 % 4096) e.2 l) z.accs
        opwins := i.opwins.foldl (fun l e => put (mv e.1) e.2 l) z.opwins
        streams := i.streams.foldl (fun l e => put (mv (e.1 / 4) * 4 + e.1 % 4) { e.2 with reg := false } l) z.streams
        acct := i.acct.foldl (fun l e => put (mv (e.1 / 8) * 8 + e.1 % 8) e.2 l) z.acct }
      (new, s.resumeSaved new)

end Sys2Proof.Machine
end

