-- ==== Sys2Proof/Machine/Alloc.lean ====
section
/-! DEFINITION. Machine/Alloc.lean: the region allocator (R309 to R311, R331, R352), and how strands come to run: package
reset and bring-up (R346, R348), contexts (R16), launches (R239, R240, R340 to R343) and preloads (R35, R144, R218). -/

namespace Sys2Proof.Machine

open Sys2Proof

/-! ### Requests and rectangles -/

/-- A region request (R309). -/
structure Request where
  rows : Nat
  cols : Nat
  ctile : Bool
  die : Nat
  any : Bool
  conv : Bool
  j : Nat
  deriving DecidableEq, Repr

/-- A request from its word; none where it breaks a limit (R15, R309). -/
def requestOf (v : Nat) : Option Request :=
  let rows := bits v 3 0 + 1
  let cols := bits v 7 4 + 1
  if v / 2 ^ 15 ≠ 0 ∨ rows * cols < 2 then none
  else some { rows := rows, cols := cols, ctile := bit v 8, die := bits v 10 9, any := bit v 11, conv := bit v 12,
              j := bits v 14 13 }

/-- Dies that a request tries, in order (R309). -/
def Request.dies (q : Request) : List Nat := if q.any then [0, 1, 2, 3] else [q.die]

/-- A tile is retired (R352). -/
def Die.retired (y : Die) (t : Nat) : Bool := bit (y.retmap[t / 64 % 4]'(Nat.mod_lt _ (by decide))).toNat (t % 64)

/-- Tiles that a context holds in regions that count (R310). -/
def State.tilesOf (s : State) (ctx : Nat) (counts : Nat → Region → Bool) : Nat :=
  ((List.range 4).map fun d => (((s.die d).regions.filter fun g => g.ctx == ctx && counts d g).map fun g =>
    g.rows * g.cols).sum).sum

/-- The rectangle of a request at an origin tile. -/
def Request.at (q : Request) (ctx o : Nat) : Region :=
  { r := o / 16, c := o % 16, rows := q.rows, cols := q.cols, ctx := ctx, strand := none }

/-- Who holds a rectangle while victims are saved for it (R311): a queued request of group 0xE by its arrival number, a
context's launches, a strand's insert. -/
def launchWho (c : Nat) : Nat := 2 ^ 40 + c
/-- See `launchWho`. -/
def insertWho (k : Nat) : Nat := 2 ^ 41 + k

/-- The requester still asks. -/
def State.asksFor (s : State) (who : Nat) : Bool :=
  if who < 2 ^ 40 then (s.pendsOf fun w => w == .region).any fun p => p.prog == [who]
  else if who < 2 ^ 41 then (s.ctx? (who - 2 ^ 40)).any fun c => !c.blocked.isEmpty
  else (s.run? (who - 2 ^ 41)).any fun r => r.exits.any fun e => match e.2.2 with
    | .splicing _ => true
    | _ => false

/-- Two rectangles share a tile. -/
def Region.meets (g h : Region) : Bool :=
  decide (g.r < h.r + h.rows ∧ h.r < g.r + g.rows ∧ g.c < h.c + h.cols ∧ h.c < g.c + g.cols)

/-- Effective priority of a requester that holds a rectangle (R239, R311, R320). -/
def State.whoPrio (s : State) (who : Nat) : Nat :=
  if who < 2 ^ 40 then (((s.pendsOf fun w => w == .region).find? fun p => p.prog == [who]).map fun p => s.prioOf p.fire.req).getD 0
  else if who < 2 ^ 41 then ((s.ctx? (who - 2 ^ 40)).map fun c => (c.blocked.map c.queuePrio).foldl max 0).getD 0
  else ((s.strand? (who - 2 ^ 41)).map (·.eff)).getD 0

/-- A rectangle of die d is held for another requester, whom one of priority p does not precede (R311, R320). -/
def State.reserved (s : State) (who p d : Nat) (g : Region) : Bool :=
  (s.die d).resv.any fun e => e.1 != who && e.2.meets g && s.asksFor e.1 && decide (p ≤ s.whoPrio e.1)

/-- The rectangle held for a requester (R311). -/
def State.heldFor (s : State) (who : Nat) : Option (Nat × Region) :=
  (List.range 4).findSome? fun d => ((s.die d).resv.find? fun e => e.1 == who).map fun e => (d, e.2)

/-- A requester holds a rectangle no longer. -/
def State.unreserve (s : State) (who : Nat) : State :=
  { s with dies := s.dies.map fun (y : Die) => { y with resv := y.resv.filter fun e => e.1 != who } }

/-- A requester holds one rectangle; what nobody asks for any more goes. -/
def State.reserve (s : State) (who d : Nat) (g : Region) : State :=
  if (s.die d).resv.contains (who, g) then s
  else (s.unreserve who).modDie d fun y => { y with resv := (y.resv.filter fun e => s.asksFor e.1) ++ [(who, g)] }

/-- What a request asks for besides its shape: of a restore, that the strand's blocks find their converters (R319). -/
def anyRect (_ : Nat) (_ : Region) : Bool := true

/-- The rectangle at origin o of die d is eligible for a requester of priority p (R310), regions that `counts` leaves out being
free. -/
def State.eligible (s : State) (who p ctx : Nat) (q : Request) (counts fits : Nat → Region → Bool) (d o : Nat) : Bool :=
  let g := q.at ctx o
  let y := s.die d
  let quota := ((s.ctx? ctx).map fun c => bits c.rgnq.toNat 9 0).getD 0
  decide (g.r + g.rows ≤ 16 ∧ g.c + g.cols ≤ 16)
  && (isMTile o != q.ctile)
  && g.tiles.all (fun t => !y.retired t && !(y.regions.any fun h => counts d h && h.holds t))
  && decide (s.tilesOf ctx counts + g.rows * g.cols ≤ quota)
  && (!q.conv || (g.r % 2 == 0 && (g.c + q.j) % 4 == 1))
  && !s.reserved who p d g && fits d g

/-- The eligible rectangle of lowest origin tile number on the first die that has one (R309, R310). -/
def State.findRect (s : State) (who p ctx : Nat) (q : Request) (counts fits : Nat → Region → Bool) :
    Option (Nat × Region) :=
  q.dies.findSome? fun d => ((List.range 256).find? fun o => s.eligible who p ctx q counts fits d o).map fun o =>
    (d, q.at ctx o)

/-- A rectangle granted (R15, R310): every accumulator of its C-tiles takes tag 15 (R331). -/
def State.grantRegion (s : State) (d : Nat) (g : Region) : State :=
  s.modDie d fun y => { y with
    regions := y.regions ++ [g]
    accs := (y.accs.map fun e => if g.holds (e.1 / 4096) then (e.1, { e.2 with tag := 15 }) else e).filter fun e =>
      e.2 != Acc.reset }

/-- Every region counts. -/
def allCount (_ : Nat) (_ : Region) : Bool := true

/-! ### Pre-emption (R311) -/

/-- A strand may be saved and its region freed for a request of priority p (R311, R320): behind a save that is asked for
or under way in any case. -/
def State.freeable (s : State) (p k : Nat) (x : Strand) : Bool :=
  decide (x.eff < p) && x.lives && decide (k < 1024) &&
    match s.ctx? x.ctx with
    | none => false
    | some c => !bit c.pmode.toNat 0 && match x.save with
      | .saved _ | .asked _ _ _ | .saving _ _ _ => true
      | .running => bits c.psave.toNat 55 30 != 0 &&
          s.imageMapped x.ctx x.die (s.psaveSlot k x) x.region.imageLen

/-- The keys of strands that a request of priority p may free. -/
def State.freeables (s : State) (p : Nat) : List Nat := (s.strands.filter fun e => s.freeable p e.1 e.2).map (·.1)

/-- Kind of a post that asks Jasper to pre-empt a strand of a context it manages (R311). -/
def postPreemptKind : Nat := 6

/-- A word posted to Jasper for a context, once. -/
def Ctx.post (c : Ctx) (kind v : Nat) : Ctx :=
  if c.posts.contains (kind, v) then c else { c with posts := c.posts ++ [(kind, v)] }

/-- A victim is saved and its region freed (R311): at once where it stands saved, else its save is asked for. Jasper is
told of it. -/
def State.evict (s : State) (k : Nat) : State :=
  match s.strand? k with
  | none => s
  | some x =>
    let s := s.modCtx x.ctx fun c => c.post postVictimKind (strandId k)
    match x.save with
    | .saved _ => s.freeSaved k
    | .running => s.modStrand k fun x => { x with save := .asked (s.psaveSlot k x) true none, asked := 0 }
    | _ => s

/-- The rectangle that a request pre-empts for is held for it, and every freeable strand on it is saved and freed (R311). -/
def State.preemptAt (s : State) (who d : Nat) (g : Region) (fs : List Nat) : State :=
  let hit := fs.filter fun k => (s.die d).regions.any fun h => h.strand == some k && h.meets g
  hit.foldl State.evict (s.reserve who d g)

/-- A request that finds nothing to pre-empt is posted to Jasper for the strands of the contexts that it manages (R311). -/
def State.postRequest (s : State) (p : Nat) (q : Request) : State :=
  s.strands.foldl (fun s e =>
    if e.2.eff < p ∧ q.dies.contains (e.1 / 256 % 4) then s.modCtx e.2.ctx fun c =>
      if bit c.pmode.toNat 0 then c.post postPreemptKind (strandId e.1) else c
    else s) s

/-- How a request stands (R190, R239, R310, R311, R321): a rectangle, a wait for the saves of a pre-emption, or nothing
that fits, with 1 no fit or 2 quota. Strands that Jasper is asked to pre-empt make no wait (log 26). -/
inductive Found where
  | at_ (d : Nat) (g : Region)
  | waits (s : State)
  | no (s : State) (code : Nat)

/-- A request of a context at a priority: a rectangle that is held for it is granted once the saves complete; else one that
is eligible, or one that becomes so by pre-emption (R310, R311). -/
def State.allocate (s : State) (who ctx p : Nat) (q : Request) (fits : Nat → Region → Bool) : Found :=
  let fs := s.freeables p
  let freed := fun (_ : Nat) (g : Region) => !(g.strand.any fs.contains)
  match (s.heldFor who).filter fun e => s.eligible who p ctx q freed fits e.1 e.2.origin with
  | some (d, g) => if s.eligible who p ctx q allCount fits d g.origin then .at_ d g else .waits (s.preemptAt who d g fs)
  | none =>
    match s.findRect who p ctx q allCount fits with
    | some (d, g) => .at_ d g
    | none => match s.findRect who p ctx q freed fits with
      | some (d, g) => .waits (s.preemptAt who d g fs)
      | none =>
        let quota := ((s.ctx? ctx).map fun c => bits c.rgnq.toNat 9 0).getD 0
        .no (s.postRequest p q) (if quota < s.tilesOf ctx allCount + q.rows * q.cols then 2 else 1)

/-! ### Strands start -/

/-- A window that a launch declares, opened as WOPEN would (R144). -/
def WinDecl.open_ (w : WinDecl) (k : Nat) (g : Region) : Win :=
  Win.opened k (16 * (g.r + w.row) + g.c + w.col) w.index (w.slots - 1) w.elem w.tag w.base false

/-- A strand placed on a granted region of die d: its key, and the state (R15). Its operand windows are at launch
(R174). -/
def State.place (s : State) (d : Nat) (g : Region) (x : Strand) : Nat × State :=
  let k := strandKey d g.lead
  let s := s.grantRegion d { g with strand := some k }
  let s := s.modDie d fun y => { y with opwins := y.opwins.filter fun e => !g.holds e.1 }
  (k, { s with strands := put k { x with ctx := g.ctx, die := d, lead := g.lead, region := { g with strand := some k } }
                            s.strands })

/-- The strand of a launch (R36, R109, R239): registers tagged I64, base priority of its queue, and everything before it
acquired (R240, R342). -/
def launchStrand (l : Launch) (prio : Nat) (st : Stamp) (decls : List WinDecl) (g : Region) (k : Nat) : Strand :=
  let x := (l.regs.zipIdx).foldl (fun (x : Strand) v => x.writeReg (v.2 + 1) v.1 .i64) Strand.init
  { x with bc := BitVec.ofNat 64 l.entry, base := prio, eff := prio, stamp := st, launch := { l with started := true }
           wins := decls.foldl (fun ws w => put w.num (w.open_ k g) ws) []
           phase := .preload 0 }

/-! ### Package reset and contexts -/

/-- A die after the self-test of bring-up: the tiles that failed are retired (R348), each with an entry of the error
log (R354): of an M-tile in its window SRAM's, of a C-tile in its operand memory's (R9; log 30). -/
def Die.tested (n d : Nat) : Die :=
  let fails := fun (t : Nat) => Config.tileTestFails n (256 * d + t)
  let word := fun (i : Nat) => BitVec.ofNat 64 (lanesNat 1 ((List.range 64).map fun b => if fails (64 * i + b) then 1 else 0))
  ((List.range 256).filter fails).foldl (fun y t => y.logError d (if isMTile t then 0 else 1) 0 4 (strandKey d t) 0xFF)
    { Die.reset with retmap := Vector.ofFn fun i => word i.val }

/-- PACKAGE_RESET (R346, R348): reset, then bring-up: firmware that is rejected leaves the package in recovery; tiles
whose test fails are retired. The image set is the one loaded last. Which firmware is accepted and which tile fails is free (log 8). -/
def execPackageReset (s : State) : Host.Outcome State Fault Refusal :=
  let n := s.free
  let r := { State.reset with free := n + 1, agenda := s.agenda, image := s.image }
  .next (if Config.bootAccepted n then { r with boot := 4, dies := Vector.ofFn fun d => Die.tested n d.val }
  else { r with boot := 1, recovery := true })

/-- CONTEXT_OPEN (R16): every per-context register at its reset value, then RGNQ, CTXPRIV and the allotment that Beryl
loads; each die's constant stores are empty (R59). -/
def execContextOpen (c q : Nat) (priv super : Bool) (frames : List (Nat × Nat)) (s : State) :
    Host.Outcome State Fault Refusal :=
  .next (if s.boot ≠ 4 ∨ 64 ≤ c ∨ (s.ctx? c).isSome then s
    else
      { s with
        ctxs := put c { Ctx.start with rgnq := BitVec.ofNat 64 (q % 2 ^ 10)
                                       ctxpriv := BitVec.ofNat 64 ((if priv then 1 else 0) + if super then 2 else 0)
                                       frames := frames } s.ctxs
        dies := s.dies.map fun (y : Die) => { y with ksegs := del c y.ksegs } })

/-- Task-store entries of a context freed, their generations advanced (R242). -/
def Die.dropStore (y : Die) (c : Nat) : Die :=
  let mine := y.store.filter fun e => e.2.ctx == c
  { y with store := y.store.filter fun e => e.2.ctx != c
           gens := mine.foldl (fun g e => put e.1 ((look e.1 g).getD 0 + 1) g) y.gens }

/-- What a context that closes leaves on a die (R16): no region, task, ticket, translation, walk or constant store. -/
def Die.dropCtx (y : Die) (c : Nat) : Die :=
  Die.dropStore { y with
    regions := y.regions.filter fun g => g.ctx != c
    tickets := y.tickets.filter fun t => t.2.ctx != c
    tlb := y.tlb.filter fun x => x.ctx != c
    walks := y.walks.filter fun w => w.ctx != c
    ksegs := del c y.ksegs } c

/-- The completion of a refused record (R340, R343). -/
def refusal (c comp head : Nat) : Completion :=
  { ctx := c, comp := comp, code := 3, cause := 0, ident := 0, lhead := head, tres := 0, q := 0 }

/-- CONTEXT_CLOSE (R16): only with the launch ring disabled and no strand but saved ones whose regions are free. A launch
that is still queued is refused as a record posted to a closed context is (log 26). Its images, and those of its strands that
another context wrote, are plain memory from then on. -/
def execContextClose (c : Nat) (s : State) : Host.Outcome State Fault Refusal :=
  .next (match s.ctx? c with
    | none => s
    | some x =>
      if ringSize x.lring ≠ 0 ∨ s.strands.any (fun e => e.2.ctx == c && decide (e.1 < 1024)) then s
      else
        let gone := fun (p : Piece) => (s.task? p.handle).any fun t => t.ctx == c
        { s with
          ctxs := del c s.ctxs
          done := s.done ++ (x.queues.flatMap fun q => q.2.filter fun l => !l.started && l.comp != 0).map fun l =>
            refusal c l.comp l.lhead
          strands := s.strands.filter fun e => e.2.ctx != c
          images := s.images.filter fun i => i.ctx != c && !(i.key.bind s.strand?).any fun z => z.ctx == c
          dies := s.dies.map fun (y : Die) => Die.dropCtx { y with pool := y.pool.filter fun p => !gone p } c })

/-! ### The launch ring -/

/-- Bytes of a launch record (R340). -/
def launchBytes : Nat := 320

/-- A physical range has something behind it (R339). -/
def State.backed (s : State) (pa n : Nat) : Bool := s.paMapped pa && s.paMapped (pa + n - 1)

/-- The launch records among a host's writes, in the order in which they were begun: 320 bytes from a 64-byte-aligned address
on, all of them written; of those that share bytes, the lower (R340; log 26). -/
def postedRecords (w : List (Nat × BitVec 8)) : List Nat :=
  let as := (w.map (·.1)).eraseDups
  let whole := as.filter fun a => a % 64 == 0 && (List.range launchBytes).all fun i => as.contains (a + i)
  let kept := (sortBy (fun (a b : Nat) => decide (a < b)) whole).foldl
    (fun l a => if l.all fun b => decide (b + launchBytes ≤ a) then l ++ [a] else l) []
  as.filter kept.contains

/-- The records posted to a closed context are refused (R16, R340): those that the host's writes before the doorbell hold, the
doorbell counting the last of them (log 26). -/
def State.refuseClosed (s : State) (c : Nat) (v : BitVec 32) (w : List (Nat × BitVec 8)) : State :=
  let l := postedRecords w
  { s with done := s.done ++ (l.zipIdx.map fun e =>
      refusal c (s.mem.readNat (s.backing (e.1 + 24)) 8) (v - BitVec.ofNat 32 (l.length - e.2)).toNat).filter fun r => r.comp != 0 }

/-- LDOOR (R341, R342): host writes that reached the link before it are applied at their homes; a doorbell more than
the ring's size past LHEAD is ignored. In recovery only a new image comes over the link (R346). -/
def execLdoor (c : Nat) (v : BitVec 32) (w : List (Nat × BitVec 8)) (s : State) : Host.Outcome State Fault Refusal :=
  if s.recovery then .next s
  else
    let s := w.foldl (fun s b => if s.backed b.1 1 then s.poke (s.backing b.1) [b.2] else s) s
    .next (match s.ctx? c with
      | none => s.refuseClosed c v w
      | some _ => s.modCtx c fun x =>
        if (v - x.lhead.setWidth 32).toNat ≤ 2 ^ ringSize x.lring then { x with ldoor := v.setWidth 64 } else x)

/-- A launch record, or none where it breaks a limit (R340). -/
def launchOf (bs : List Byte) (head : Nat) : Option Launch :=
  let f := fun (o n : Nat) => leNat ((bs.drop o).take n)
  if (requestOf (f 8 8)).isNone ∨ 16 ≤ f 16 1 ∨ 2 ≤ f 17 1 ∨ f 18 6 ≠ 0 ∨ f 24 8 % 16 ≠ 0 ∨ f 280 40 ≠ 0 then none
  else some { entry := f 0 8, req := BitVec.ofNat 64 (f 8 8), q := f 16 1, overlap := f 17 1 == 1, comp := f 24 8,
              regs := (List.range 31).map fun i => BitVec.ofNat 64 (f (32 + 8 * i) 8), lhead := head, started := false }

/-- A launch joins its queue. -/
def Ctx.enqueue (x : Ctx) (l : Launch) : Ctx := { x with queues := put l.q ((look l.q x.queues).getD [] ++ [l]) x.queues }

/-- A physical range as pieces with their homes. -/
def State.physAt (s : State) (pa n : Nat) : List (Nat × Nat × Nat) :=
  (pieces pa n).map fun p => (s.backing p.1, homeDie 0 (s.framePlace p.1) p.1, p.2)

/-- LAUNCH_TAKE (R340, R342): the record at slot LHEAD mod 2^size is queued or refused; one whose read meets an
uncorrectable error is refused (log 30). -/
def execLaunchTake (c : Nat) (s : State) : Host.Outcome State Fault Refusal :=
  match s.ctx? c with
  | none => .next s
  | some x =>
    if s.boot ≠ 4 ∨ ringSize x.lring = 0 ∨ x.lhead.setWidth 32 = x.ldoor.setWidth 32 then .next s
    else
      let head := x.lhead.toNat
      let pa := ringBase x.lring + head % 2 ^ ringSize x.lring * launchBytes
      if ¬ s.backed pa launchBytes then .fault (.physicalHole pa)
      else
        let bs := s.mem.readN (s.backing pa) launchBytes
        let (s, bad) := s.sensePieces 0 0 c (s.physAt pa launchBytes)
        let s := s.modCtx c fun x => { x with lhead := BitVec.ofNat 64 ((head + 1) % 2 ^ 32) }
        .next (match if bad.isSome then none else launchOf bs head with
          | some l => s.modCtx c fun x => x.enqueue l
          | none =>
            let comp := leNat ((bs.drop 24).take 8)
            if comp = 0 then s else { s with done := s.done ++ [refusal c comp head] })

/-- The launch of a queue that may start: its first that has not, where nothing earlier is left, or it overlaps
(R239). -/
def startable (l : List Launch) : Option Launch :=
  match l with
  | [] => none
  | a :: _ => if ¬ a.started then some a else
      (l.find? fun b => !b.started).bind fun b => if b.overlap then some b else none

/-- The next launch to dispatch: highest queue priority; among equals one that could not be granted before, else in turn
after the queue last served (R239). -/
def Ctx.nextLaunch (x : Ctx) : Option Launch :=
  let turn := x.blocked ++ (List.range 16).map fun i => (x.lastq + 1 + i) % 16
  ([7, 6, 5, 4, 3, 2, 1, 0].flatMap fun p => turn.filter fun q => x.queuePrio q == p).findSome? fun q =>
    (look q x.queues).bind startable

/-- A queued launch marked as started; it blocks nothing any more. -/
def Ctx.markStarted (x : Ctx) (l : Launch) : Ctx :=
  { x with lastq := l.q, blocked := x.blocked.filter (· != l.q), queues := x.queues.map fun e =>
      if e.1 = l.q then (e.1, e.2.map fun b => if b = l then { b with started := true } else b) else e }

/-- LAUNCH_DISPATCH (R239, R311): the context's next launch is granted its region and its strand starts; without a
rectangle it pre-empts and blocks every launch of equal or lower priority. -/
def execLaunchDispatch (c : Nat) (s : State) : Host.Outcome State Fault Refusal :=
  .next (match s.ctx? c with
    | none => s
    | some x =>
      match x.nextLaunch with
      | none => s
      | some l =>
        match requestOf l.req.toNat with
        | none => s
        | some q =>
          let prio := x.queuePrio l.q
          let block := fun (s : State) => s.modCtx c fun x =>
            { x with blocked := if x.blocked.contains l.q then x.blocked else x.blocked ++ [l.q] }
          match s.allocate (launchWho c) c prio q anyRect with
          | .at_ d g =>
            let decls := (look l.entry x.decls).getD []
            (((s.unreserve (launchWho c)).place d g (launchStrand l prio s.depAll decls g (strandKey d g.lead))).2).modCtx c
              fun x => x.markStarted l
          | .waits u => block u
          | .no u _ => block u)

/-! ### Preloads (R35, R218) -/

/-- The elements that a launch's declarations preload, in order: entry, address of the element's bytes, how many bytes,
and whether it is its object's first. -/
def preloads (ds : List WinDecl) : List (Nat × Nat × Nat × Bool) :=
  ds.flatMap fun w => match w.init with
    | none => []
    | some (a, n) =>
      let b := 64 * 2 ^ w.elem
      (List.range (128 * n / b)).map fun i => (w.num, a + b * i, b, i == 0)

/-- Lines of a preload counted once each (R58, R218): those that begin in the element, and the first of its object. -/
def State.countPreload (s : State) (x : Strand) (va n : Nat) (first : Bool) : State :=
  let ps := (pieces va n).filter fun p => first || p.1 % 64 == 0
  match s.physPieces x.ctx x.die ⟨x.lead, .nobody⟩ x.stamp .rd ps with
  | .ok qs => s.countPieces x.die qs
  | _ => s

/-- The first address of a range of n bytes that lies in the line of a physical address. -/
def State.vaOf (s : State) (c d va n pa : Nat) : Option Nat :=
  ((pieces va n).find? fun p => match s.translate c d p.1 .rd with
    | .ok q _ => q / 64 == pa / 64
    | _ => false).map (·.1)

/-- The virtual address of a read that fails (R35): for an uncorrectable error, of the first byte in the line. Which address of
the range it is where the error was met in the walk of one of its pages, the spec does not say: the model gives the first
(log 36). -/
def State.faultVa (s : State) (c d va n cause e : Nat) : Nat := if cause ≠ 0x10 then e else (s.vaOf c d va n e).getD va

/-- WINDOW_PRELOAD (R35, R55): one element is read and filled; after the last the entry block is fetched. A fault is taken
as a fetch fault of the entry block would be; the address of an element that lies across 2^56, which the spec does not fix, is
its first (log 36). -/
def execWindowPreload (k : Nat) (s : State) : Host.Outcome State Fault Refusal :=
  .next (match s.strand? k with
    | none => s
    | some x =>
      match x.phase with
      | .preload n =>
        let ds := ((s.ctx? x.ctx).bind fun c => look x.launch.entry c.decls).getD []
        match (preloads ds)[n]? with
        | none => s.modStrand k fun x => { x with phase := .enter }
        | some (e, va, len, first) =>
          let fails := fun (u : State) (c a : Nat) => u.trapNow k c (seqOrigin k 0) x.bc.toNat a x.bc.toNat false
          if 2 ^ 56 < va + len then fails s 0x06 va
          else match s.dread x.ctx x.die x.asker x.stamp .rd false va len with
          | .wait u => u
          | .fail u c a =>
            let read := c = 0x10 ∧ (u.vaOf x.ctx x.die va len a).isSome
            fails (if read then u.countPreload x va len first else u) c (u.faultVa x.ctx x.die va len c a)
          | .ok (bs, st, u) =>
            let u := u.modStrand k fun x => { x with stamp := st }
            match u.win? k e with
            | none => u.modStrand k fun x => { x with phase := .preload (n + 1) }
            | some w =>
              ((w.rowsFrom w.tag bs).foldl (fun u r => u.fillBy k k e fun w => w.putRow r) (u.countPreload x va len first)).modStrand
                k fun x => { x with phase := .preload (n + 1) }
      | _ => s)

/-! ### Completion -/

/-- Bytes of a completion record (R343). -/
def Completion.bytes (c : Completion) : List Byte :=
  leBytes 1 c.code ++ leBytes 1 c.cause ++ leBytes 2 c.ident ++ leBytes 4 c.lhead ++ leBytes 8 c.tres.toNat

/-- LAUNCH_COMPLETION (R343): the oldest completion record of a context at or after position j is written and the host
signalled. -/
def execLaunchCompletion (c j : Nat) (s : State) : Host.Outcome State Fault Refusal :=
  match s.done[j]? with
  | none => .next s
  | some r =>
    if r.ctx ≠ c then .next s
    else if ¬ s.backed r.comp 16 then .fault (.physicalHole r.comp)
    else .next { s.poke (s.backing r.comp) r.bytes with done := s.done.eraseIdx j, signals := s.signals ++ [r.comp] }

end Sys2Proof.Machine
end

