-- ==== Sys2Proof/Machine/Splice.lean ====
section
/-! DEFINITION. Machine/Splice.lean: the instructions of group 0xD (R184 to R191, R197): splice markers, stages, state
buffers, FOLDSET. SPLACK's action at the block edge is in Edge.lean. -/

namespace Sys2Proof.Machine

open Sys2Proof

/-! ### Stage registers (R184) -/

/-- The strand is a stage. -/
def Strand.isStage (x : Strand) : Bool := bit x.stgcfg.toNat 7
/-- Splice mode. -/
def Strand.smode (x : Strand) : Bool := bit x.stgcfg.toNat 18
/-- Output port of the stage. -/
def Strand.outPort (x : Strand) : Nat := bits x.stgcfg.toNat 6 0
/-- Window number of the stage input. -/
def Strand.inWin (x : Strand) : Nat := bits x.stgcfg.toNat 17 8
/-- Splice mode set or cleared. -/
def Strand.setSmode (x : Strand) (b : Bool) : Strand :=
  { x with stgcfg := if b then x.stgcfg ||| BitVec.ofNat 64 (2 ^ 18) else x.stgcfg &&& ~~~BitVec.ofNat 64 (2 ^ 18) }

/-! ### Splice descriptors (R186) -/

/-- New block address of a descriptor. -/
def splBlock (d : List Byte) : Nat := fieldOf d 0 8
/-- Serial number of a descriptor. -/
def splSerial (d : List Byte) : Nat := fieldOf d 8 4
/-- Key of the target stage. -/
def splTarget (d : List Byte) : Nat := strandKey (bits (fieldOf d 12 2) 1 0) (bits (fieldOf d 12 2) 9 2)
/-- State-transfer mask. -/
def splMask (d : List Byte) : Nat := fieldOf d 16 8
/-- State buffer address. -/
def splBuffer (d : List Byte) : Nat := fieldOf d 24 8
/-- Region request of an insert. -/
def splRequest (d : List Byte) : Nat := fieldOf d 32 4
/-- Input window shape of an insert. -/
def splShape (d : List Byte) : Nat := fieldOf d 36 4

/-- A descriptor within the limits of R186 for op 0 insert, 1 remove, 2 rebind; a shape that no WOPEN takes (R152) is out
of them (log 25). -/
def descriptorOk (op : Nat) (d : List Byte) : Bool :=
  op < 3 && bits (fieldOf d 12 2) 15 10 == 0 && fieldOf d 14 2 == 0 && !bit (splMask d) 0 && bits (splMask d) 63 57 == 0
  && splBuffer d % 64 == 0 && fieldOf d 40 24 == 0
  && (if op = 0 then splRequest d < 2 ^ 15 && bits (splShape d) 31 24 == 0 && bits (splShape d) 22 20 != 7
        && 64 * 2 ^ bits (splShape d) 18 16 * (bits (splShape d) 15 0 + 1) ≤ 2 ^ 21
      else splRequest d == 0 && splShape d == 0 && (op != 1 || splBlock d == 0))

/-! ### State buffers (R191) -/

/-- Zeros after a section up to a multiple of 64 bytes. -/
def pad64 (bs : List Byte) : List Byte := bs ++ List.replicate ((64 - bs.length % 64) % 64) 0

/-- Masked registers, ascending. -/
def maskRegs (m : Nat) : List Nat := (List.range 32).filter fun i => i != 0 && bit m i
/-- Masked window directory entries, ascending. -/
def maskWins (m : Nat) : List Nat := (List.range 16).filter fun i => bit m (32 + i)
/-- Masked accumulator banks, ascending. -/
def maskBanks (m : Nat) : List Nat := (List.range 8).filter fun i => bit m (48 + i)

/-- The descriptor image of an operand window (R174, R145): 32 elements of 8 KiB, open, filled and drained by the
strand. -/
def OpWin.descriptor (o : OpWin) (k : Nat) : Nat :=
  o.head.toNat + o.tail.toNat * 2 ^ 32 + 31 * 2 ^ 64 + 7 * 2 ^ 80 + 2 ^ 104 + strandId k * 2 ^ 112 + strandId k * 2 ^ 128

/-- The sections of a state buffer for a mask. -/
def State.bufferBody (s : State) (k : Nat) (x : Strand) (m : Nat) : List Byte :=
  let y := s.die x.die
  let ct := x.region.cTiles
  pad64 ((maskRegs m).flatMap fun r => leBytes 8 (x.readReg r).1.toNat ++ leBytes 1 (x.readReg r).2.code ++ leBytes 7 0)
  ++ pad64 ((maskWins m).flatMap fun w => ((look w x.wins).map fun v => v.image).getD [])
  ++ pad64 (ct.flatMap fun t => (maskBanks m).flatMap fun b => (List.range 512).flatMap fun i =>
      leBytes 16 (y.acc t (512 * b + i)).word)
  ++ if bit m 56 then pad64 (ct.flatMap fun t =>
      let o := y.opwin t
      leBytes 32 (o.descriptor k) ++ (List.range o.extent).flatMap fun i => (List.range 64).flatMap fun r =>
        (o.row i r).image 128)
     else []

/-- Serial number of the splice under way, 0 outside splice mode. -/
def Strand.curSerial (x : Strand) : Nat := if x.smode then splSerial x.spldesc else 0

/-- A state buffer: its 64-byte header and its sections. -/
def State.bufferImage (s : State) (k : Nat) (x : Strand) (m : Nat) : List Byte :=
  let body := s.bufferBody k x m
  leBytes 8 m ++ leBytes 4 x.curSerial ++ leBytes 4 x.region.cTiles.length ++ leBytes 8 (64 + body.length) ++ leBytes 40 0
    ++ body

/-- What a strand has seen once it has read the windows of a list whole (R67). -/
def Strand.seenIn (x : Strand) (ws : List Nat) : Stamp :=
  ws.foldl (fun t w => (look w x.wins).elim t fun v => t.join (v.seen (v.slots v.head v.extent))) x.stamp

/-- STGST (R189, R191): the mask is checked, then the buffer's lines are written; they come after what the windows' elements bring
(R67). -/
def tryStgst (s : State) : Try :=
  match spliceAddr 64 s.fire.left, i64Operand s.fire.right, s.strand? s.fire.k with
  | .error (c, e), _, _ => .fault s c e
  | _, .error c, _ => .fault s c c
  | .ok _, .ok _, none => .stay s
  | .ok a, .ok m, some x =>
    match (maskWins m).find? fun w => (look w x.wins).isNone with
    | some w => Try.win s 0x03 w
    | none =>
      match s.dwrite x.ctx x.die ⟨x.lead, s.fire.req⟩ (x.seenIn (maskWins m)) s.fire.req true a
          (s.bufferImage s.fire.k x m) with
      | .wait u => .stay u
      | .fail u c va => .fault u c va
      | .ok (n, st, u) => .wait (u.modStrand s.fire.k fun x => { x with stamp := st }) .memory none [n]

/-- Cause 0x0F of a state buffer that does not fit (R189, R191). -/
def Try.badBuffer (s : State) : Try := .fault s 0x0F 0x02

/-- Bytes of a window image from its descriptor (R152). -/
def imageBytes (d : Nat) : Nat :=
  let elem := 64 * 2 ^ bits d 82 80
  32 + (BitVec.ofNat 32 (bits d 63 32) - BitVec.ofNat 32 (bits d 31 0)).toNat * (max 1 (elem / 128)) * (16 + min elem 128)

/-- Up to a multiple of 64. -/
def up64 (n : Nat) : Nat := (n + 63) / 64 * 64

/-- The offsets at which n images of variable length begin, and where the last ends; each length is read from the
image's first 32 bytes. A buffer of `len` bytes that ends before gives an end past it. -/
def State.imagesAt (s : State) (x : Strand) (a len : Nat) (size : Nat → Nat) : Nat → Nat → Direct (List Nat × Nat × State)
  | 0, off => .ok ([], off, s)
  | n + 1, off =>
    if len < off + 32 then .ok ([], off + 32, s)
    else match s.dread x.ctx x.die ⟨x.lead, s.fire.req⟩ x.stamp .rd false (a + off) 32 with
      | .wait u => .wait u
      | .fail u c va => .fail u c va
      | .ok (d, _, u) =>
        match u.imagesAt x a len size n (off + size (leNat d)) with
        | .ok (os, e, u) => .ok (off :: os, e, u)
        | r => r

/-- A window's contents from an image (R152); rows of an element that stands begun are dropped (log 36). -/
def Win.restored (v : Win) (img : List Byte) : Win :=
  let d := leNat (img.take 32)
  let n := (BitVec.ofNat 32 (bits d 63 32) - BitVec.ofNat 32 (bits d 31 0)).toNat
  let h := bits d 31 0
  let keyed := (imageRows v.rowBytes (n * v.rpe) (img.drop 32)).zipIdx.foldl (fun l e =>
    put ((BitVec.ofNat 32 (h + e.2 / v.rpe)).toNat * v.rpe + e.2 % v.rpe) e.1 l) []
  let v' := { v with head := BitVec.ofNat 32 h, tail := BitVec.ofNat 32 (bits d 63 32), rows := keyed, frow := 0 }
  { v' with eos := (List.range n).any fun i => v'.markerAt i == some 0x01 }

/-- A window takes an image under WREST's conditions (R152). -/
def Win.takes (v : Win) (img : List Byte) : Bool :=
  let d := leNat (img.take 32)
  let n := (BitVec.ofNat 32 (bits d 63 32) - BitVec.ofNat 32 (bits d 31 0)).toNat
  v.state == .opened && v.extent == 0 && bits d 82 80 == v.esz.toNat && bits d 86 83 == v.tag.code
    && decide (n ≤ v.cap)

/-- An operand window from its part of a buffer. Its claim count and a slot part filled are in no field of the
image: they are imported as 0 (log 19). -/
def OpWin.restored (img : List Byte) : OpWin :=
  let d := leNat (img.take 32)
  let h := bits d 31 0
  let n := (BitVec.ofNat 32 (bits d 63 32) - BitVec.ofNat 32 h).toNat
  { head := BitVec.ofNat 32 h, tail := BitVec.ofNat 32 (bits d 63 32), claim := 0, frow := 0,
    rows := (imageRows 128 (n * 64) (img.drop 32)).zipIdx.foldl (fun l e =>
      put ((BitVec.ofNat 32 (h + e.2 / 64)).toNat * 64 + e.2 % 64) e.1 l) [] }

/-- Every filled line of a window is dirty (R316). -/
def State.soilWin (s : State) (k : Nat) (v : Win) : State :=
  (List.range v.extent).foldl (fun s i => (List.range v.rpe).foldl (fun s r =>
    s.soil k v.tile 0 (v.sram (v.head + BitVec.ofNat 32 i) r / 256)) s) s

/-- The import of a buffer's masked state (R191): registers wait for the edge at STGLD's slot, the rest is written; the windows'
slots take on what the strand has seen (R67). -/
def State.importBuffer (s : State) (k : Nat) (x : Strand) (m : Nat) (bs : List Byte) (wo oo : List Nat) (regs accs : Nat) :
    State :=
  let f := s.fire
  let s := (maskRegs m).zipIdx.foldl (fun s e => s.modRun k fun r => r.hold
    { reg := e.1, iter := 0, slot := f.slot, copy := f.copy, val := BitVec.ofNat 64 (fieldOf bs (regs + 16 * e.2) 8),
      tag := Tag.ofCode (fieldOf bs (regs + 16 * e.2 + 8) 1 % 16) }) s
  let s := ((maskWins m).zip wo).foldl (fun s e => match s.win? k e.1 with
    | some v =>
      let v' := v.restored (bs.drop e.2)
      let v' := { v' with stamps := joinStamps (v'.slots v'.head v'.extent) (s.stampOf k) v.stamps }
      (s.modWin k e.1 fun _ => v').soilWin k v'
    | none => s) s
  let banks := maskBanks m
  let s := (x.region.cTiles.zipIdx).foldl (fun s t => banks.zipIdx.foldl (fun s b =>
    let at_ := accs + 8192 * (t.2 * banks.length + b.2)
    s.modAccs x.die t.1 ((List.range 512).map fun i => 512 * b.1 + i) fun n _ =>
      Acc.ofWord (fieldOf bs (at_ + 16 * (n % 512)) 16)) s) s
  (x.region.cTiles.zip oo).foldl (fun s e =>
    let o := OpWin.restored (bs.drop e.2)
    (List.range o.extent).foldl (fun s i => s.soil k e.1 1 ((o.head.toNat + i) % 32)) (s.setOpwin x.die e.1 o)) s

/-- The lines that STGLD read of a buffer that it does not import count as reads: its header's, and those of the descriptors
at the offsets given (R58, R191). -/
def State.countBuffer (s : State) (x : Strand) (a : Nat) (os : List Nat) : State :=
  os.foldl (fun s o => s.countRange x.ctx x.die .rd (a + o) 32) (s.countRange x.ctx x.die .rd a 64)

/-- STGLD (R189, R191): the buffer is checked before anything is imported. -/
def tryStgld (s : State) : Try :=
  match spliceAddr 64 s.fire.left, i64Operand s.fire.right, s.strand? s.fire.k with
  | .error (c, e), _, _ => .fault s c e
  | _, .error c, _ => .fault s c c
  | .ok _, .ok _, none => .stay s
  | .ok a, .ok m, some x =>
    match s.dread x.ctx x.die ⟨x.lead, s.fire.req⟩ x.stamp .rd false a 64 with
    | .wait u => .stay u
    | .fail u c va => .fault u c va
    | .ok (hd, _, u) =>
      let nc := x.region.cTiles.length
      let len := fieldOf hd 16 8
      if fieldOf hd 0 8 ≠ m ∨ fieldOf hd 12 4 ≠ nc then Try.badBuffer (u.countBuffer x a [])
      else
        let wins := maskWins m
        let w0 := 64 + up64 (16 * (maskRegs m).length)
        match u.imagesAt x a len imageBytes wins.length w0 with
        | .wait u => .stay u
        | .fail u c va => .fault (u.countBuffer x a []) c va
        | .ok (wo, we, u) =>
          let a0 := up64 we
          let o0 := a0 + nc * (maskBanks m).length * 8192
          match u.imagesAt x a len imageBytes (if bit m 56 then nc else 0) o0 with
          | .wait u => .stay u
          | .fail u c va => .fault (u.countBuffer x a wo) c va
          | .ok (oo, oe, u) =>
            if len < up64 oe then Try.badBuffer (u.countBuffer x a ((wo ++ oo).filter fun o => decide (o + 32 ≤ len)))
            else match wins.find? fun w => (look w x.wins).isNone with
              | some w => Try.win (u.countBuffer x a (wo ++ oo)) 0x03 w
              | none =>
                match u.dread x.ctx x.die ⟨x.lead, u.fire.req⟩ x.stamp .rd true a (up64 oe) with
                | .wait u => .stay u
                | .fail u c va => .fault u c va
                | .ok (bs, st, u) =>
                  match (wins.zip wo).find? fun e => !(look e.1 x.wins).any fun v => v.takes (bs.drop e.2) with
                  | some e => Try.win u 0x09 e.1
                  | none => Try.complete ((u.modStrand s.fire.k fun x => { x with stamp := st }).importBuffer s.fire.k x m bs
                      wo oo 64 a0)

/-- STGLNK pN (R189): a window number above 1,023 or a misaligned handler gives subcode 0x07. -/
def tryStglnk (n : Nat) (s : State) : Try :=
  match spliceAddr 1 s.fire.left, wordOperand s.fire.right with
  | .error (c, e), _ => .fault s c e
  | _, .error c => .fault s c c
  | .ok h, .ok w =>
    if 1023 < w ∨ h % 16 ≠ 0 then Try.win s 0x07 w
    else Try.complete (s.modStrand s.fire.k fun x => { x with
      stgcfg := BitVec.ofNat 64 (n % 2 ^ 7 + 2 ^ 7 + w * 2 ^ 8 + if x.smode then 2 ^ 18 else 0)
      stghnd := BitVec.ofNat 64 h, stgser := 0 })

/-- SPLQ (R189). -/
def trySplq (cur : Bool) (s : State) : Try :=
  if cur then
    let v := ((s.strand? s.fire.k).map fun x => if x.smode then x.splcur.toNat else 0).getD 0
    Try.tok s (Tok.i64 v s.fire.marks)
  else match s.fire.left with
    | some t => if t.tag = .mark then Try.tok s (Tok.i64 (t.data.toNat % 2 ^ 64) s.fire.marks) else .fault s 0x03 0x03
    | none => .done s none none

/-- FOLDSET e (R189, R197). -/
def tryFoldset (e : Nat) (s : State) : Try :=
  match spliceAddr 1 s.fire.left, spliceAddr 1 s.fire.right, spliceAddr 1 s.fire.third with
  | .ok b, .ok h, .ok q => Try.complete (s.modStrand s.fire.k fun x => { x with folds := put e (b, h, q) x.folds })
  | .error (c, x), _, _ => .fault s c x
  | _, .error (c, x), _ => .fault s c x
  | _, _, .error (c, x) => .fault s c x

/-! ### The instructions -/

/-- SPLINS w (R189). -/
def execSplins (p : PMode) (w : BitVec 10) (a : Tgt) (s : State) : Host.Outcome State Fault Refusal :=
  .next (s.member p needL true a .none true (some .package) (trySpl 0 w.toNat []))

/-- SPLREM w (R189). -/
def execSplrem (p : PMode) (w : BitVec 10) (a : Tgt) (s : State) : Host.Outcome State Fault Refusal :=
  .next (s.member p needL true a .none true (some .package) (trySpl 1 w.toNat []))

/-- SPLBND w (R189). -/
def execSplbnd (p : PMode) (w : BitVec 10) (a : Tgt) (s : State) : Host.Outcome State Fault Refusal :=
  .next (s.member p needL true a .none true (some .package) (trySpl 2 w.toNat []))

/-- SPLACK c (R190): an exit; it acts at step 7 of the edge. -/
def execSplack (p : PMode) (c : BitVec 6) (s : State) : Host.Outcome State Fault Refusal :=
  .next (s.exiting p false fun _ _ => .ok (.splack c.toNat))

/-- STGLNK pN (R189). -/
def execStglnk (p : PMode) (n : BitVec 7) (a : Tgt) (s : State) : Host.Outcome State Fault Refusal :=
  .next (s.tries p needLR true a .none (tryStglnk n.toNat))

/-- STGST (R189, R191). -/
def execStgst (p : PMode) (a : Tgt) (s : State) : Host.Outcome State Fault Refusal :=
  .next (s.member p needLR true a .none true none tryStgst)

/-- STGLD (R189, R191). -/
def execStgld (p : PMode) (a : Tgt) (s : State) : Host.Outcome State Fault Refusal :=
  .next (s.member p needLR true a .none false none tryStgld)

/-- SPLQ and SPLQ.C (R189). -/
def execSplq (p : PMode) (c : Bool) (a : Tgt) (s : State) : Host.Outcome State Fault Refusal :=
  .next (s.tries p (if c then need0 else needL) true a .none (trySplq c))

/-- FOLDSET e (R189, R197). -/
def execFoldset (p : PMode) (e : BitVec 3) (a : Tgt) (s : State) : Host.Outcome State Fault Refusal :=
  .next (s.tries p needLRT true a .none (tryFoldset e.toNat))

end Sys2Proof.Machine
end

