-- ==== Sys2Proof/Machine/Edge.lean ====
section
/-! DEFINITION. Machine/Edge.lean: how a block ends (R113, R114, R141), the block edge (R115 to R119, R124, R126, R187 to
R193, R247, R330), block load with folds (R48 to R50, R197, R198), and the end of a strand (R117, R126, R343). -/

namespace Sys2Proof.Machine

open Sys2Proof

/-! ### The end of a block -/

/-- CONTROL_BLOCK_END (R113, R114): no slot is ready and none in flight; with no exit fired the block has run dry. -/
def execControlBlockEnd (k : Nat) (s : State) : Host.Outcome State Fault Refusal :=
  .next (match s.strand? k with
    | none => s
    | some x =>
      match x.run with
      | none => s
      | some r =>
        if x.phase = .run ∧ x.save.free ∧ ¬ x.halted ∧ ¬ r.blk.isFabric
            ∧ r.nodes.all (fun n => n.pend.isEmpty && n.out.isEmpty && r.ready k x.region n == .no) then
          let s := if r.exits.isEmpty then
              s.addTrap k { cause := 0x01, origin := seqOrigin k 0, extra := checkExtra 0xFF 0x10, atExit := true } else s
          s.modStrand k fun x => { x with phase := .edge, crossed := false }
        else s)

/-- The conditions of R141 besides the third: counters exhausted, the exit fired and the stores done in every copy that
has an iteration. -/
def Run.complete (r : Run) (g : Region) : Bool :=
  (List.range (r.ncopies g)).all (fun q => r.iters g q 0 == 0 ||
    if r.blk.htype = 2 then (r.node? q 0).any fun n => n.done != 0 else r.exits.any fun e => e.2.1 == q)
  && r.nodes.all fun n => r.iters g n.copy 0 == 0 || match r.blk.instr? n.slot with
    | none => true
    | some i =>
      (!isCounter i || decide (r.ownCount g n.copy n.slot ≤ n.fired))
      && (!countsStore i || n.stopped || decide (r.iters g n.copy 0 ≤ n.done))

/-- FABRIC_BLOCK_COMPLETE (R141): no node is ready and none in flight; with the other conditions unmet the block has run
dry. A block whose chains were refused fires no iteration (R138). A block of htype 2 leaves through exit 0 (R183). -/
def execFabricBlockComplete (k : Nat) (s : State) : Host.Outcome State Fault Refusal :=
  .next (match s.strand? k with
    | none => s
    | some x =>
      match x.run with
      | none => s
      | some r =>
        if x.phase = .run ∧ x.save.free ∧ ¬ x.halted ∧ r.blk.isFabric
            ∧ (r.ksetFailed ∨
              r.nodes.all fun n => n.cfg && n.pend.isEmpty && n.out.isEmpty && r.ready k x.region n == .no) then
          let s := if r.complete x.region ∨ r.ksetFailed then s
            else s.addTrap k { cause := 0x01, origin := seqOrigin k 0, extra := checkExtra 0xFF 0x10, atExit := true }
          let s := if r.blk.htype = 2 ∧ r.complete x.region then s.modRun k fun r => { r with exits := [(0, 0, .goto 0)] }
            else s
          s.modStrand k fun x => { x with phase := .edge, crossed := false }
        else s)

/-! ### Stops (R328, R330) -/

/-- A debugger is attached (R327). -/
def Strand.attached (x : Strand) : Bool := bit x.dbgctl.toNat 2

/-- A stop (R330, R332): halted with TRES the successor where a debugger is attached, else a trap. -/
def State.stopAt (s : State) (k cause block extra tres : Nat) : State :=
  match s.strand? k with
  | none => s
  | some x =>
    let s := s.trace k 4 block 0 extra
    if x.attached then (s.modStrand k fun x => { x with tres := BitVec.ofNat 64 tres }).halt k
    else s.trapNow k cause (seqOrigin k 0) block extra tres false

/-- The comparator that matches a block by address or by rsid (R330). -/
def Strand.breaksAt (x : Strand) (rsid : Bool) (v : Nat) : Option Nat :=
  (x.brkr.find? fun c => c.2.1 == rsid && c.2.2 == v).map (·.1)

/-- BC := a, fetch (R115): an address comparator stops before the successor is fetched. -/
def State.goTo (s : State) (k a : Nat) : State :=
  match s.strand? k with
  | none => s
  | some x =>
    let old := (x.run.map fun r => r.blk.addr).getD 0
    let s := s.modStrand k fun x => { x with phase := .enter, bc := BitVec.ofNat 64 a, run := none, crossed := false }
    match x.breaksAt false a with
    | some c => s.stopAt k 0x12 old (0x40 + c) a
    | none => s

/-! ### Exits -/

/-- Entry n of a block's exit table (R47). -/
def Block.exitAt (b : Block) (n : Nat) : Nat := (b.exits.getD n 0).toNat

/-- The exit that a block takes (R113, R140): of a control block the one in the lowest slot, of a fabric block the one of
the highest copy. -/
def Run.taken (r : Run) : Option (Nat × Nat × ExitAct) :=
  match r.exits with
  | [] => none
  | e :: es => some (es.foldl (fun m f =>
      if r.blk.isFabric then (if m.2.1 < f.2.1 then f else m) else (if f.1 < m.1 then f else m)) e)

/-- The successor of an exit, as a resume address (R116); the ended block where the exit leads nowhere yet. -/
def ExitAct.successor (x : Strand) (b : Block) : ExitAct → Nat
  | .goto n | .trapi _ n | .brks _ n => b.exitAt n
  | .addr a => a
  | .call c _ => b.exitAt c
  | .ret => match x.blink with
    | a :: _ => a.toNat
    | [] => b.addr
  | .halts => 0
  | .trapret _ a => a.getD x.tres.toNat
  | _ => b.addr

/-- The resume address after a pending trap or a single step (R116): the ended block after a marker stop, and where the block
ran dry and no exit was selected, which R116's table does not name (log 24). -/
def Run.resumeAt (r : Run) (x : Strand) : Nat :=
  if r.mstop then r.blk.addr
  else match r.taken with
    | some e => e.2.2.successor x r.blk
    | none => r.blk.addr

/-- A taken task or piece returns to the top of its die's pool (R247). -/
def State.untake (s : State) (k : Nat) : ExitAct → State
  | .enterTask h lo hi => (s.modTask h fun t => { t with state := .ready }).modDie (k / 256) fun y =>
      { y with pool := { handle := h, lo := lo, hi := hi } :: y.pool }
  | _ => s

/-- ENTER and LEAVE (R121): the top is the last of the list. -/
def Strand.stackApply (x : Strand) (o : Option Nat) : Strand :=
  match o with
  | some i =>
    if 16 ≤ x.rstack.length then { x with rstack := x.rstack.drop 1 ++ [BitVec.ofNat 8 i], rovf := true }
    else { x with rstack := x.rstack ++ [BitVec.ofNat 8 i] }
  | none => if x.rstack.isEmpty then { x with rovf := true } else { x with rstack := x.rstack.dropLast }

/-- Of several pending traps the one taken: lowest cause, then lowest origin (R117); of those equal in both, which the rule does
not order, the one recorded first (log 36). -/
def firstTrap : List Trap → Option Trap
  | [] => none
  | t :: l => some (l.foldl (fun m u => if u.cause < m.cause ∨ (u.cause = m.cause ∧ u.origin < m.origin) then u else m) t)

/-- A trap at the edge of the running block: the block is gone. -/
def State.edgeTrap (s : State) (k cause origin extra tres : Nat) : State :=
  match s.run? k with
  | none => s
  | some r =>
    (s.modStrand k fun x => { x with run := none, crossed := false }).trapNow k cause origin r.blk.addr extra tres false

/-- Requests of strand k's nodes that wait for locks, queues and walks are given up (R119, R126). -/
def Die.dropReqs (y : Die) (k : Nat) : Die :=
  let mine := fun (r : Req) => match r with
    | .node j _ _ _ _ => j == k
    | _ => false
  let cut := fun (l : List (Nat × List Req)) =>
    (l.map fun e => (e.1, e.2.filter fun r => !mine r)).filter fun e => !e.2.isEmpty
  { y with locks := cut y.locks, queues := cut y.queues
           walks := (y.walks.map fun w => { w with who := w.who.filter fun r => !mine r }).filter fun w =>
             !(w.declined && w.who.isEmpty) }

/-- A block that will not go on is given up: its entries, fills, Geode commands, lock, queue and walk requests (R119). -/
def State.abandon (s : State) (k : Nat) (r : Run) : State :=
  let s := ((s.dropBlockEntries k).purgeFills k).dropGeode r
  { s with dies := s.dies.map fun (y : Die) => Die.dropReqs y k }

/-- TRAPRET's return (R119): a resumed block's results arrive and its waits register before any node of it fires (R116, R272). -/
def State.doTrapret (s : State) (k : Nat) (x : Strand) (restore : Bool) (at_ : Option Nat) : State :=
  let y := x.trapReturn restore at_
  let keep := y.phase == .run
  let s := match x.susp with
    | some r => if keep then s else s.abandon k r
    | none => s
  let y := if keep ∨ y.phase = .enter then { y with crossed := false } else { y with run := none, crossed := false }
  let s := s.modStrand k fun z => { y with chans := z.chans, wins := z.wins }
  if y.phase = .enter then (s.goTo k y.bc.toNat).registerGens k
  else if keep then s.resumeRun k else s

/-- A taken task is entered (R247). -/
def State.enterTask (s : State) (k h : Nat) (lo hi : Int) : State :=
  match s.task? h with
  | none => s
  | some t =>
    let v2 := if t.range then BitVec.ofNat 64 (wrap 64 lo) else t.a2
    let v3 := if t.range then BitVec.ofNat 64 (wrap 64 hi) else 0
    (s.modStrand k fun x =>
      { (((x.writeReg 1 t.arg .i64).writeReg 2 v2 .i64).writeReg 3 v3 .i64) with
        tcur := BitVec.ofNat 64 h, tpiece := { handle := h, lo := lo, hi := hi } }).goTo k t.entry.toNat

/-- TPOP at step 7 (R262): sources 1 and 2; a replay takes where the strand's next record is a take, and waits for it; a
take that cannot be logged waits (R335, R337). -/
def State.doTpop (s : State) (k : Nat) (next : Nat) : State :=
  let enter := fun (o : Option (Piece × State)) => match o with
    | some (p, u) => u.enterTask k p.handle p.lo p.hi
    | none => s
  if ((s.strand? k).bind fun x => s.ctx? x.ctx).any Ctx.playing then
    if (s.nextRecord k).any fun r => r.1 == 8 then enter (s.take k false) else s.goTo k next
  else if (s.takes k false).isEmpty then s.goTo k next else enter (s.take k false)

/-! ### Splices at the edge (R187 to R193) -/

/-- The exit that the edge takes goes on as another act, from its own slot. -/
def State.edgeActAt (s : State) (k slot : Nat) (a : ExitAct) : State :=
  s.modRun k fun r => { r with exits := [(slot, 0, a)] }

/-- The strand's edge goes on with another act (R188). -/
def State.edgeAct (s : State) (k : Nat) (a : ExitAct) : State :=
  s.modRun k fun r => { r with exits := [(edgeSlot, 0, a)] }

/-- forward(x) of R188: the sequencer fills a marker into the output port, under a slot number that no node has; then the
edge goes on with `after`. -/
def State.forward (s : State) (k payload : Nat) (after : ExitAct) : State :=
  match s.strand? k with
  | none => s
  | some x =>
    let m : Tok := { tag := .mark, scalar := true, data := BitVec.ofNat 1024 (payload % 2 ^ 64), side := 0, mark := 0 }
    let o : Out := { iter := 0, tgt := .port (BitVec.ofNat 7 x.outPort), b := false, item := .tok m, reg := false }
    let n : Node := { copy := 0, slot := edgeSlot, cfg := true, fired := 1, done := 0, pend := [], out := [o],
                      carry := none, stopped := false }
    s.modRun k fun r => { r with nodes := [n], links := [], exits := [(edgeSlot, 0, after)] }

/-- The input window's head moves past the marker (R188). -/
def State.passMarker (s : State) (k : Nat) : State :=
  match s.strand? k with
  | none => s
  | some x => s.shrinkWin k x.inWin 1

/-- The payload of a splice-failed marker (R185). -/
def failedPayload (p c : Nat) : Nat := 0x03 + c % 64 * 2 ^ 8 + p / 2 ^ 14 * 2 ^ 14

/-- Kind of a post of a splice cause to Jasper (R192). -/
def postSpliceKind : Nat := 2

/-- fail(c) for the marker with payload p (R188, R190): forwarded as failed, then the stopped block. In host-assisted
recovery the hardware causes leave the stage in splice mode with Jasper (R192). -/
def State.spliceFail (s : State) (k p c : Nat) : State :=
  match s.strand? k with
  | none => s
  | some x =>
    if (s.ctx? x.ctx).any (fun y => bit y.hamode.toNat 2) ∧ 1 ≤ c ∧ c ≤ 5 then
      (s.modStrand k fun x => { x.setSmode true with splcur := BitVec.ofNat 64 p, splpost := some c }).modCtx x.ctx fun y =>
        { y with posts := y.posts ++ [(postSpliceKind, strandId k + c * 2 ^ 16)] }
    else s.forward k (failedPayload p c) (.passing x.splstp.toNat true)

/-- The descriptor address of a payload (R185). -/
def descAddr (p : Nat) : Nat := p / 2 ^ 14 * 64

/-- Step 7 after a marker stop (R188). -/
def State.markerEdge (s : State) (k : Nat) (x : Strand) (r : Run) : State :=
  let a := r.blk.addr
  let s := s.modStrand k fun x => { x with splstp := BitVec.ofNat 64 a }
  match look x.inWin x.wins with
  | none => s.edgeTrap k 0x0F (seqOrigin k 0) 0x01 a
  | some w =>
    let p := (w.row 0 0).data.toNat % 2 ^ 64
    match w.markerAt 0 with
    | some 0x03 => s.forward k p (.passing a false)
    | some 0x02 =>
      match s.dread x.ctx x.die x.asker x.stamp .rd true (descAddr p) 64 with
      | .wait u => u
      | .fail u c va => u.edgeTrap k c (seqOrigin k 0) va a
      | .ok (d, st, u) =>
        let u := u.modStrand k fun x => { x with stamp := st, spldesc := d }
        if ¬ descriptorOk (bits p 9 8) d then u.spliceFail k p 0x05
        else if splSerial d ≤ bits x.stgser.toNat 31 0 then u.spliceFail k p 0x01
        else if splTarget d ≠ k then
          (u.modStrand k fun x => { x with stgser := BitVec.ofNat 64 (splSerial d) }).forward k p (.passing a false)
        else
          (u.modStrand k fun x => { x.setSmode true with splcur := BitVec.ofNat 64 p }).goTo k
            (bits x.stghnd.toNat 55 4 * 16)
    | _ =>
      if w.head ≠ r.head0 then s.goTo k a else s.edgeTrap k 0x0F (seqOrigin k 0) 0x01 a

/-- A successful splice (R190): the marker goes on with done set. -/
def State.spliceDone (s : State) (k : Nat) (after : ExitAct) : State :=
  match s.strand? k with
  | none => s
  | some x =>
    (s.modStrand k fun x => { x with stgser := BitVec.ofNat 64 (splSerial x.spldesc) }).forward k
      (x.splcur.toNat ||| 2 ^ 10) after

/-- The window that an insert opens for the new strand on its lead tile, linked from this stage's port (R152, R155, R190). -/
def insertWin (k kn : Nat) (port : Nat) (g : Region) (shape : Nat) : Win :=
  { Win.opened kn g.lead 0 (bits shape 15 0) (bits shape 18 16) (Tag.ofCode (bits shape 22 19)) 0 (bit shape 23) with
    state := .linked, filler := BitVec.ofNat 16 (0x8000 + strandId k % 2 ^ 13), producer := some (k, port) }

/-- The inserted stage (R190): strand N runs on the granted region, its window 0 is this stage's channel and its port
this stage's old channel. -/
def State.insertStage (s : State) (k : Nat) (x : Strand) (d : Nat) (g : Region) (old : Nat × Nat) : State :=
  let desc := x.spldesc
  let kn := strandKey d g.lead
  let n : Strand := ({ Strand.init with
    bc := BitVec.ofNat 64 (splBlock desc), base := x.base, eff := x.base, stamp := x.stamp, phase := .enter
    stgcfg := BitVec.ofNat 64 (x.outPort + 2 ^ 7), stghnd := x.stghnd, stgser := BitVec.ofNat 64 (splSerial desc)
    launch := { Launch.zero with q := x.launch.q, started := true }
    wins := [(0, insertWin k kn x.outPort g (splShape desc))], chans := [(x.outPort, old.1, old.2)] } : Strand)
  let s := (s.place d { g with strand := some kn } (n.writeReg 1 (BitVec.ofNat 64 (splBuffer desc)) .i64)).2
  let s := s.modWin old.1 old.2 fun w =>
    { w with filler := BitVec.ofNat 16 (0x8000 + strandId kn % 2 ^ 13), producer := some (kn, x.outPort) }
  s.modStrand k fun x => { x with chans := put x.outPort (kn, 0) x.chans }

/-- The new block of a rebind or insert is captured and checked on a region (R190): the state where it waits; otherwise
whether it is good, and how many bytes of it were read. -/
def State.tryBlock (s : State) (x : Strand) (a : Nat) : Except State (Bool × Nat × State) :=
  match s.capture x a with
  | .wait u => .error u
  | .fail u _ _ => .ok (false, 0, u)
  | .ok (bs, _, u) => .ok ((u.checkBlock x a bs).isNone, bs.length, u)

/-- SPLACK 0's action for an insert (R190). -/
def State.spliceInsert (s : State) (k : Nat) (x : Strand) (counted : State → State) : State :=
  let p := x.splcur.toNat
  let a := splBlock x.spldesc
  match requestOf (splRequest x.spldesc), look x.outPort x.chans with
  | some q, some old =>
    match s.allocate (insertWho k) x.ctx x.eff q anyRect with
    | .waits u => u
    | .no u _ => (counted (u.unreserve (insertWho k))).spliceFail k p 0x02
    | .at_ d g =>
      match s.tryBlock { x with region := g, die := d, lead := g.lead } a with
      | .error u => u
      | .ok (good, n, u) =>
        let u := ((counted u).countFetch x a n).unreserve (insertWho k)
        if good then (u.insertStage k x d g old).spliceDone k (.passing x.splstp.toNat true) else u.spliceFail k p 0x03
  | _, _ => (counted s).spliceFail k p 0x02

/-- SPLACK 0's action (R190): the state buffer's header and the new block are read before any effect. -/
def State.spliceApply (s : State) (k : Nat) (x : Strand) : State :=
  let d := x.spldesc
  let p := x.splcur.toNat
  match bits p 9 8 with
  | 1 => s.spliceDone k .removing
  | op =>
    match s.dread x.ctx x.die x.asker x.stamp .rd false (splBuffer d) 64 with
    | .wait u => u
    | .fail u c va => u.edgeTrap k c (seqOrigin k 0) va (((u.run? k).map fun r => r.blk.addr).getD 0)
    | .ok (hd, st, u) =>
      let counted := fun (u : State) =>
        let u := u.modStrand k fun x => { x with stamp := st }
        match u.physPieces x.ctx x.die x.asker x.stamp .rd (pieces (splBuffer d) 64) with
        | .ok ps => u.countPieces x.die ps
        | _ => u
      if fieldOf hd 0 8 ≠ splMask d ∨ fieldOf hd 8 4 ≠ splSerial d then (counted u).spliceFail k p 0x04
      else if op = 2 then
        match u.tryBlock x (splBlock d) with
        | .error u => u
        | .ok (good, n, u) =>
          let u := (counted u).countFetch x (splBlock d) n
          if good then u.spliceDone k (.passing (splBlock d) true) else u.spliceFail k p 0x03
      else u.spliceInsert k x counted

/-- SPLACK's action (R190). -/
def State.doSplack (s : State) (k slot c : Nat) (x : Strand) (r : Run) : State :=
  if ¬ x.smode then s.edgeTrap k 0x01 (seqOrigin k slot) (checkExtra slot 0x17) r.blk.addr
  else if c = 0 then s.spliceApply k x
  else s.spliceFail k x.splcur.toNat c

/-- The descriptor is captured again once Jasper has cleared a cause (R190, R192). -/
def State.doResplice (s : State) (k : Nat) (x : Strand) (r : Run) : State :=
  let p := x.splcur.toNat
  match s.dread x.ctx x.die x.asker x.stamp .rd true (descAddr p) 64 with
  | .wait u => u
  | .fail u c va => u.edgeTrap k c (seqOrigin k 0) va r.blk.addr
  | .ok (d, st, u) =>
    let u := u.modStrand k fun x => { x with stamp := st, spldesc := d }
    if ¬ descriptorOk (bits p 9 8) d then u.spliceFail k p 0x05
    else match u.strand? k with
      | some x => (u.edgeAct k (.splicing 0)).spliceApply k x
      | none => u

/-- A row of a removed stage's input as a fill of its output channel (R193); data beyond the element's bytes is dropped
as a fill drops it. -/
def passRow (k : Nat) (hand : Bool) (st : Stamp) (v : Win) (row : Row) : Fill :=
  { k := k, hand := hand, copy := 0, slot := edgeSlot, marker := row.tag == .mark, fits := true, stamp := st
    row := { row with data := BitVec.ofNat 1024 (row.data.toNat % 2 ^ (8 * v.rowBytes)), valid := v.allValid } }

/-- An element's rows as fills: of a marker element its first row alone. -/
def passElem (pass : Row → Fill) (rows : List Row) : List Fill :=
  match rows with
  | [] => []
  | r :: _ => if r.tag = .mark then [pass r] else rows.map pass

/-- The rows that the spill ring of a window holds, entry by entry, the one being written last (R156), and the lines that hold
them. -/
def State.ringRows (s : State) (k : Nat) (w : Win) : Except State (List (List Row) × List (Nat × Nat × Nat)) :=
  let n := w.ring
  (List.range (n + 1)).foldl (fun acc i =>
    match acc with
    | .error t => .error t
    | .ok (l, lines) =>
      let c := if i < n then w.rpe else w.rrow
      if c = 0 then .ok (l, lines)
      else match s.ringPieces k w .rd (w.placeAt (w.rhead.toNat + i) 0) (c * (16 + w.rowBytes)) with
        | .error t => .error t
        | .ok ps => .ok (l ++ [imageRows w.rowBytes c (ps.flatMap fun p => s.mem.readN p.1 p.2.2)], lines ++ ps)) (.ok ([], []))

/-- A wait for room in one window becomes a wait for room in another (R193). -/
def Why.redirect (a b : Nat × Nat) : Why → Why
  | .winFill k w o => if (k, w) = a then .winFill b.1 b.2 o else .winFill k w o
  | w => w

/-- The waits of a run redirected. -/
def Run.redirect (r : Run) (a b : Nat × Nat) : Run :=
  { r with nodes := r.nodes.map fun n => { n with pend := n.pend.map fun p => { p with why := p.why.redirect a b } } }

/-- The sequencer's node at a stage's edge that waits until the elements it passes on have entered window e of strand j, as
channel fills do (R153, R193). -/
def passNode (k : Nat) (hand : Bool) (j e off : Nat) : Node :=
  { copy := 0, slot := edgeSlot, cfg := true, fired := 1, done := 0, out := [], carry := none, stopped := false
    pend := [{ fire := { Firing.zero with k := k, hand := hand, slot := edgeSlot }, why := .winFill j e off, acc := none,
               prog := [1], reg := false }] }

/-- The relinking of a removed stage (R193): the elements behind the marker, then ring entries, then the fills on their
way join the link of the output channel; the producer's port names it. What passes on comes after what the stage has seen and
after the fills of what it passes on (R67). -/
def State.relink (s : State) (k : Nat) (x : Strand) (r : Run) (w : Win) (j e : Nat) (v : Win) : State :=
  match s.ringRows k w with
  | .error t => t
  | .ok (ring, lines) =>
    let s := (s.countPieces (k / 256) lines).sees k (w.seen (w.stamps.map (·.1)))
    let elems := (List.range w.extent).map fun i => (List.range w.rpe).map (w.row i)
    let part := (List.range w.frow).map fun r => w.rowAt w.tail r
    let mine := (elems ++ [part] ++ ring).flatMap (passElem (passRow k r.hand (s.stampOf k) v))
    let s := s.modWin j e fun v =>
      { v with link := v.link ++ mine ++ w.link, producer := w.producer
               filler := match w.producer with
                 | some p => BitVec.ofNat 16 (0x8000 + strandId p.1 % 2 ^ 13)
                 | none => 0 }
    let s := s.modWin k x.inWin fun w =>
      { w.shrink w.extent (s.stampOf k) with frow := 0, rrow := 0, rhead := w.rtail, link := [], producer := none }
    let s := match w.producer with
      | some (q, n) =>
        let fix := fun (r : Run) => r.unregistered.redirect (k, x.inWin) (j, e)
        (s.dropBlockEntries q).modStrand q fun y =>
          { y with chans := put n (j, e) y.chans, run := y.run.map fix, susp := y.susp.map fix }
      | none => s
    let nodes := if mine.isEmpty then [] else [passNode k r.hand j e (if v.spill then 0 else v.extent)]
    ((s.modStrand k fun x => { x with chans := del x.outPort x.chans }).modRun k fun r =>
      { r with nodes := nodes, links := [] }).edgeAct k .relinking

/-- The window of another strand or of this one that strand k's fills still lie on. -/
def State.stillLinked (s : State) (k : Nat) : Bool :=
  s.strands.any fun e => e.2.wins.any fun w => w.2.link.any fun f => f.k == k && f.slot == edgeSlot

/-! ### The edge -/

/-- A trap that charges a wait at the edge. -/
def Trap.charges (t : Trap) : Bool := t.cause == 0x09 || t.cause == 0x0A

/-- A marker's fill that waits at the edge and is charged with cause 0x09 or 0x0A is given up: the trap is taken at this
edge (R188, R255, R258; log 24). -/
def State.edgeCharged (s : State) (k : Nat) (x : Strand) (r : Run) : State :=
  let mine := Trap.charges
  match firstTrap (x.owed.filter mine) with
  | none => s
  | some t =>
    (((s.purgeFills k).dropBlockEntries k).modStrand k fun x => { x with owed := x.owed.filter fun u => !mine u }).edgeTrap k
      t.cause t.origin t.extra r.blk.addr

/-- A removed stage is relinked (R193): its input window closes and splice mode ends; it ends as by HALTS, or takes a trap whose
handler returns to that end (log 24). -/
def State.endStage (s : State) (k : Nat) (t : Option Trap) : State :=
  match t with
  | none => s.modStrand k fun x => { x.setSmode false with
      wins := del x.inWin x.wins, phase := .ending 0, run := none, crossed := false }
  | some t => (s.modStrand k fun x => { x.setSmode false with wins := del x.inWin x.wins }).edgeTrap k t.cause t.origin t.extra 0

/-- The exit's own action (R115 step 7, R124). CALLB on a full stack: check 0x11 with its slot (R114, R124), and the callee's
address in TRES (R116; log 24). -/
def State.exitAction (s : State) (k slot : Nat) (x : Strand) (r : Run) : ExitAct → State
  | .goto n => s.goTo k (r.blk.exitAt n)
  | .addr a => s.goTo k a
  | .call c ret =>
    let ra := r.blk.exitAt ret
    if 8 ≤ x.blink.length then s.edgeTrap k 0x01 (seqOrigin k slot) (checkExtra slot 0x11) (r.blk.exitAt c)
    else (s.modStrand k fun x => { x with blink := BitVec.ofNat 64 ra :: x.blink }).goTo k (r.blk.exitAt c)
  | .ret => match x.blink with
    | [] => s.edgeTrap k 0x01 (seqOrigin k slot) (checkExtra slot 0x12) r.blk.addr
    | a :: l => (s.modStrand k fun x => { x with blink := l }).goTo k a.toNat
  | .trapi code n => s.edgeTrap k 0x14 (seqOrigin k slot) code (r.blk.exitAt n)
  | .brks id n =>
    let a := r.blk.exitAt n
    if x.attached then
      ((s.trace k 4 r.blk.addr 0 id).modStrand k fun x => { x with
        phase := .enter, bc := BitVec.ofNat 64 a, tres := BitVec.ofNat 64 a, run := none, crossed := false }).halt k
    else (s.trace k 4 r.blk.addr 0 id).edgeTrap k 0x12 (seqOrigin k slot) id a
  | .halts => s.modStrand k fun x => { x with phase := .ending 0, run := none, crossed := false }
  | .trapret restore a => s.doTrapret k x restore a
  | .splack c => (s.edgeActAt k slot (.splicing c)).doSplack k slot c x r
  | .splicing c => s.doSplack k slot c x r
  | .enterTask h lo hi => s.enterTask k h lo hi
  | .tpop n => s.doTpop k (r.blk.exitAt n)
  | .resplice => s.doResplice k x r
  | .passing next ends =>
    if ¬ r.nodes.all (fun n => n.out.isEmpty) then s.edgeCharged k x r
    else match firstTrap r.traps with
      | some t => s.edgeTrap k t.cause t.origin t.extra r.blk.addr
      | none => ((s.passMarker k).modStrand k fun x => if ends then x.setSmode false else x).goTo k next
  | .removing =>
    if ¬ r.nodes.all (fun n => n.out.isEmpty) then s.edgeCharged k x r
    else match firstTrap r.traps with
      | some t => s.edgeTrap k t.cause t.origin t.extra r.blk.addr
      | none =>
        match look x.outPort x.chans, look x.inWin x.wins with
        | some (j, e), some w => match s.win? j e with
          | some v => s.relink k x r (w.shrink 1 x.stamp) j e v
          | none => s.edgeTrap k 0x07 (seqOrigin k 0) (windowExtra 0x03 x.outPort) r.blk.addr
        | _, _ => s.edgeTrap k 0x07 (seqOrigin k 0) (windowExtra 0x03 x.outPort) r.blk.addr
  | .relinking =>
    if s.stillLinked k then
      match firstTrap (x.owed.filter Trap.charges) with
      | none => s
      | some t => ((s.dropBlockEntries k).modStrand k fun x => { x with owed := x.owed.filter fun u => !u.charges }).endStage k
          (some t)
    else s.endStage k (firstTrap r.traps)

/-- A captured block that a load may enter. -/
structure Loaded where
  addr : Nat
  bytes : List Byte
  blk : Block
  stamp : Stamp

/-- How the choice of a block's form stands (R197, R198): it waits; the load of the block at `addr` fails; or the form that is
entered, if any fits. `read` are the blocks that have been captured for it. -/
inductive Choice where
  | wait (s : State)
  | fails (s : State) (addr cause extra : Nat) (read : List Loaded)
  | ok (s : State) (form : Option Loaded) (read : List Loaded)

/-- A block captured for a load. -/
def State.fetch (s : State) (x : Strand) (a : Nat) : Choice :=
  match s.capture x a with
  | .wait u => .wait u
  | .fail u c va => .fails u a c va []
  | .ok (bs, st, u) =>
    let l : Loaded := { addr := a, bytes := bs, blk := blockOf a bs, stamp := st }
    .ok u (some l) [l]

/-- A choice goes on from the form that has been found. -/
def Choice.then (c : Choice) (f : State → Option Loaded → List Loaded → Choice) : Choice :=
  match c with
  | .ok s o read => match f s o read with
    | .wait t => .wait t
    | .fails t a e x l => .fails t a e x (read ++ l)
    | .ok t o l => .ok t o (read ++ l)
  | c => c

/-- The lines of captured blocks counted (R58). -/
def State.countLoads (s : State) (x : Strand) (l : List Loaded) : State :=
  l.foldl (fun s b => s.countFetch x b.addr b.bytes.length) s

/-- The footprint of a block fits a region (R198). -/
def Block.footFits (b : Block) (g : Region) : Bool :=
  !b.isFabric || (decide (b.frows ≤ g.rows) && decide (b.fcols ≤ g.cols))

/-- The footprint and converters of a variant fit a region (R198). -/
def Block.fitsOn (b : Block) (g : Region) : Bool := b.footFits g && (!b.isFabric || (converterErr b g).isNone)

/-- Addresses of the half and quarter variants (R197): a FOLDSET entry for the block overrides its header. 0 names
none; the quarter's place behind the half is known once the half has been captured. -/
def Strand.foldOf (x : Strand) (b : Block) : Option (Nat × Nat) :=
  (x.folds.find? fun e => e.2.1 == b.addr).map fun e => e.2.2

/-- A variant is tried (R197, R198): it must match its original; no form where it does not fit the region. -/
def State.tryVariant (s : State) (x : Strand) (b : Block) (g : Region) (a part : Nat) : Choice :=
  (s.fetch x a).then fun u o _ => match o with
    | some l => if ¬ variantFits b l.blk part then .fails u a 0x01 (checkExtra 0xFF 0x18) []
                else .ok u (if l.blk.fitsOn g then some l else none) []
    | none => .ok u none []

/-- The form of a captured block that enters a region (R198): the original where its footprint fits, else its half or its
quarter where footprint and converters fit, or none. -/
def State.foldChoice (s : State) (x : Strand) (l : Loaded) (g : Region) : Choice :=
  if l.blk.footFits g then .ok s (some l) []
  else
    let named := x.foldOf l.blk
    let half := match named with
      | some e => e.1
      | none => if l.blk.fold = 0 then 0 else l.blk.after
    let quarter := fun (s : State) (q : Nat) => if q = 0 then .ok s none [] else s.tryVariant x l.blk g q 4
    if half = 0 then quarter s ((named.map (·.2)).getD 0)
    else (s.tryVariant x l.blk g half 2).then fun u o read => match o, named with
      | some v, _ => .ok u (some v) []
      | none, some e => quarter u e.2
      | none, none => quarter u (if l.blk.fold = 2 then ((read.head?).map fun v => v.blk.after).getD 0 else 0)

/-- A shrink for which no variant fits (R198): the strand is saved whole, or the shrink is refused where no image can be
written (R311, R317). -/
def State.saveInstead (s : State) (k : Nat) (x : Strand) : Option State :=
  let s := s.modStrand k fun x => { x with shrink := none }
  let at_ := s.psaveSlot k x
  let psave := ((s.ctx? x.ctx).map fun c => bits c.psave.toNat 55 30).getD 0
  if psave = 0 ∨ ¬ s.imageMapped x.ctx x.die at_ x.region.imageLen then none
  else
    let s := (s.pendsOf fun w => w == .fold k).foldl (fun s p => s.modPend p fun q => { q with why := .save k }) s
    some (s.modStrand k fun y => { y with save := .asked at_ true (x.shrink.bind fun e => e.2.2), asked := 0 })

/-- The block that a shrink is chosen for (R198): the exit's successor, of a taken task its entry, or the stopped block after a
marker stop or in splice mode, whose handler blocks never fold; none where the strand ends. -/
def State.shrinkFor (s : State) (x : Strand) (r : Run) : Nat :=
  if r.mstop then r.blk.addr else if x.smode then x.splstp.toNat else match r.taken with
    | some (_, _, .halts) | some (_, _, .trapret _ (some 0)) => 0
    | some (_, _, .enterTask h _ _) => ((s.task? h).map fun t => t.entry.toNat).getD 0
    | some e => e.2.2.successor x r.blk
    | none => 0

/-- Whether blocks that are to be entered on a region have a form that fits it (R198); one whose load fails in any case counts
as fitting. -/
def State.foldsOn (s : State) (x : Strand) (g : Region) : List Nat → Except State (Bool × State)
  | [] => .ok (true, s)
  | a :: l =>
    match (s.fetch x a).then fun u o _ => match o with
      | some b => u.foldChoice x b g
      | none => .ok u none [] with
    | .wait u => .error u
    | .ok u none _ => .ok (false, u)
    | .ok u (some _) _ | .fails u _ _ _ _ => u.foldsOn x g l

/-- A shrink is refused (R321). -/
def State.refuseShrink (s : State) (k : Nat) : State :=
  (s.modStrand k fun x => { x with shrink := none }).answerAll (fun w => w == .fold k) 3

/-- A shrink made where the blocks that are to be entered have forms that fit, else the strand is saved whole, or the shrink
refused (R198). The answer is the strand's key and the state to go on with, or, where the act ends here, the state. -/
def State.shrinkTo (s : State) (k : Nat) (x : Strand) (rows cols : Nat) (entered : List Nat) : Except State (Nat × State) :=
  match s.foldsOn x (x.region.shrunk rows cols) entered with
  | .error u => .error u
  | .ok (true, u) => .ok (u.shrinkNow k rows cols)
  | .ok (false, u) => match u.saveInstead k x with
    | some t => .error t
    | none => .ok (k, u.refuseShrink k)

/-- A shrink that is asked for, at step 6 of R115 (R198, R312): for the block about to be entered, and a suspended one that
begins again; while a block is suspended that cannot, the region stays as that block needs it (log 26). -/
def State.shrinkAtEdge (s : State) (k : Nat) (x : Strand) (r : Run) : Except State (Nat × State) :=
  match x.shrink with
  | none => .ok (k, s)
  | some (rows, cols, _) =>
    let g := x.region.shrunk rows cols
    if ¬ x.settles g ∨ ¬ r.edgeSaves then .ok (k, s)
    else if ¬ x.shrinks rows cols then .ok (k, s.refuseShrink k)
    else s.shrinkTo k x rows cols (([s.shrinkFor x r].filter (· != 0)) ++ (x.unsettled g).map (·.blk.addr))

/-- SAVE_POINT (R312, R314): an asked save starts at the strand's edge, or inside its block once the delay is over and the
firings that had begun are finished; a shrink asked of a strand that waits inside a block is made there where the block keeps
its copies, or has had no effect and begins again in the form that fits, else at the edge (log 26). -/
def execSavePoint (k : Nat) (s : State) : Host.Outcome State Fault Refusal :=
  .next (match s.strand? k with
    | none => s
    | some x =>
      if ¬ x.quiescent ∨ (x.phase = .run ∧ x.asked < saveDelay) then s
      else match x.save, x.shrink with
        | .asked a f i, _ => s.startSave k a f i
        | .running, some (rows, cols, _) =>
          let g := x.region.shrunk rows cols
          if x.phase = .run ∧ x.shrinks rows cols ∧ x.settles g then
            match s.shrinkTo k x rows cols ((x.unsettled g).map (·.blk.addr)) with
            | .error t => t
            | .ok (_, t) => t
          else s
        | _, _ => s)

/-- A TPOP's choice made before its step 7, for a stop or a shrink that has to know the block about to be entered (R198, R262,
R330): the take, or the exit without one; none where it waits for its log record. -/
def State.popAct (s : State) (k slot : Nat) (next : Nat) : Option State :=
  let enter := (s.take k false).map fun e => e.2.edgeActAt k slot (.enterTask e.1.handle e.1.lo e.1.hi)
  let pass := some (s.edgeActAt k slot (.addr next))
  if ((s.strand? k).bind fun x => s.ctx? x.ctx).any Ctx.playing then
    if (s.nextRecord k).any fun r => r.1 == 8 then enter else pass
  else if (s.takes k false).isEmpty then pass else enter

/-- The exit taken, where it is a TPOP, with its choice made. -/
def State.popped (s : State) (k : Nat) (r : Run) : Option State :=
  match r.taken with
  | some (slot, _, .tpop n) => s.popAct k slot (r.blk.exitAt n)
  | _ => some s

/-- Step 7 of R115. -/
def State.edgeLast (s : State) (k : Nat) : State :=
  match s.strand? k with
  | none => s
  | some x =>
    match x.run with
    | none => s
    | some r =>
      if r.mstop ∧ ¬ r.exits.any (fun e => e.1 == edgeSlot) then s.markerEdge k x r
      else match r.taken with
        | none => s
        | some e => s.exitAction k e.1 x r e.2.2

/-- Steps 6 and 7 of R115: a save that is asked for is served first, then a shrink. -/
def State.edgeRest (s : State) (k : Nat) : State :=
  match s.strand? k with
  | none => s
  | some x =>
    match x.run with
    | none => s
    | some r =>
      if x.splpost.isSome ∨ (x.save.asking ∧ r.edgeSaves) then s
      else if x.shrink.isNone then s.edgeLast k
      else match s.popped k r with
        | none => s
        | some u =>
          match u.shrinkAtEdge k x ((u.run? k).getD r) with
          | .error t => t
          | .ok (j, t) => t.edgeLast j

/-- Steps 2 and 3 of R115: region stack and register writes. -/
def Strand.edgeWrites (x : Strand) (r : Run) : Strand :=
  r.regw.foldl (fun x w => x.writeReg w.reg w.val w.tag) (r.stackOps.foldl (fun x o => x.stackApply o.2) x)

/-- The successor that TRES holds where a single step stops a strand under a debugger (R330): of a taken task its entry; of a
SPLACK the block that its action leads to as things stand (R190), 0 where it ends the stage; of a TPOP whose take waits for room
in the log, as things stand too (log 24). -/
def State.stopNext (s : State) (k : Nat) (x : Strand) (r : Run) : Nat :=
  let entry := fun (h : Nat) => ((s.task? h).map fun t => t.entry.toNat).getD r.blk.addr
  match r.taken with
  | some (_, _, .enterTask h _ _) => entry h
  | some (_, _, .tpop n) => match s.takes k false with
    | (p, _) :: _ => entry p.handle
    | [] => r.blk.exitAt n
  | some (slot, _, .splack c) =>
    match ((s.exitAction k slot x r (.splack c)).run? k).bind Run.taken with
    | some (_, _, .passing n _) => n
    | some (_, _, .removing) => 0
    | _ => r.blk.addr
  | _ => r.resumeAt x

/-- Steps 2 to 5 of R115. A trap that arises at an exit or a register write has TRES the ended block (R116), also in a block
whose exit is HALTS, where R126 gives 0 (log 36). A stop under a debugger comes once a TPOP's choice is made. -/
def State.edgeCross (s : State) (k : Nat) (x : Strand) (r : Run) : State :=
  let y := x.edgeWrites r
  let traps := r.traps ++ x.owed
  let others := match r.taken with
    | some e => r.exits.erase e
    | none => r.exits
  let s := others.foldl (fun s e => s.untake k e.2.2) (s.modStrand k fun _ => { y with crossed := true, owed := [] })
  match firstTrap traps with
  | some t =>
    let s := match r.taken with
      | some e => s.untake k e.2.2
      | none => s
    s.edgeTrap k t.cause t.origin t.extra (if t.atExit then r.blk.addr else r.resumeAt y)
  | none =>
    if bit x.dbgctl.toNat 1 ∧ x.attached then
      let s := (s.popped k r).getD s
      s.stopAt k 0x13 r.blk.addr 0 (s.stopNext k y ((s.run? k).getD r))
    else if bit x.dbgctl.toNat 1 then
      let s := match r.taken with
        | some e => s.untake k e.2.2
        | none => s
      (s.trace k 4 r.blk.addr 0 0).edgeTrap k 0x13 (seqOrigin k 0) 0 (r.resumeAt y)
    else if bit x.dbgctl.toNat 0 then s.halt k
    else s.edgeRest k

/-- BLOCK_EDGE (R115): no access of an ended block is under way (R113, R141), which is step 1. -/
def execBlockEdge (k : Nat) (s : State) : Host.Outcome State Fault Refusal :=
  .next (match s.strand? k with
    | none => s
    | some x =>
      match x.run with
      | none => s
      | some r =>
        if x.phase = .edge ∧ x.save.free ∧ ¬ x.halted then
          if x.crossed then s.edgeRest k else s.edgeCross k x r
        else s)

/-- SPLICE_HOST_RESOLVE (R192): Jasper rewrites the descriptor and clears the cause, or releases the stage. -/
def execSpliceHostResolve (k : Nat) (rewrite : Option (List (BitVec 8))) (s : State) :
    Host.Outcome State Fault Refusal :=
  .next (match s.strand? k with
    | none => s
    | some x =>
      match x.splpost with
      | none => s
      | some c =>
        if x.phase ≠ .edge ∨ ¬ x.save.free then s
        else
          let p := x.splcur.toNat
          let s := (s.modStrand k fun x => { x with splpost := none }).modCtx x.ctx fun y =>
            { y with posts := y.posts.erase (postSpliceKind, strandId k + c * 2 ^ 16) }
          match rewrite with
          | some bs => (s.vpoke x.ctx x.die (descAddr p) (bs.take 64)).edgeAct k .resplice
          | none => s.forward k (failedPayload p c) (.passing x.splstp.toNat true))

/-! ### Block load -/

/-- A captured block, whose lines have been counted, is checked and begins (R50, R111, R330, R332). -/
def State.enterLoaded (s : State) (k : Nat) (l : Loaded) : State :=
  match s.strand? k with
  | none => s
  | some x =>
    match s.checkBlock x l.addr l.bytes with
    | some (c, e) => s.loadFails k l.addr c e
    | none =>
      let s := ((s.modStrand k fun x => { x with stamp := l.stamp }).enterBlock k x l.blk).trace k 1 l.addr 0 0
      match x.breaksAt true l.blk.rsid with
      | some c =>
        if x.attached then s.stopAt k 0x12 l.addr (0x40 + c) l.addr
        else (s.modStrand k fun x => { x with run := none }).stopAt k 0x12 l.addr (0x40 + c) l.addr
      | none => s

/-- BLOCK_LOAD (R48 to R50, R198): the block at BC is captured, checked whole and begins; on a region that has been shrunk
its variant enters where it does not fit. Every block that has been captured counts (R58). -/
def execBlockLoad (k : Nat) (s : State) : Host.Outcome State Fault Refusal :=
  .next (match s.strand? k with
    | none => s
    | some x =>
      if x.phase ≠ .enter ∨ x.halted ∨ ¬ x.save.free ∨ x.save.asking then s
      else
        match (s.fetch x x.bc.toNat).then fun u o _ => match o with
          | some l => if x.shrunk then match u.foldChoice x l x.region with
              | .ok t none read => .ok t (some l) read
              | c => c
            else .ok u o []
          | none => .ok u none [] with
        | .wait u => u
        | .fails u a c e read => (u.countLoads x read).loadFails k a c e
        | .ok u none _ => u
        | .ok u (some l) read => (u.countLoads x read).enterLoaded k l)

/-! ### The end of a strand -/

/-- JASPER_END_STRAND (R117, R343): a strand stopped by a double trap, or one that a debugger held, ends; its block is
given up, and a task that it took and has not entered returns to the pool (R247). -/
def execJasperEndStrand (k : Nat) (s : State) : Host.Outcome State Fault Refusal :=
  .next (match s.strand? k with
    | none => s
    | some x =>
      if x.attached ∨ ¬ x.save.free ∨ ¬ (x.phase = .stopped ∨ x.halted) then s
      else
        let s := x.run.elim s fun r => (if x.crossed then r.taken.toList else r.exits).foldl (fun s e => s.untake k e.2.2) s
        let s := ([x.run, x.susp].filterMap id).foldl (fun s r => s.abandon k r) s
        s.modStrand k fun x => { x with
          phase := .ending (if x.phase = .stopped then 1 else 2), run := none, susp := none, crossed := false
          dbgctl := x.dbgctl &&& ~~~17#64 })

/-- A copy chain has ended (R126): it rests at its tail, or a fault halted it. -/
def CopyChain.over (c : CopyChain) : Bool := (c.cstate == .idle && c.pos == c.tail && c.outst == 0) || c.cstate == .halted

/-- A collective chain has ended. -/
def CollChain.over (c : CollChain) : Bool := (c.cstate == .idle && c.pos == c.tail && c.outst == 0) || c.cstate == .halted

/-- A copy chain of a strand that ends waits on that strand alone, which acts no more: for a slot of its full event queue, or for
room in a window that it drains itself (R126; log 28). -/
def State.copyStuck (s : State) (k : Nat) (x : Strand) (c : CopyChain) : Bool :=
  c.outst == 0 && match c.cstate with
    | .eventq => !x.eventRoom
    | .waiting => (c.win.bind fun w => s.win? w.1 w.2).all fun w => w.drainer.toNat == strandId k
    | _ => false

/-- A collective chain of a strand that ends waits for a slot of its full event queue. -/
def CollChain.stuck (x : Strand) (c : CollChain) : Bool := c.cstate == .eventq && c.outst == 0 && !x.eventRoom

/-- Every engine chain of a strand that ends has ended, or waits on that strand alone (R126). -/
def State.chainsOver (s : State) (k : Nat) (x : Strand) : Bool :=
  (x.copies.all fun c => c.2.over || s.copyStuck k x c.2) && x.colls.all fun c => c.2.over || c.2.stuck x

/-- The chains of a strand that leaves the package give up what they still wait for, and their windows (R126, R208). -/
def State.giveUpChains (s : State) (k : Nat) (x : Strand) : State :=
  x.copies.foldl (fun s e => if e.2.over then s else s.freeCopyWin k e.1) s

/-- A request or response belongs to strand k. -/
def Req.of (k : Nat) : Req → Bool
  | .node j _ _ _ _ | .chain j _ | .coll j _ | .geode j _ | .seq j => j == k
  | _ => false

/-- Every access of strand k has been performed and acknowledged (R343). -/
def State.accessesDone (s : State) (k : Nat) : Bool :=
  (List.range 4).all fun d =>
    let y := s.die d
    (List.range 4).all (fun h => (y.path h).all fun m => !m.req.of k) && y.acks.all fun r => !r.req.of k

/-- Wait-for entries of a strand that ends go; entries it owned take owner none (R117, R126). -/
def State.endEntries (s : State) (k : Nat) : State :=
  let s := s.removeEntries fun e => e.waiter.toNat == strandId k || match e.who with
    | .node j _ _ => j == k
    | _ => false
  let disown := fun (e : Nat × WfEnt) =>
    if e.2.owner.toNat = strandId k then (e.1, { e.2 with owner := 0, hmark := false, told := false }) else e
  { s with dies := s.dies.map fun (y : Die) => { y with wft := y.wft.map disown } }

/-- Fills still on their way into the windows of a strand that ends fail as fills of a closed window (R143; log 23). -/
def State.failFills (s : State) (k : Nat) : State :=
  match s.strand? k with
  | none => s
  | some x => x.wins.foldl (fun s e => e.2.link.foldl (fun s f =>
      if f.slot = eosSlot then s
      else
        let n := ((s.strand? f.k).bind fun y => (y.chans.find? fun c => c.2 == (k, e.1)).map (·.1)).getD 0
        s.fillSettled k e.1 f (some (0x07, windowExtra 0x03 n))) s) s

/-- The strand leaves the package (R126, R343): its windows close, so that fills of them fail from then on and their ports are
bound no more (R143, R155). -/
def State.removeStrand (s : State) (k code : Nat) (x : Strand) : State :=
  let mine := fun (e : WfEnt) => !e.sw && e.kind == 1 && x.wins.any fun w => w.2.ident k == e.obj.toNat
  let s := ((((((((s.failFills k).removeEntries mine).dropGenEntries k).endEntries k).leaveGangs k).dropTasks k).endChannels
    k).orphan k).disarm k
  let s := (s.leaveWalks k).releaseRegion x.die x.region.origin
  let s := s.modCtx x.ctx fun c => { c with queues := c.queues.map fun q =>
    (q.1, q.2.filter fun l => !(q.1 == x.launch.q && l == x.launch)) }
  let s := (s.answerAll (fun w => w == .save k) 1).answerAll (fun w => w == .fold k) 1
  let s := { s with
    strands := (del k s.strands).map fun e => (e.1, { e.2 with chans := e.2.chans.filter fun c => c.2.1 != k })
    images := s.images.filter fun i => i.key != some k
    dies := s.dies.map fun (y : Die) => { y with streams := y.streams.filter fun t => t.2.k != k } }
  if x.launch.comp = 0 then s
  else { s with done := s.done ++ [{ ctx := x.ctx, comp := x.launch.comp, code := code, cause := bits x.tstat.toNat 15 8,
                                     ident := strandId k, lhead := x.launch.lhead, tres := x.tres, q := x.launch.q }] }

/-- Whether a stream generator works for the strand. -/
def State.streaming (s : State) (k : Nat) : Bool :=
  s.dies.toList.any fun y => y.streams.any fun t => t.2.k == k

/-- A strand that ends by HALTS has taken a trap of an engine command that still ran, instead of ending; the others pending then
are discarded (R117, R211, R228). -/
def State.endTrap (s : State) (k : Nat) (x : Strand) (t : Trap) : State :=
  (s.modStrand k fun x => { x with owed := [] }).trapNow k t.cause t.origin x.bc.toNat t.extra 0 false

/-- STRAND_END (R126): once its engine commands have ended and its accesses are performed; a fault of one of them meanwhile
is taken as a trap, with TRES 0 (R116, R211). A strand that ends by HALTS also waits for its running streams (R200). -/
def execStrandEnd (k : Nat) (s : State) : Host.Outcome State Fault Refusal :=
  .next (match s.strand? k with
    | none => s
    | some x =>
      match x.phase with
      | .ending code =>
        match if code = 0 then firstTrap x.owed else none with
        | some t => s.endTrap k x t
        | none =>
          if s.chainsOver k x ∧ s.accessesDone k ∧ (code ≠ 0 ∨ ¬ s.streaming k) then (s.giveUpChains k x).removeStrand k code x
          else s
      | _ => s)

end Sys2Proof.Machine
end

