-- ==== Sys2Proof/Machine/System.lean ====
section
/-! DEFINITION. Machine/System.lean: group 0xE's members that act on contexts (R307, R308, R312, R320, R321): saves and
restores, TLBINV, MAPSET, PRMT, regions, CSRs, and the events that belong to them (R59, R310, R6, R349, R352). -/

namespace Sys2Proof.Machine

open Sys2Proof

/-! ### Operands (R321) -/

/-- The issuer and its context. -/
def State.issuer (s : State) (f : Strand → Ctx → Try) : Try :=
  match s.strand? s.fire.k with
  | none => .stay s
  | some x => match s.ctx? x.ctx with
    | some c => f x c
    | none => .stay s

/-- May act on other contexts (R321). -/
def Ctx.super (c : Ctx) : Bool := bit c.ctxpriv.toNat 1

/-- A status emitted as I64. -/
def Try.status (s : State) (v : Nat) : Try := Try.tok s (Tok.i64 v s.fire.marks)

/-- A strand that an operand names by its identity, read from [15:0] (R252, R321). -/
def State.named (s : State) (v : Nat) : Option (Nat × Strand) :=
  let i := v % 2 ^ 16
  if i / 2 ^ 13 = 1 then (s.strand? (idKey i)).map fun x => (idKey i, x) else none

/-! ### Requests that meet (R320) -/

/-- The number under which the firing under way queues: the one it has, or the next (R320). -/
def State.queueNo (s : State) : Nat :=
  let f := s.fire
  match s.held? f.k f.hand f.copy f.slot f.iter with
  | some (_, _, _, p) => if p.why = .region then p.prog.headD s.arrived else s.arrived
  | none => s.arrived

/-- The firing under way waits in the queue of system requests, in arrival order (R320). -/
def Try.queued (s : State) : Try :=
  let n := s.queueNo
  .wait { s with arrived := max s.arrived (n + 1) } .region none [n]

/-- The region of a handle (R321). -/
def State.regionOf (s : State) (h : Nat) : Option (Nat × Region) :=
  let d := bits h 1 0
  ((s.die d).regions.find? fun g => g.handle d == h).map fun g => (d, g)

/-- The region on whose tiles a waiting request acts (R320): of the strand that it names, of its handle, or the rectangle
that is held for it. -/
def State.touches (s : State) (i : Instr) (p : Pend) : Option (Nat × Region) :=
  let strandOf := fun (o : Option Tok) => (o.bind fun t => s.named t.word.toNat).map fun e => (e.2.die % 4, e.2.region)
  match i with
  | .ctxsv _ _ _ => strandOf p.fire.right
  | .prmt _ _ _ _ _ => strandOf p.fire.left
  | .ctxrs _ _ => p.fire.right.bind fun t => s.regionOf t.word.toNat
  | .rgnfr _ _ => p.fire.left.bind fun t => s.regionOf t.word.toNat
  | _ => s.heldFor (p.prog.headD 0)

/-- Effective priority of the strand of an operation. -/
def State.pendPrio (s : State) (p : Pend) : Nat := ((s.strand? p.fire.k).map fun x => x.eff).getD 0

/-- A request is served before another (R320): by effective priority, then by arrival. -/
def State.ahead (s : State) (p : Pend) (prio n : Nat) : Bool :=
  let e := s.pendPrio p
  prio < e || (prio == e && p.prog.headD 0 < n)

/-- A request on tiles of die d waits behind one that is served before it and touches one of them (R320). -/
def State.inTurn (s : State) (d : Nat) (g : Region) (t : State → Try) : Try :=
  let n := s.queueNo
  let prio := ((s.strand? s.fire.k).map fun x => x.eff).getD 0
  let behind := (s.pendsOf fun w => w == .region).any fun p =>
    p.prog != [n] && s.ahead p prio n &&
      match s.held? p.fire.k p.fire.hand p.fire.copy p.fire.slot p.fire.iter with
      | some (_, _, i, _) => (s.touches i p).any fun e => e.1 == d % 4 && e.2.meets g
      | none => false
  if behind then Try.queued s else t s

/-! ### Context save (R313 to R320) -/

/-- A request to save as an operation. -/
def Try.ofAsked (s : State) (k : Nat) : Asked → Try
  | .no st => Try.status s st
  | .served u => Try.status u 0
  | .waits u => .wait u (.save k) none []
  | .later => Try.queued s

/-- Bytes of a `.C` image: the parts before the tile state (R315). -/
def dieImageLen : Nat := 80 * 2 ^ 10

/-- The die-wide state of context c on die d (R313). -/
def State.dieImage (s : State) (c d addr : Nat) : Image :=
  let y := s.die d
  let x := (s.ctx? c).getD Ctx.start
  { ctx := c, addr := addr, head := s.vpeek c d addr headBytes, key := none, snap := none, die := some (d % 4), accs := [], opwins := [], streams := [], acct := []
    trees := x.trees.filter fun t => t.1 / 16 == d % 4, tickets := y.tickets.filter fun t => t.2.ctx == c
    tasks := y.store.filter fun t => t.2.ctx == c, pool := y.pool.filter (s.pieceOf c)
    deques := (s.strands.filter fun e => e.2.ctx == c && e.2.die % 4 == d % 4).map fun e => (e.1, e.2.deque)
    gangs := x.gangs.filter fun g => g.1 % 4 == d % 4 }

/-- CTXSV.C (R313, R317): the context's die-wide state on the issuer's die. -/
def State.saveDie (s : State) (x : Strand) (addr : Nat) : Try :=
  if ¬ s.imageMapped x.ctx x.die addr dieImageLen then Try.status s 3
  else
    let s := (s.blur x.ctx x.die addr (0, dieImageLen)).vpoke x.ctx x.die addr (leBytes 8 dieImageLen)
    let s := s.vpoke x.ctx x.die (addr + 18) (leBytes 1 x.ctx ++ leBytes 1 1)
    let s := s.modDie x.die fun y => y.countStores (dieImageLen / 64)
    Try.status (s.keepImage (s.dieImage x.ctx x.die addr)) 0

/-- CTXSV (R320, R321). -/
def tryCtxsv (m : CtxsvK) (s : State) : Try :=
  s.issuer fun x c =>
    match spliceAddr 4096 s.fire.left, (if m = .die then .ok 0 else wordOperand s.fire.right) with
    | .error (c, e), _ => .fault s c e
    | _, .error c => .fault s c c
    | .ok a, .ok v =>
      if m = .die then s.saveDie x a
      else match s.named v with
        | none => Try.status s 1
        | some (k, y) =>
          if k = s.fire.k then Try.status s 4
          else if y.ctx ≠ x.ctx ∧ ¬ c.super then Try.status s 2
          else if ¬ s.imageMapped x.ctx x.die a y.region.imageLen then Try.status s 3
          else s.inTurn y.die y.region fun s =>
            Try.ofAsked s k (s.askSave k a (m == .free) (some (s.fire.k, s.fire.slot)))

/-- Operands of CTXSV. -/
def needSave (m : CtxsvK) (f : Firing) : Bool := f.left.isSome && (m == .die || f.right.isSome)

/-- CTXSV, CTXSV.F and CTXSV.C (R321). -/
def execCtxsv (p : PMode) (x : CtxsvK) (a : Tgt) (s : State) : Host.Outcome State Fault Refusal :=
  .next (s.member p (needSave x) true a .none true none (tryCtxsv x))

/-! ### Context restore (R319) -/

/-- The word CTXRS emits (R321). -/
def restoreWord (ident status : Nat) : Nat := ident % 2 ^ 16 + status % 256 * 2 ^ 16

/-- The header's bytes at an address, as an access of context c from die d reads them; none where the page cannot be
read (R321). -/
def State.imageHead (s : State) (c d addr : Nat) : Option (List Byte) :=
  match s.translate c d addr .rd with
  | .ok _ _ => some (s.vpeek c d addr headBytes)
  | _ => none

/-- The image that stands at an address of a context (R321): the one written there, or one whose header the bytes there
are, copied by the program (log 26). -/
def State.imageAt (s : State) (c addr : Nat) (hd : List Byte) : Option Image :=
  match s.images.find? fun i => i.ctx == c && i.addr == addr && i.head == hd with
  | some i => some i
  | none => s.images.find? fun i => i.head == hd

/-- The whole range of an image can be read (R321). -/
def State.imageReadable (s : State) (c d addr len : Nat) : Bool :=
  (List.range (len / 4096)).all fun i => match s.translate c d (addr + 4096 * i) .rd with
    | .ok _ _ => true
    | _ => false

/-- Whether bytes of an image, as an access of context c from die d reads them, meet an uncorrectable error (R318). -/
def State.senseBytes (s : State) (c d tile va n : Nat) : State × Bool :=
  match s.physPieces c d ⟨tile, .nobody⟩ Stamp.zero .rd (pieces va n) with
  | .ok ps => match s.sensePieces d tile c ps with
    | (t, o) => (t, o.isSome)
  | _ => (s, false)

/-- Whether the two parts of a row in an image, its data and its row header, meet an uncorrectable error (R315, R318). -/
def State.senseParts (s : State) (c d tile data n head : Nat) : State × Bool :=
  let (s, a) := s.senseBytes c d tile data n
  let (s, b) := s.senseBytes c d tile head 16
  (s, a || b)

/-- The bytes of an image that a restore reads meet armed errors (R318): a row of a window or of an operand slot, by its data
or its row header, comes back marked. An accumulator has no mark: an error in its words is logged (log 26). -/
def State.senseImage (s : State) (k : Nat) (c d addr : Nat) (x : Strand) : State :=
  if (s.die 0).armed.isEmpty then s
  else
  let s := x.wins.foldl (fun s e => (List.range e.2.extent).foldl (fun s i => (List.range e.2.rpe).foldl (fun s r =>
    let w := e.2
    let o := w.sram (w.head + BitVec.ofNat 32 i) r
    let b := addr + x.region.sramAt w.tile
    match s.senseParts c d x.lead (b + o) w.rowBytes (b + 2 ^ 21 + o / 128 * 16) with
    | (t, true) => t.modWin k e.1 fun w => w.setRow i r { w.row i r with bad := true }
    | (t, false) => t) s) s) s
  x.region.cTiles.foldl (fun s t =>
    let o := (s.die x.die).opwin t
    let b := addr + x.region.slotsAt t
    let s := (List.range o.extent).foldl (fun s i => (List.range 64).foldl (fun s r =>
      let n := (o.head + BitVec.ofNat 32 i).toNat % 32
      match s.senseParts c d x.lead (b + 8192 * n + 128 * r) 128 (b + 2 ^ 18 + 1024 * n + 16 * r) with
      | (u, true) => u.setOpwin x.die t (((u.die x.die).opwin t).mark i r)
      | (u, false) => u) s) s
    (s.senseBytes c d x.lead (b + 2 ^ 18 + 2 ^ 15) (8 * 8192)).1) s

/-- Lines that a restore reads from an image count as reads of the issuer's die (R58, R321). -/
def State.countImage (s : State) (c d addr : Nat) (x : Strand) : State :=
  (imageLines x.region (x.sramPieces true ++ s.arrayPieces x true)).foldl (fun s l =>
    s.countRange c d .rd (addr + 64 * l) 64) s

/-- The blocks of a strand find their converters on a region (R319). -/
def Strand.convertsOn (x : Strand) (g : Region) : Bool :=
  ([x.run, x.susp].filterMap id).all fun r => (converterErr r.blk g).isNone

/-- Restore of strand j from image i, at address a, onto region g of die d, granted or held already; x is the issuer, y the
record that the image holds. -/
def State.restoreStrand (s : State) (j d a : Nat) (x : Strand) (i : Image) (y : Strand) (g : Region) (held : Bool) : Try :=
  if ¬ y.convertsOn g then Try.status s (restoreWord 0 3)
  else s.inTurn d g fun s =>
    let moved := decide (j < 1024) && !((j / 256 % 4 == d % 4) && (s.strand? j).any fun z => z.region.origin == g.origin)
    let (j, s) := if moved then (s.parkKey j, s.freeSaved j) else (j, s)
    let s := if held then s else s.grantRegion d g
    let (n, s) := s.restoreOn j d g i.ctx i.addr (x.ctx, a)
    match s.strand? n with
    | none => Try.status s (restoreWord 0 3)
    | some z => Try.status ((s.countImage x.ctx x.die a z).senseImage n x.ctx x.die a z) (restoreWord (strandId n) 0)

/-- The die-wide state of an image comes back (R313, R319). -/
def State.restoreDie (s : State) (i : Image) (d : Nat) : State :=
  let s := s.modCtx i.ctx fun c => { c with
    trees := (c.trees.filter fun t => t.1 / 16 != d) ++ i.trees
    gangs := i.gangs.foldl (fun l g => put g.1 g.2 l) (c.gangs.filter fun g => g.1 % 4 != d % 4) }
  let s := i.deques.foldl (fun s e => s.modStrand e.1 fun x => { x with deque := e.2 }) s
  s.modDie d fun y => { y with
    tickets := i.tickets.foldl (fun l t => put t.1 t.2 l) (y.tickets.filter fun t => t.2.ctx != i.ctx)
    store := i.tasks.foldl (fun l t => put t.1 t.2 l) (y.store.filter fun t => t.2.ctx != i.ctx)
    pool := y.pool.filter (fun p => !s.pieceOf i.ctx p) ++ i.pool }

/-- The request for tiles of an image's shape and kind, on any die, its own first (R321; log 26). -/
def imageRequest (g : Region) : Request :=
  { rows := g.rows, cols := g.cols, ctile := !isMTile g.origin, die := 0, any := true, conv := false, j := 0 }

/-- CTXRS of a strand's image with handle 0 (R319 to R321): in place where its region is still held, else on a rectangle of
the image's shape that the converter checks admit. -/
def State.restoreAnew (s : State) (j a : Nat) (x : Strand) (i : Image) (y z : Strand) : Try :=
  if j < 1024 ∧ y.region.rows = z.region.rows ∧ y.region.cols = z.region.cols then
    s.restoreStrand j z.die a x i y { z.region with strand := some j } true
  else
    let q := imageRequest y.region
    match s.findRect s.queueNo x.eff y.ctx q allCount (fun _ g => y.convertsOn g) with
    | some (d, g) => s.restoreStrand j d a x i y g false
    | none =>
      let quota := ((s.ctx? y.ctx).map fun c => bits c.rgnq.toNat 9 0).getD 0
      Try.status s (restoreWord 0 (if quota < s.tilesOf y.ctx allCount + q.rows * q.cols then 2 else 1))

/-- CTXRS of a strand's image onto the region of a handle (R319 to R321): behind a save of what runs there. -/
def State.restoreOnto (s : State) (j a h : Nat) (x : Strand) (i : Image) (y : Strand) : Try :=
  let no := fun (st : Nat) => Try.status s (restoreWord 0 st)
  match s.regionOf h with
  | none => no 1
  | some (d, g) =>
    if g.ctx ≠ y.ctx then no 2
    else if g.rows ≠ y.region.rows ∨ g.cols ≠ y.region.cols ∨ isMTile g.origin ≠ isMTile y.region.origin then no 3
    else match g.strand.filter (· != j) with
      | none => s.restoreStrand j d a x i y g true
      | some n => match (s.strand? n).map fun (z : Strand) => z.save with
        | some (.saving _ _ _) => Try.queued s
        | _ => no 1

/-- CTXRS (R319, R320, R321). A strand that is being saved is restored behind its save; one that runs is not. -/
def tryCtxrs (s : State) : Try :=
  s.issuer fun x c =>
    match spliceAddr 4096 s.fire.left, wordOperand s.fire.right with
    | .error (c, e), _ => .fault s c e
    | _, .error c => .fault s c c
    | .ok a, .ok h =>
      let no := fun (st : Nat) => Try.status s (restoreWord 0 st)
      if ¬ s.quiet x.stamp then .stay s
      else match (s.imageHead x.ctx x.die a).bind (s.imageAt x.ctx a) with
      | none => no 3
      | some i =>
        match i.die, i.key.bind fun j => (s.strand? j).map fun z => (j, z) with
        | some d, _ =>
          if ¬ s.imageReadable x.ctx x.die a dieImageLen then no 3
          else Try.status ((s.countRange x.ctx x.die .rd a dieImageLen).restoreDie i d) (restoreWord 0 0)
        | none, none => no 1
        | none, some (j, z) =>
          let y := i.snap.getD z
          match z.save with
          | .running | .asked _ _ _ => no 1
          | .saving _ _ _ => Try.queued s
          | .saved _ =>
            if y.ctx ≠ x.ctx ∧ ¬ c.super then no 2
            else if ¬ s.imageReadable x.ctx x.die a y.region.imageLen then no 3
            else if h = 0 then s.restoreAnew j a x i y z
            else s.restoreOnto j a h x i y

/-- CTXRS (R321). -/
def execCtxrs (p : PMode) (a : Tgt) (s : State) : Host.Outcome State Fault Refusal :=
  .next (s.member p needLR true a .none false none tryCtxrs)

/-! ### Translations and placement (R307, R308) -/

/-- A cached translation that TLBINV removes. -/
def Xlat.hit (e : Xlat) (m : TlbK) (ctx va : Nat) : Bool :=
  match m with
  | .all => true
  | .ctx => e.ctx == ctx
  | .page => e.ctx == ctx && va / 2 ^ (14 + [0, 7, 16].getD e.size 0) == e.page

/-- Matching translations dropped from every cache (R307). -/
def State.dropXlats (s : State) (hit : Xlat → Bool) : State :=
  { s with dies := s.dies.map fun (y : Die) => { y with tlb := y.tlb.filter fun e => !hit e } }

/-- No access stands on a path: those that used a dropped translation have been performed (R307). -/
def State.drained (s : State) : Bool :=
  (List.range 4).all fun d => (List.range 4).all fun h => ((s.die d).path h).isEmpty

/-- Walks for matching pages start anew (R307): what they met so far is forgotten. -/
def State.restartWalks (s : State) (m : TlbK) (ctx va : Nat) : State :=
  let hit := fun (w : Walk) => match m with
    | .all => true
    | .ctx => w.ctx == ctx
    | .page => w.ctx == ctx && w.page == va / 2 ^ 14
  let again := fun (w : Walk) => if hit w then { w with seq := none, declined := false } else w
  { s with dies := s.dies.map fun (y : Die) => { y with walks := y.walks.map again } }

/-- TLBINV (R307): it takes effect once the accesses issued before it have been performed. -/
def tryTlbinv (m : TlbK) (s : State) : Try :=
  s.issuer fun x _ =>
    match (if m = .page then spliceAddr 1 s.fire.left else .ok 0) with
    | .error (c, e) => .fault s c e
    | .ok va =>
      if s.drained then Try.complete ((s.dropXlats fun e => e.hit m x.ctx va).restartWalks m x.ctx va) else .stay s

/-- TLBINV, TLBINV.CTX and TLBINV.ALL (R321). -/
def execTlbinv (p : PMode) (x : TlbK) (a : Tgt) (s : State) : Host.Outcome State Fault Refusal :=
  .next (s.tries p needL true a .none (tryTlbinv x))

/-- Granules of 4 KiB that a frame of a placement takes in a die's stack (R56, R308). -/
def frameUse (d place f : Nat) : Nat :=
  match place with
  | 0 => 1
  | 5 => if homeDie d 5 (f * 2 ^ 14) = d then 4 else 0
  | 6 => 4
  | p => if p = d + 1 then 4 else 0

/-- Storage that the frames set so far take of a die beyond what the reset layout took (R308). -/
def storageDelta (frames : List (Nat × Nat)) (d : Nat) : Int :=
  (frames.map fun e => (frameUse d e.2 e.1 : Int) - 1).sum

/-- A frame's placement recorded; placement 000 is what an unlisted frame has (R57). -/
def setFrame (place f : Nat) (frames : List (Nat × Nat)) : List (Nat × Nat) :=
  if place = 0 then del f frames else put f place frames

/-- Frames of 16 KiB of the installed bonded DRAM (R17). -/
def installedFrames : Nat := installedDram / 2 ^ 14

/-- Granules of 4 KiB of a die's stack that stand free for placements (R308): some of the die's bytes (R17; log 5). -/
def freeGranules (d : Nat) : Nat := min (Config.freeStorage d) (dieDram / 2 ^ 12)

/-- A frame lies in an allotment, which holds no frame beyond the installed bonded DRAM (R308). -/
def Ctx.allots (c : Ctx) (f : Nat) : Bool := decide (f < installedFrames) && c.frames.any fun r => decide (r.1 ≤ f ∧ f < r.1 + r.2)

/-- MAPSET (R308): statuses 3 and 2, else every frame of the range has the new placement and no cached translation maps
it. Four frames of the allotment stand behind each frame of placement 110 (log 20). -/
def tryMapset (place : Nat) (s : State) : Try :=
  s.issuer fun x c =>
    match addrOrWord s.fire.left, wordOperand s.fire.right with
    | .error c, _ => .fault s c c
    | _, .error c => .fault s c c
    | .ok pa, .ok n =>
      if pa % 2 ^ 14 ≠ 0 ∨ 2 ^ 40 ≤ pa ∨ n = 0 ∨ 65536 < n then Try.status s 3
      else
        let fs := (List.range n).map fun i => pa / 2 ^ 14 + i
        let frames := fs.foldl (fun l f => setFrame place f l) s.frames
        let copies := 4 * (frames.filter fun e => e.2 == 6 && c.allots e.1).length
        let total := (c.frames.map (·.2)).sum
        if ¬ fs.all c.allots ∨ total < copies
            ∨ (List.range 4).any (fun d => decide ((freeGranules d : Int) < storageDelta frames d)) then Try.status s 2
        else if ¬ s.drained then .stay s
        else
          let s := ({ s with frames := frames } : State).modCtx x.ctx fun c =>
            { c with charged := 3 * (frames.filter fun e => e.2 == 6 && c.allots e.1).length }
          Try.status (s.dropXlats fun e =>
            let b := 2 ^ (14 + [0, 7, 16].getD e.size 0)
            decide (e.pa < pa + n * 2 ^ 14) && decide (pa < e.pa + b)) 0
where
  /-- A physical address or word operand: an integer tag or IDX (R321). -/
  addrOrWord (o : Option Tok) : Except Nat Nat :=
    match o with
    | none => .error 0x03
    | some t => if t.tag = .i64 ∨ t.tag = .idx then .ok t.word.toNat else .error 0x03

/-- MAPSET pl (R321). -/
def execMapset (p : PMode) (l : BitVec 3) (a : Tgt) (s : State) : Host.Outcome State Fault Refusal :=
  .next (s.tries p needLR true a .none (tryMapset l.toNat))

/-! ### PRMT (R312, R198) -/

/-- PRMT and PRMT.S (R321). -/
def tryPrmt (whole : Bool) (rows cols : Nat) (s : State) : Try :=
  s.issuer fun x c =>
    match wordOperand s.fire.left with
    | .error c => .fault s c c
    | .ok v =>
      match s.named v with
      | none => Try.status s 1
      | some (k, y) =>
        if k = s.fire.k then Try.status s 4
        else if y.ctx ≠ x.ctx ∧ ¬ c.super then Try.status s 2
        else if ¬ y.lives then Try.status s 1
        else if whole then
          let at_ := s.psaveSlot k y
          if ¬ s.imageMapped y.ctx y.die at_ y.region.imageLen then Try.status s 3
          else s.inTurn y.die y.region fun s => Try.ofAsked s k (s.askSave k at_ true none)
        else if ¬ y.shrinks rows cols then Try.status s 3
        else match y.save, y.shrink with
          | .saved _, _ => Try.status s 1
          | .running, none => s.inTurn y.die y.region fun s =>
            .wait (s.modStrand k fun y => { y with
              shrink := some (rows, cols, some (s.fire.k, s.fire.slot)), asked := 0 }) (.fold k) none []
          | _, _ => Try.queued s

/-- PRMT (R321). -/
def execPrmt (p : PMode) (w : Bool) (c r : BitVec 4) (a : Tgt) (s : State) : Host.Outcome State Fault Refusal :=
  .next (s.tries p needL true a .none (tryPrmt w (r.toNat + 1) (c.toNat + 1)))

/-! ### Regions (R309 to R311) -/

/-- RGNAL (R321). -/
def tryRgnal (s : State) : Try :=
  s.issuer fun x c =>
    match wordOperand s.fire.left, wordOperand s.fire.right with
    | .error c, _ => .fault s c c
    | _, .error c => .fault s c c
    | .ok v, .ok n =>
      if n ≠ x.ctx ∧ ¬ c.super then Try.status s 2
      else match requestOf v with
      | none => Try.status s 3
      | some q =>
        if 63 < n then Try.status s 3
        else match s.allocate s.queueNo n x.eff q anyRect with
          | .at_ d g => Try.status ((s.unreserve s.queueNo).grantRegion d g) (g.handle d)
          | .waits u => Try.queued u
          | .no u code => Try.status (u.unreserve s.queueNo) code

/-- RGNAL (R321). -/
def execRgnal (p : PMode) (a : Tgt) (s : State) : Host.Outcome State Fault Refusal :=
  .next (s.tries p needLR true a .none tryRgnal)

/-- RGNFR (R320, R321): a saved strand's region is released with nothing lost; of a strand that is being saved, behind the
save (log 26). -/
def tryRgnfr (s : State) : Try :=
  s.issuer fun x c =>
    match wordOperand s.fire.left with
    | .error c => .fault s c c
    | .ok h =>
      match s.regionOf h with
      | none => Try.status s 1
      | some (d, g) =>
        let foreign := g.ctx ≠ x.ctx ∧ ¬ c.super
        match g.strand.bind fun k => (s.strand? k).map fun (y : Strand) => (k, y.save) with
        | some (_, .running) | some (_, .asked _ _ _) => Try.status s 1
        | some (_, .saving _ _ _) => Try.queued s
        | some (k, .saved _) =>
          if foreign then Try.status s 2 else s.inTurn d g fun s => Try.status (s.freeSaved k) 0
        | none => if foreign then Try.status s 2 else s.inTurn d g fun s => Try.status (s.releaseRegion d g.origin) 0

/-- RGNFR (R321). -/
def execRgnfr (p : PMode) (a : Tgt) (s : State) : Host.Outcome State Fault Refusal :=
  .next (s.tries p needL true a .none tryRgnfr)

/-! ### The queue of system requests -/

/-- What a member of group 0xE that can queue does when it is tried again (R320). -/
def sysTry (i : Instr) : Option (State → Try) :=
  match i with
  | .ctxsv _ m _ => some (tryCtxsv m)
  | .ctxrs _ _ => some tryCtxrs
  | .prmt _ w c r _ => some (tryPrmt w (r.toNat + 1) (c.toNat + 1))
  | .rgnal _ _ => some tryRgnal
  | .rgnfr _ _ => some tryRgnfr
  | _ => none

/-- The queued requests of strands of a context that no save holds, in the order in which they are served (R320): by
effective priority, then by arrival. -/
def State.sysQueue (s : State) (c : Nat) : List Pend :=
  let ps := (s.pendsOf fun w => w == .region).filter fun p => (s.strand? p.fire.k).any fun x => x.ctx == c && x.save.free
  sortBy (fun p q => s.ahead p (s.pendPrio q) (q.prog.headD 0)) ps

/-- REGION_GRANT (R310, R311, R320): the first of a context's queued requests that can go on is tried again; requests on
tiles of another that comes before them stay behind it. -/
def execRegionGrant (c : Nat) (s : State) : Host.Outcome State Fault Refusal :=
  .next (s.firstChange ((s.sysQueue c).map fun p s =>
    match s.held? p.fire.k p.fire.hand p.fire.copy p.fire.slot p.fire.iter with
    | some (_, _, i, _) => match sysTry i with
      | some t => s.again p true (tgtA i) .none t
      | none => s
    | none => s))

/-! ### CSRs -/

/-- Registers of a strand by CSR number (R118, R184, R260, R327). -/
def Strand.csr (x : Strand) (n : Nat) : Option Word :=
  match n with
  | 0x151 => some x.tres | 0x152 => some x.tstat
  | 0x153 => some (x.tsav[0]'(by decide)) | 0x154 => some (x.tsav[1]'(by decide))
  | 0x155 => some (x.tsav[2]'(by decide)) | 0x156 => some (x.tsav[3]'(by decide))
  | 0x160 => some x.stgcfg | 0x161 => some x.stghnd | 0x162 => some x.stgser | 0x163 => some x.splcur
  | 0x164 => some x.splstp | 0x187 => some x.tcur | 0x1A5 => some x.dbgctl
  | _ => none

/-- Registers of a context by CSR number (R59, R118, R235, R260, R321, R332, R334, R341, R347). -/
def Ctx.csr (c : Ctx) (n : Nat) : Option Word :=
  match n with
  | 0x148 => some c.ksegb | 0x149 => some c.ksegl | 0x150 => some c.thnd | 0x170 => some c.clbnd
  | 0x180 => some c.wfrb | 0x181 => some c.wfmode | 0x185 => some c.wfinj | 0x186 => some c.lqpri
  | 0x190 => some c.ptroot | 0x191 => some c.fltring | 0x192 => some c.fltack | 0x193 => some c.pmode
  | 0x194 => some c.psave | 0x195 => some c.rgnq | 0x196 => some c.ctxpriv
  | 0x1A0 => some c.trcctl | 0x1A1 => some c.trcbuf | 0x1A2 => some c.trctail | 0x1A3 => some c.trchead
  | 0x1A4 => some c.trcdrop | 0x1A6 => some c.recctl | 0x1A7 => some c.recbuf | 0x1A8 => some c.rectail
  | 0x1A9 => some c.rechead | 0x1B0 => some c.lring | 0x1B1 => some c.ldoor | 0x1B2 => some c.lhead
  | 0x1B3 => some c.hamode
  | _ => none

/-- Registers of a die by CSR number (R58, R260, R352). -/
def Die.csr (y : Die) (n : Nat) : Option Word :=
  match n with
  | 0x140 => some y.mrdloc | 0x141 => some y.mrdrem | 0x142 => some y.mstcnt
  | 0x182 => some y.wfring | 0x183 => some y.wfovf | 0x184 => some (BitVec.ofNat 64 y.wft.length)
  | 0x1B4 => some (y.retmap[0]'(by decide)) | 0x1B5 => some (y.retmap[1]'(by decide))
  | 0x1B6 => some (y.retmap[2]'(by decide)) | 0x1B7 => some (y.retmap[3]'(by decide))
  | _ => none

/-- CSRRD's value (R321): the issuer's own strand, context and die. -/
def State.csr (s : State) (x : Strand) (c : Ctx) (n : Nat) : Word :=
  ([x.csr n, c.csr n, (s.die x.die).csr n, if n = 0x1B8 then some s.pwrcap else none].findSome? id).getD 0

/-- Bits hi to lo of a 64-bit word as a mask. -/
def maskBits (hi lo : Nat) : Word := BitVec.ofNat 64 ((2 ^ (hi + 1 - lo) - 1) * 2 ^ lo)

/-- The bits of a register that a CSRWR by privileged software writes (R5, R6, and the field maps). -/
def csrwrMask (n : Nat) : Word :=
  match n with
  | 0x140 | 0x141 | 0x142 | 0x151 | 0x163 | 0x164 => maskBits 63 0
  | 0x148 | 0x150 | 0x161 => maskBits 55 4
  | 0x149 => maskBits 16 0
  | 0x160 => maskBits 18 0
  | 0x162 | 0x1B1 => maskBits 31 0
  | 0x170 | 0x186 => maskBits 47 0
  | 0x180 => maskBits 55 12
  | 0x190 => maskBits 55 20
  | 0x194 => maskBits 55 30
  | 0x1A5 => maskBits 3 3
  | 0x1B0 => maskBits 55 12 ||| maskBits 4 0
  | _ => 0

/-- The bits of a register that Beryl, Jasper or the host's privileged software writes, where no event of its own does (R6,
R16; log 6): Jasper enables a launch ring (R16, R348), and the host's software sets up a context before a strand of it
runs. -/
def writerMask (w : Writer) (n : Nat) : Word :=
  match w, n with
  | .beryl, 0x195 => maskBits 9 0
  | .beryl, 0x196 => maskBits 1 0
  | .jasper, 0x181 | .jasper, 0x193 => maskBits 0 0
  | .jasper, 0x182 | .jasper, 0x191 | .jasper, 0x1A1 | .jasper, 0x1A7 => maskBits 55 12 ||| maskBits 4 0
  | .jasper, 0x1A0 => maskBits 6 0
  | .jasper, 0x1A3 | .jasper, 0x1A9 => maskBits 63 0
  | .jasper, 0x1A6 | .jasper, 0x1B3 => maskBits 2 0
  | .jasper, 0x1B0 => maskBits 55 12 ||| maskBits 4 0
  | .host, 0x150 | .host, 0x170 | .host, 0x180 | .host, 0x186 | .host, 0x190 | .host, 0x194 | .host, 0x1B0 => csrwrMask n
  | _, _ => 0

/-- A register after a write of the masked bits. -/
def merge (m old v : Word) : Word := (old &&& ~~~m) ||| (v &&& m)

/-- A register of a strand written. -/
def Strand.setCsr (x : Strand) (n : Nat) (m v : Word) : Strand :=
  match n with
  | 0x151 => { x with tres := merge m x.tres v }
  | 0x160 => { x with stgcfg := merge m x.stgcfg v }
  | 0x161 => { x with stghnd := merge m x.stghnd v }
  | 0x162 => { x with stgser := merge m x.stgser v }
  | 0x163 => { x with splcur := merge m x.splcur v }
  | 0x164 => { x with splstp := merge m x.splstp v }
  | 0x1A5 => { x with dbgctl := merge m x.dbgctl v }
  | _ => x

/-- LDOOR ignores a value more than the ring's size past LHEAD (R342). -/
def Ctx.doorOk (c : Ctx) (v : Word) : Bool :=
  decide ((v.setWidth 32 - c.lhead.setWidth 32 : BitVec 32).toNat ≤ 2 ^ ringSize c.lring)

/-- RECCTL with rec and play both set sets neither (R334). -/
def recctlOf (v : Word) : Word := if bit v.toNat 0 ∧ bit v.toNat 1 then v &&& ~~~3#64 else v

/-- A register of a context written. -/
def Ctx.setCsr (c : Ctx) (n : Nat) (m v : Word) : Ctx :=
  match n with
  | 0x148 => { c with ksegb := merge m c.ksegb v }
  | 0x149 => { c with ksegl := merge m c.ksegl (BitVec.ofNat 64 (min (v.toNat % 2 ^ 17) 65536)) }
  | 0x150 => { c with thnd := merge m c.thnd v }
  | 0x170 => { c with clbnd := merge m c.clbnd v }
  | 0x180 => { c with wfrb := merge m c.wfrb v }
  | 0x181 => { c with wfmode := merge m c.wfmode v }
  | 0x186 => { c with lqpri := merge m c.lqpri v }
  | 0x190 => { c with ptroot := merge m c.ptroot v }
  | 0x191 => { c with fltring := merge m c.fltring v }
  | 0x193 => { c with pmode := merge m c.pmode v }
  | 0x194 => { c with psave := merge m c.psave v }
  | 0x195 => { c with rgnq := merge m c.rgnq v }
  | 0x196 => { c with ctxpriv := merge m c.ctxpriv v }
  | 0x1A0 => { c with trcctl := merge m c.trcctl v }
  | 0x1A1 => { c with trcbuf := merge m c.trcbuf v }
  | 0x1A3 => { c with trchead := merge m c.trchead v }
  | 0x1A6 => { c with recctl := recctlOf (merge m c.recctl v) }
  | 0x1A7 => { c with recbuf := merge m c.recbuf v }
  | 0x1A9 => { c with rechead := merge m c.rechead v }
  | 0x1B0 => { c with lring := merge m c.lring v }
  | 0x1B1 => if c.doorOk v then { c with ldoor := merge m c.ldoor v } else c
  | 0x1B3 => { c with hamode := merge m c.hamode v }
  | _ => c

/-- A register of a die written. -/
def Die.setCsr (y : Die) (n : Nat) (m v : Word) : Die :=
  match n with
  | 0x140 => { y with mrdloc := merge m y.mrdloc v }
  | 0x141 => { y with mrdrem := merge m y.mrdrem v }
  | 0x142 => { y with mstcnt := merge m y.mstcnt v }
  | 0x182 => { y with wfring := merge m y.wfring v }
  | _ => y

/-- CSRRD csr (R321). -/
def execCsrrd (p : PMode) (c : BitVec 10) (a : Tgt) (s : State) : Host.Outcome State Fault Refusal :=
  .next (s.tries p need0 true a .none fun s => s.issuer fun x y => Try.status s (s.csr x y c.toNat).toNat)

/-- The constant stores of a context on a die (R59). -/
def Die.kpair (y : Die) (c : Nat) : KPair :=
  (look c y.ksegs).getD { s0 := { bytes := [], len := 0 }, s1 := { bytes := [], len := 0 }, cur := 0, wanted := false }

/-- A copy of the constant segment is under way on some die. -/
def State.kcopying (s : State) (c : Nat) : Bool := (List.range 4).any fun d => ((s.die d).kpair c).wanted

/-- CSRWR csr (R6, R59, R321): a write of KSEGB or KSEGL is in flight until every die has copied the segment. -/
def tryCsrwr (n : Nat) (s : State) : Try :=
  s.issuer fun x c =>
    match wordOperand s.fire.left with
    | .error c => .fault s c c
    | .ok w =>
      let v := BitVec.ofNat 64 w
      let old := (s.csr x c n).toNat
      let m := csrwrMask n
      if (n = 0x148 ∨ n = 0x149) ∧ s.kcopying x.ctx then .stay s
      else
        let s := ((s.modStrand s.fire.k fun x => x.setCsr n m v).modCtx x.ctx fun c => c.setCsr n m v).modDie x.die fun y =>
          y.setCsr n m v
        if n = 0x148 ∨ n = 0x149 then
          .wait { s with dies := s.dies.map fun (y : Die) =>
            { y with ksegs := put x.ctx { y.kpair x.ctx with wanted := true } y.ksegs } } .ksegment none [old]
        else Try.status s old

/-- CSRWR csr (R321). -/
def execCsrwr (p : PMode) (c : BitVec 10) (a : Tgt) (s : State) : Host.Outcome State Fault Refusal :=
  .next (s.tries p needL true a .none (tryCsrwr c.toNat))

/-- A running or suspended block of a context on a die reads constant store i (R59). -/
def State.kuses (s : State) (d c i : Nat) : Bool :=
  s.strands.any fun e => e.2.ctx == c && e.2.die % 4 == d % 4 && e.2.save.free &&
    ([e.2.run, e.2.susp].filterMap id).any fun r => r.kstore == i

/-- Waiting CSRWRs of KSEGB or KSEGL of a context. -/
def State.kwaiters (s : State) (c : Nat) : List Pend :=
  (s.pendsOf fun w => w == .ksegment).filter fun p => (s.strand? p.fire.k).any fun x => x.ctx == c

/-- CONSTANT_SEGMENT_COPY (R59): die d copies the segment into the store that no running block reads; with the last
die's copy the new stores become current. A fault makes every die abandon the copy. A segment that passes 2^56, of which the rule
says nothing, goes on at address 0 (log 36). -/
def execConstantSegmentCopy (d c : Nat) (s : State) : Host.Outcome State Fault Refusal :=
  .next (match s.ctx? c with
    | none => s
    | some x =>
      let kp := (s.die d).kpair c
      if ¬ kp.wanted ∨ s.kuses d c (1 - kp.cur) then s
      else
        let va := bits x.ksegb.toNat 55 4 * 16
        let len := bits x.ksegl.toNat 16 0
        let ps := s.kwaiters c
        let st := ps.foldl (fun st p => ((s.strand? p.fire.k).map fun y => st.join y.stamp).getD st) Stamp.zero
        let all := fun (s : State) (f : KPair → KPair) =>
          { s with dies := s.dies.map fun (y : Die) => { y with ksegs := put c (f (y.kpair c)) y.ksegs } }
        let k := ((ps.map fun p => p.fire.k).head?).getD 0
        match s.dread c d ⟨k % 256, .seq k⟩ st .rd true va len with
        | .wait u => u
        | .fail u cause e =>
          let e' := u.faultVa c d va len cause e
          ps.foldl (fun u p => match u.held? p.fire.k p.fire.hand p.fire.copy p.fire.slot p.fire.iter with
            | some (_, _, i, _) => u.failHeld p (tgtA i) .none cause e'
            | none => u) (all u fun q => { q with wanted := false })
        | .ok (bs, _, u) =>
          let new : KStore := { bytes := bs, len := len }
          let u := u.modDie d fun y => { y with ksegs := put c (if kp.cur = 0 then { kp with s1 := new, wanted := false }
            else { kp with s0 := new, wanted := false }) y.ksegs }
          if u.kcopying c then u
          else
            let u := all u fun q => { q with cur := 1 - q.cur }
            ps.foldl (fun u p => u.answer (p.prog.headD 0) p) u)

/-- In recovery only Beryl runs (R346). -/
def State.barred (s : State) (who : Writer) : Bool := s.recovery && who != .beryl

/-- REGISTER_WRITE (R6): Beryl, Jasper or the host writes the bits that are its own. -/
def execRegisterWrite (who : Writer) (csr c d : Nat) (v : BitVec 64) (s : State) : Host.Outcome State Fault Refusal :=
  let m := writerMask who csr
  .next (if m = 0 ∨ s.barred who then s else (s.modCtx c fun x => x.setCsr csr m v).modDie d fun y => y.setCsr csr m v)

/-- A die's clock under a cap: 500 to 1,500 MHz in steps of 100; the step is stated by no rule (R349; log 8). -/
def cappedMhz (v : Word) : Nat := 500 + 100 * (v.toNat % 11)

/-- PWRCAP (R349), written by Jasper, who does not run in recovery (R346). -/
def execPwrcap (w : BitVec 16) (s : State) : Host.Outcome State Fault Refusal :=
  if s.barred .jasper then .next s else
  let slow := fun (s : State) (d : Nat) => s.modDie d fun y => { y with mhz := cappedMhz (Config.freeValue (s.free + d)) }
  let t := [0, 1, 2, 3].foldl slow s
  .next { t with pwrcap := w.setWidth 64, free := s.free + 4 }

/-- RETMAP (R352): Beryl sets a tile's bit; the predictive records that it clears besides are an act of their own
(R351). -/
def execRetmap (d tile : Nat) (s : State) : Host.Outcome State Fault Refusal :=
  let set := fun (m : Vector Word 4) =>
    m.set (tile / 64 % 4) (m[tile / 64 % 4]'(Nat.mod_lt _ (by decide)) ||| BitVec.ofNat 64 (2 ^ (tile % 64)))
      (Nat.mod_lt _ (by decide))
  .next (s.modDie d fun y => { y with retmap := set y.retmap })

end Sys2Proof.Machine
end

