-- ==== Sys2Proof/Machine/Debug.lean ====
section
/-! DEFINITION. Machine/Debug.lean: group 0xF (R325, R326, R330, R331, R338), debug control and halts (R327, R328) and
the divergence of a replay (R337). -/

namespace Sys2Proof.Machine

open Sys2Proof

/-- BRKR (R330, R338): comparator k. -/
def tryBrkr (m : BrkrK) (k : Nat) (s : State) : Try :=
  let set := fun (s : State) (f : List (Nat × Bool × Nat) → List (Nat × Bool × Nat)) =>
    Try.complete (s.modStrand s.fire.k fun x => { x with brkr := f x.brkr })
  match m, s.fire.left with
  | .off, _ => set s (del k)
  | .addr, some t =>
    if t.tag = .i64 ∨ t.tag = .idx then set s (put k (false, t.word.toNat)) else .fault s 0x03 0x03
  | .rsid, o => match intOperand o with
    | .ok (v, _) => set s (put k (true, v % 2 ^ 8))
    | .error c => .fault s c c
  | .addr, none => .stay s

/-- BRKR, BRKR.R and BRKR.OFF (R338). -/
def execBrkr (p : PMode) (x : BrkrK) (k : BitVec 2) (a : Tgt) (s : State) : Host.Outcome State Fault Refusal :=
  .next (s.tries p needL true a .none (tryBrkr x k.toNat))

/-- TRCMK tag (R332, R338). -/
def tryTrcmk (tag : Nat) (s : State) : Try :=
  let mark := fun (v : Nat) =>
    Try.complete (s.trace s.fire.k 3 (((s.run? s.fire.k).map fun r => r.blk.addr).getD 0) tag v)
  match s.fire.left with
  | none => mark 0
  | some t => match wordOperand (some t) with
    | .ok v => mark v
    | .error c => .fault s c c

/-- TRCMK (R338). -/
def execTrcmk (p : PMode) (t : BitVec 8) (a : Tgt) (s : State) : Host.Outcome State Fault Refusal :=
  .next (s.tries p need0 true a .none (tryTrcmk t.toNat))

/-- The account of a node slot (R326); all zero before its first configuration. -/
def Die.account (y : Die) (tile slot : Nat) : Acct :=
  (look (tile * 8 + slot) y.acct).getD { cls := Vector.replicate 10 0, len := 0, blk := 0, rsid := 0 }

/-- A counter of an account by select (R326, R338). -/
def Acct.select (c : Acct) (sel : Nat) : Nat :=
  if h : sel < 10 then c.cls[sel] else if sel = 10 then c.len else if sel = 11 then c.blk else c.rsid

/-- CYCRD sel (R338). -/
def tryCycrd (sel : Nat) (s : State) : Try :=
  match wordOperand s.fire.left, s.strand? s.fire.k with
  | .error c, _ => .fault s c c
  | .ok _, none => .stay s
  | .ok v, some x =>
    let r := bits v 7 4
    let c := bits v 3 0
    if 2 ^ 11 ≤ v ∨ x.region.rows ≤ r ∨ x.region.cols ≤ c then Try.status s (2 ^ 64 - 1)
    else Try.status s (((s.die x.die).account (16 * (x.region.r + r) + x.region.c + c) (bits v 10 8)).select sel)

/-- CYCRD (R338). -/
def execCycrd (p : PMode) (z : BitVec 4) (a : Tgt) (s : State) : Host.Outcome State Fault Refusal :=
  .next (s.tries p needL true a .none (tryCycrd z.toNat))

/-- VCHK w (R338). -/
def tryVchk (w : Nat) (s : State) : Try :=
  match wordOperand s.fire.left with
  | .error c => .fault s c c
  | .ok n =>
    s.withWin w fun _ v =>
      let e := n / v.rpe
      if v.cap ≤ e then Try.win s 0x01 w
      else if v.extent ≤ e then Try.status s 0
      else Try.status s ((v.row e (n % v.rpe)).valid.toNat % 2 ^ (v.rowBytes / 4) + 2 ^ 32)

/-- VCHK.A (R338). -/
def tryVchkA (s : State) : Try :=
  match wordOperand s.fire.left, s.strand? s.fire.k with
  | .error c, _ => .fault s c c
  | .ok _, none => .stay s
  | .ok v, some x =>
    let r := bits v 7 4
    let c := bits v 3 0
    let tile := 16 * (x.region.r + r) + x.region.c + c
    let f := v / 2 ^ 8
    if x.region.rows ≤ r ∨ x.region.cols ≤ c ∨ isMTile tile ∨ 4095 < f then Try.status s (2 ^ 64 - 1)
    else Try.status s (if ((s.die x.die).acc tile f).tag = 15 then 0 else 1)

/-- VCHK and VCHK.A (R338). -/
def execVchk (p : PMode) (v : Bool) (w : BitVec 10) (a : Tgt) (s : State) : Host.Outcome State Fault Refusal :=
  .next (s.tries p needL true a .none (if v then tryVchkA else tryVchk w.toNat))

/-! ### Halts -/

/-- DBGCTL (R327, R328): Jasper's bits; halt written as 0 resumes a halted strand and its entries are as registered
again. -/
def execDbgctl (k : Nat) (v : BitVec 64) (s : State) : Host.Outcome State Fault Refusal :=
  .next (match s.strand? k with
    | none => s
    | some x =>
      let w := merge (maskBits 2 0) x.dbgctl v
      if bit v.toNat 0 then s.modStrand k fun x => { x with dbgctl := w, asked := if x.haltAsked then x.asked else 0 }
      else (s.modStrand k fun x => { x with dbgctl := w &&& ~~~16#64 }).refreshAll)

/-- STRAND_HALT (R328): a request takes effect at the quiescent point of a save; at an edge it does in BLOCK_EDGE. -/
def execStrandHalt (k : Nat) (s : State) : Host.Outcome State Fault Refusal :=
  .next (match s.strand? k with
    | none => s
    | some x =>
      if x.haltAsked ∧ x.save = .running ∧ x.quiescent ∧ (x.phase ≠ .run ∨ saveDelay ≤ x.asked) then s.halt k else s)

/-- Kind of a post that tells Jasper of a divergence (R337). -/
def postDivergeKind : Nat := 7

/-- Kinds of log record that an instruction's outcome makes (R335). -/
def recordKinds (i : Instr) : List Nat :=
  match i with
  | .ldg _ _ _ _ | .acq _ _ _ _ | .mona _ _ _ => [1]
  | .ldgv _ _ _ _ => [2]
  | .amog _ _ _ _ _ _ => [3]
  | .mwait _ _ => [4]
  | .lkacq _ t _ => if t then [5, 7] else [5]
  | .qpop _ t _ _ => if t then [6, 7] else [6]
  | .qpush _ t _ => if t then [7] else []
  | .tpop _ _ | .tidle _ => [8]
  | i => if i.fields.op / 16 = 0xB then [9] else []

/-- The nodes of a block with their instructions. -/
def Run.slots (r : Run) : List (Node × Instr) := r.nodes.filterMap fun n => (r.blk.instr? n.slot).map fun i => (n, i)

/-- A TPOP that waits at the edge for its take. -/
def Strand.popsAtEdge (x : Strand) : Bool :=
  x.phase == .edge && x.crossed && x.run.any fun r => match r.taken with
    | some (_, _, .tpop _) => true
    | _ => false

/-- Kinds of outcome that strand k may still come to in its block as it stands: of operations in flight and of nodes that
stand ready (R337). -/
def Strand.mayLog (x : Strand) (k : Nat) : List Nat :=
  (([x.run, x.susp].filterMap id).flatMap fun r => r.slots.flatMap fun e =>
    if e.1.pend.isEmpty && r.ready k x.region e.1 == .no then [] else recordKinds e.2)
  ++ if x.popsAtEdge then [8] else []

/-- Kinds of the outcomes of strand k's operations at the heads of the paths, which only their records can hold back (R335,
R337): an AMOG, and the tests of LKACQ.T, QPUSH.T and QPOP.T. -/
def State.headKinds (s : State) (k : Nat) : List Nat :=
  (List.range 4).flatMap fun d => (List.range 4).flatMap fun h => match (s.die d).path h with
    | [] => []
    | m :: _ => if m.req.strand != k || !s.covered d h m then [] else match m.op with
      | .amog _ _ _ _ _ => [3]
      | .lockAcq _ true => [5, 7]
      | .push _ _ true => [7]
      | .pop _ true => [6, 7]
      | _ => []

/-- Kinds of the outcomes that wait in replay for nothing but the strand's record, or for what the record names to become
possible (R337): a whole Geode command among them, which has not begun, once its turn has come (R280). -/
def State.dueKinds (s : State) (k : Nat) (x : Strand) : List Nat :=
  s.headKinds k
  ++ (([x.run, x.susp].filterMap id).flatMap fun r => r.slots.flatMap fun e =>
    let waits := e.1.pend.any fun p => match p.why with
      | .log | .logged _ | .idle | .geode _ _ _ _ _ => true
      | _ => false
    let held := match e.2 with
      | .mwait _ _ => e.1.pend.isEmpty && r.ready k x.region e.1 != .no
      | i => isGeode i && e.1.pend.isEmpty && match r.ready k x.region e.1 with
        | .fire f _ => r.geodeTurn f && r.streamTurn x.region f
        | _ => false
    if waits || held then recordKinds e.2 else [])
  ++ if x.popsAtEdge then [8] else []

/-- Cycles after which an outcome that has not become possible is a divergence (R337). -/
def overdueLimit : Nat := 2 ^ 32

/-- The strand has met an uncorrectable error: its trap is pending, or its handler runs (R337). -/
def Strand.metError (x : Strand) : Bool :=
  ((x.owed ++ (x.run.elim [] fun r => r.traps)).any fun t => t.cause == 0x10)
    || (x.hmode && bits x.tstat.toNat 15 8 == 0x10)

/-- The replay of strand k diverges for a reason of R337: 1, an outcome is due, the next record is of another kind, and
nothing in flight makes that kind (log 31); 2, an outcome is due and the log is exhausted; 3, it has not become possible for
2^32 cycles; 4, an uncorrectable error. -/
def State.diverges (s : State) (k reason : Nat) : Bool :=
  match s.strand? k with
  | none => false
  | some x =>
    if ¬ (s.ctx? x.ctx).any Ctx.playing ∨ bit x.dbgctl.toNat 0 then false
    else
      let due := s.dueKinds k x
      match reason with
      | 1 => !due.isEmpty && (s.nextRecord k).any fun r => !(x.mayLog k).contains r.1
      | 2 => !due.isEmpty && (s.nextRecord k).isNone
      | 3 => !due.isEmpty && decide (overdueLimit ≤ x.overdue)
      | 4 => x.metError
      | _ => false

/-- REPLAY_DIVERGENCE (R335, R337): where the strand's replay diverges, a record of kind 10, and every strand of the context is
asked to halt. -/
def execReplayDivergence (c k reason : Nat) (s : State) : Host.Outcome State Fault Refusal :=
  .next (match s.ctx? c, s.strand? k with
    | some x, some y =>
      if y.ctx ≠ c ∨ ¬ s.diverges k reason then s
      else
        let s := s.pokeUnits c y.die x x.rectail.toNat
          (recordBytes k 10 y.seqc.toNat (leBytes 8 (reason + y.seqc.toNat * 2 ^ 8)))
        let s := s.modCtx c fun x => ({ x with rectail := x.rectail + 1 } : Ctx).post postDivergeKind
          (strandId k + reason * 2 ^ 16)
        let stop := fun (z : Strand) =>
          if z.ctx = c then { z with dbgctl := z.dbgctl ||| 1, asked := if z.awaitsPoint then z.asked else 0 } else z
        { s with strands := s.strands.map fun e => (e.1, stop e.2) }
    | _, _ => s)

end Sys2Proof.Machine
end

