-- ==== Sys2Proof/Machine/Fleet.lean ====
section
/-! DEFINITION. Machine/Fleet.lean: the fleet instructions (R346, R350, R351, R354, R355), LINK_RETRY, and what the firmware
processors and other packages do to this one. -/

namespace Sys2Proof.Machine

open Sys2Proof

/-! ### INJERR -/

/-- A location of an array is in range (R354). -/
def injRange (a v : Nat) : Bool :=
  let tile := bits v 9 2
  match a with
  | 0 => v / 2 ^ 10 < 2 ^ 21 && v / 2 ^ 10 % 4 == 0 && isMTile tile
  | 1 => v / 2 ^ 10 < 2 ^ 18 && v / 2 ^ 10 % 4 == 0 && !isMTile tile
  | 2 => v / 2 ^ 10 < 4096 && !isMTile tile
  | 3 => v < installedDram && v % 64 == 0
  | 4 => v < 2 ^ 4 && v % 4 != v / 4
  | 5 => v < 24
  | _ => false

/-- A location of an array is one of the context's own (R354): links lie outside every context's regions and frames. -/
def State.injOwn (s : State) (x : Strand) (c : Ctx) (a v : Nat) : Bool :=
  if a < 3 then (s.die (bits v 1 0)).regions.any fun g => g.ctx == x.ctx && g.holds (bits v 9 2)
  else if a = 3 then c.allots (v / 2 ^ 14) else a != 4 && a != 5

/-- The die on which an armed error of an array is kept: bonded DRAM's on die 0. -/
def injDie (a v : Nat) : Nat := if a < 3 ∨ a = 4 then bits v 1 0 else 0

/-- INJERR (R354). -/
def tryInjerr (u : Bool) (a : Nat) (s : State) : Try :=
  s.issuer fun x c =>
    match wordOperand s.fire.left with
    | .error c => .fault s c c
    | .ok v =>
      if ¬ s.injOwn x c a v ∧ ¬ c.super then Try.status s 2
      else if (3 < a ∧ u) ∨ ¬ injRange a v then Try.status s 3
      else Try.status (s.modDie (injDie a v) fun y => { y with armed := y.armed ++ [(a, v, u)] }) 0

/-- INJERR and INJERR.U (R354). -/
def execInjerr (p : PMode) (u : Bool) (k : BitVec 3) (a : Tgt) (s : State) : Host.Outcome State Fault Refusal :=
  .next (s.tries p needL true a .none (tryInjerr u k.toNat))

/-- Key of a link's predictive record on its die: a peer die, or 8 + a Colnis port. -/
def linkKey (port : Bool) (n : Nat) : Nat := if port then 8 + n else n % 4

/-- The margin of a link's lowest lane, of 16 bits (R351): measured, at an event in a cycle or before any (log 8). -/
def linkMargin (d key cyc : Nat) : BitVec 64 := (Config.measured (8 * (2 ^ 64 * (32 * (d % 4) + key) + cyc) + 3)).setWidth 64 &&& 0xFFFF#64

/-- LINK_RETRY (R351, R354): a flit of a die link or Colnis port is retried and the count advances; an error armed on the
link is spent. -/
def execLinkRetry (d : Nat) (port : Bool) (n : Nat) (s : State) : Host.Outcome State Fault Refusal :=
  let at_ := if port then 0 else d
  .next (s.modDie at_ fun y =>
    let hit := y.armed.find? fun e => if port then e.1 == 5 && e.2.1 == n else e.1 == 4 && e.2.1 / 4 == n % 4
    { y with armed := match hit with
               | some e => y.armed.erase e
               | none => y.armed
             links := bumpPred (linkKey port n) (linkMargin at_ (linkKey port n) y.cyc.toNat) y.cyc y.links })

/-! ### SELFT and SCAN -/

/-- A test's reads meet the errors armed on its tile, which are logged as found by it (R350, R354): whether one was uncorrectable. -/
def State.senseTest (s : State) (d tile : Nat) : Bool × State :=
  ((s.die d).armed.filter fun e => decide (e.1 < 3) && e.2.1 % 2 ^ 10 == armLoc d tile 0).foldl (fun (a : Bool × State) e =>
    let (u, bad) := a.2.sense d e.1 (fun l => l == e.2.1) d (e.2.1 / 2 ^ 10) (strandKey d tile) 0xFF true
    (a.1 || bad, u)) (false, s)

/-- The tests of a tile run in one step (log 21): contents zero, valid bits clear; a failure is logged with flags bit 2.
Which test fails besides, and where, is free (log 8). -/
def State.testTile (s : State) (d tile : Nat) : Try :=
  let n := s.free
  let (bad, s) := { s with free := n + 1 }.senseTest d tile
  let s := s.modDie d fun y => { y with
    accs := y.accs.filter fun e => e.1 / 4096 != tile
    opwins := y.opwins.filter fun e => e.1 != tile }
  if bad ∨ Config.tileTestFails n (256 * (d % 4) + tile) then
    let (v, s) := s.fresh
    Try.status (s.modDie d fun y => y.logError d (if isMTile tile then 0 else 1) v.toNat 4 (strandKey d tile) 0xFF) 5
  else Try.status s 0

/-- What SELFT and SCAN ask of their tile (R354, R356): a status, or the test `go`. -/
def State.testing (s : State) (v : Nat) (go : Nat → Nat → Try) : Try :=
  s.issuer fun _ c =>
    let d := bits v 1 0
    let tile := bits v 9 2
    if ¬ c.super then Try.status s 2
    else if (s.die d).regions.any fun g => g.holds tile then Try.status s 1
    else go d tile

/-- SELFT (R354). -/
def execSelft (p : PMode) (a : Tgt) (s : State) : Host.Outcome State Fault Refusal :=
  .next (s.tries p needL true a .none fun s =>
    match wordOperand s.fire.left with
    | .error c => .fault s c c
    | .ok v => s.testing v fun d tile => s.testTile d tile)

/-- Bytes of a scan image that Beryl's check reads: the page it begins on; no rule gives its length (log 21). -/
def scanBytes : Nat := 4096

/-- SCAN (R346, R354). -/
def tryScan (s : State) : Try :=
  match wordOperand s.fire.left, spliceAddr 4096 s.fire.right, s.strand? s.fire.k with
  | .error c, _, _ => .fault s c c
  | _, .error (c, e), _ => .fault s c e
  | .ok _, .ok _, none => .stay s
  | .ok v, .ok a, some x =>
    s.testing v fun d tile =>
      match s.dread x.ctx x.die ⟨x.lead, s.fire.req⟩ x.stamp .rd true a scanBytes with
      | .wait u => .stay u
      | .fail u c va => .fault u c va
      | .ok (bs, st, u) =>
        let u := u.modStrand s.fire.k fun x => { x with stamp := st }
        if Config.imageAccepted bs then u.testTile d tile else Try.status u 6

/-- SCAN (R354). -/
def execScan (p : PMode) (a : Tgt) (s : State) : Host.Outcome State Fault Refusal :=
  .next (s.member p needLR true a .none false none tryScan)

/-! ### ELOGRD -/

/-- A predictive record as read (R351): index, log, count, its words. -/
def predBytes (log : Nat) (p : Pred) : List Byte :=
  leBytes 2 p.index ++ leBytes 1 log ++ leBytes 1 0 ++ leBytes 4 p.count ++ leBytes 8 p.extra.toNat ++ leBytes 8 p.cyc.toNat
    ++ leBytes 8 0

/-- A link's record; with no event its count and time are 0 (R351). -/
def Die.linkPred (y : Die) (d : Nat) (port : Bool) (n : Nat) : Pred :=
  match look (linkKey port n) y.links with
  | some p => { p with index := n }
  | none => { index := n, count := 0, extra := linkMargin d (linkKey port n) 0, cyc := 0 }

/-- The records of predictive log l of die d (R351). -/
def Die.preds (y : Die) (d l : Nat) : List Pred :=
  match l with
  | 0 => ((List.range 4).filter fun i => i != d % 4).map (y.linkPred d false)
  | 1 => if d % 4 = 0 then (List.range 24).map (y.linkPred d true) else []
  | 2 => (List.range 384).map fun i => match look i y.banks with
    | some p => p
    | none => { index := i, count := 0, extra := BitVec.ofNat 64 i, cyc := 0 }
  | _ => ((sortBy (fun (a b : Nat × Pred) => decide (b.2.count < a.2.count)) y.rowsPred).take 64).zipIdx.map fun e =>
    { e.1.2 with index := e.2 }

/-- What ELOGRD copies: the bytes of each unit, and where the next read begins (R354). -/
def State.elogUnits (s : State) (x : Strand) (c : Ctx) (pred : Bool) (l n first d : Nat) : List (List Byte) × Nat :=
  let y := s.die d
  if pred then
    let ps := (y.preds d l).filter fun p => decide (first ≤ p.index)
    let got := ps.take n
    (got.map (predBytes l), (got.getLast?.map fun p => p.index + 1).getD first)
  else
    let g := y.logs[l % 4]'(Nat.mod_lt _ (by decide))
    let es := g.ents.filter fun e => decide (first ≤ e.seq.toNat) && (c.super || e.ctx.toNat == x.ctx)
    let got := es.take n
    (got.map LogEnt.bytes,
     if n < es.length then (got.getLast?.map fun e => e.seq.toNat + 1).getD first else max first g.next)

/-- ELOGRD (R350, R351, R354). -/
def tryElogrd (pred : Bool) (n l : Nat) (s : State) : Try :=
  s.issuer fun x c =>
    match spliceAddr 64 s.fire.left, wordOperand s.fire.right with
    | .error (c, e), _ => .fault s c e
    | _, .error c => .fault s c c
    | .ok a, .ok v =>
      let (us, next) := s.elogUnits x c pred l (n + 1) (v % 2 ^ 32) (bits v 33 32)
      let word := us.length % 2 ^ 16 + next % 2 ^ 32 * 2 ^ 16
      if us.isEmpty then Try.status s word
      else match s.dwrite x.ctx x.die ⟨x.lead, s.fire.req⟩ x.stamp s.fire.req true a us.flatten with
        | .wait u => .stay u
        | .fail u c va => .fault u c va
        | .ok (m, st, u) => .wait (u.modStrand s.fire.k fun x => { x with stamp := st }) .memory none [m, word]

/-- ELOGRD and ELOGRD.P (R354). -/
def execElogrd (p : PMode) (e : Bool) (n : BitVec 6) (l : BitVec 3) (a : Tgt) (s : State) :
    Host.Outcome State Fault Refusal :=
  .next (s.member p needLR true a .none true none (tryElogrd e n.toNat l.toNat))

/-! ### ATTEST -/

/-- Bytes 0 to 415 of an attestation report (R355). -/
def State.reportBody (s : State) (nonce : List Byte) : List Byte :=
  let dies := (List.range 4).map s.die
  leBytes 4 0x47525054 ++ leBytes 2 1 ++ leBytes 2 3789 ++ nonce
    ++ ([0, 1, 2].flatMap fun i => leBytes 48 (Config.firmwareDigest s.image i).toNat)
    ++ leBytes 48 (Config.sha384 (dies.flatMap fun y => y.logs.toList.flatMap fun g => leBytes 48 g.digest.toNat)).toNat
    ++ (dies.flatMap fun y => y.retmap.toList.flatMap fun w => leBytes 8 w.toNat)
    ++ leBytes 8 Config.packageSerial.toNat ++ leBytes 8 Config.securityVersion.toNat ++ leBytes 8 0

/-- The whole report (R355). -/
def State.report (s : State) (nonce : List Byte) : List Byte :=
  let body := s.reportBody nonce
  body ++ ((List.range 3373).map fun i => Config.attestSignature body i) ++ leBytes 307 0

/-- ATTEST (R354, R355). -/
def tryAttest (s : State) : Try :=
  match spliceAddr 4096 s.fire.left, spliceAddr 64 s.fire.right, s.strand? s.fire.k with
  | .error (c, e), _, _ => .fault s c e
  | _, .error (c, e), _ => .fault s c e
  | .ok _, .ok _, none => .stay s
  | .ok a, .ok na, some x =>
    match s.dread x.ctx x.die ⟨x.lead, s.fire.req⟩ x.stamp .rd false na 64 with
    | .wait u => .stay u
    | .fail u c va => .fault u c va
    | .ok (nonce, st, u) =>
      match u.dwrite x.ctx x.die ⟨x.lead, s.fire.req⟩ st s.fire.req true a (u.report nonce) with
      | .wait u => .stay u
      | .fail u c va => .fault u c va
      | .ok (n, st, u) =>
        let u := u.countRange x.ctx x.die .rd na 64
        .wait (u.modStrand s.fire.k fun x => { x with stamp := st }) .memory none [n, 0]

/-- ATTEST (R354). -/
def execAttest (p : PMode) (a : Tgt) (s : State) : Host.Outcome State Fault Refusal :=
  .next (s.member p needLR true a .none true none tryAttest)

/-! ### What comes from outside -/

/-- A granule of the aperture may be mapped onto a target (R339, R344): pooled memory, or another package of the domain. -/
def State.mapsTo (s : State) (t : Target) : Bool :=
  match t with
  | .pooled _ => true
  | .dram p _ => p != s.pkg && match look p s.jobmap, look s.pkg s.jobmap with
    | some j, some own => j.domain == own.domain
    | _, _ => false

/-- Granules that the job map, as it stands, admits no longer are unmapped (R344). -/
def State.remap (s : State) : State := { s with aperture := s.aperture.filter fun e => s.mapsTo e.2 }

/-- A predictive record is cleared (R351): of a peer die's link, a Colnis port, a bank, or the row at a place of the log. -/
def Die.clearPred (y : Die) (d l i : Nat) : Die :=
  match l with
  | 0 => { y with links := del (linkKey false i) y.links }
  | 1 => { y with links := del (linkKey true i) y.links }
  | 2 => { y with banks := del i y.banks }
  | _ => match (y.preds d 3)[i]? with
    | some p => { y with rowsPred := y.rowsPred.filter fun e => e.2.extra != p.extra }
    | none => y

/-- An act from outside. Jasper maps a granule of the aperture (R339), installs an entry of the job map or learns the package's
own number there (R344), which he does not in recovery (R346); no granule stays mapped onto another domain; a message arrives
that another package's engine has sent to this one (R223); a new image is loaded in recovery, and the next package reset judges
it (R346); Beryl clears a predictive record (R351). -/
def State.outside (s : State) (o : Outside) : State :=
  match o with
  | .granule g t =>
    if s.barred .jasper ∨ g < 2 ^ 14 ∨ 2 ^ 19 ≤ g then s
    else match t with
      | none => { s with aperture := del g s.aperture }
      | some t => if s.mapsTo t then { s with aperture := put g t s.aperture } else s
  | .job p j =>
    if s.barred .jasper ∨ 2 ^ 18 ≤ p then s
    else State.remap { s with jobmap := match j with
      | some j => put p j s.jobmap
      | none => del p s.jobmap }
  | .number p => if s.barred .jasper ∨ 2 ^ 18 ≤ p then s else State.remap { s with pkg := p }
  | .message m => match m with
    | .notice p _ _ _ _ _ _ _ | .data p _ _ _ _ _ _ | .abort p _ _ _ _ _ =>
      if p = s.pkg ∧ ¬ s.recovery then { s with net := s.net ++ [m] } else s
  | .image i => if s.recovery then { s with free := s.free + 1, image := i } else s
  | .repaired d l i => s.modDie d fun y => y.clearPred d l i

end Sys2Proof.Machine
end

