-- ==== Sys2Proof/Machine/Float.lean ====
section
/-! DEFINITION. Machine/Float.lean: the float group 0x3 (R161 to R164). -/

namespace Sys2Proof.Machine

open Sys2Proof

/-- The formats of group 0x3 (R162). -/
def isF3 : Tag → Bool
  | .f32 | .bf16 | .f16 => true
  | _ => false

/-- The integer tag of a float's element width (R163). -/
def widthInt (t : Tag) : Tag := if t.width = 32 then .i32 else .i16

/-- Whether lane i is computed: no vector predicate, or its bit has the node's sense (R161). -/
def gateOn (p : PMode) (pred : Option Tok) (i : Nat) : Bool :=
  match pred with
  | none => true
  | some t => t.scalar || (t.lane 1 i == 1) == (p == .onTrue)

/-- The lanes of a float meaning: `dflt` is what a gated lane holds, given the left lane (R161, R164). The result is
scalar only when every operand is. -/
def floatLanes (p : PMode) (f : Firing) (l : Tok) (others : List Tok) (res : Tag) (dflt : Nat → Nat)
    (g : List Nat → Nat) : Tok :=
  let w := l.tag.width
  let sc := l.scalar && others.all (·.scalar) && f.pred.all (·.scalar)
  let lane := fun i =>
    let x := l.lane w (if l.scalar then 0 else i)
    if gateOn p f.pred i then g (x :: others.map fun t => t.lane t.tag.width (if t.scalar then 0 else i)) else dflt x
  if sc then Tok.scalarOf res (lane 0) l.mark
  else Tok.vectorOf res ((List.range (Tag.lanes l.tag)).map lane) l.mark

/-- A float meaning whose operands share one tag (R162). -/
def floatOp (p : PMode) (ops : Firing → List (Option Tok)) (res : Tag → Tag) (gated : Bool)
    (g : FFmt → List Nat → Nat) (f : Firing) : Except Nat Tok :=
  match f.left with
  | none => .error 0x03
  | some l =>
    let os := ops f
    if isF3 l.tag ∧ os.all (fun o => o.any fun t => t.tag == l.tag) then
      .ok (floatLanes p f l (os.filterMap id) (res l.tag) (fun x => if gated then x else 0) (g (ffmt l.tag)))
    else .error 0x03

/-- One-operand arithmetic. -/
def float1 (p : PMode) (g : FFmt → Nat → Nat) : Firing → Except Nat Tok :=
  floatOp p (fun _ => []) id true fun m l => g m (l.getD 0 0)

/-- Two-operand arithmetic on values. -/
def float2 (p : PMode) (g : FFmt → FVal → FVal → Nat) : Firing → Except Nat Tok :=
  floatOp p (fun f => [f.right]) id true fun m l => g m (m.decode (l.getD 0 0)) (m.decode (l.getD 1 0))

/-- The condition of FCMP (R163). -/
def fcmpHolds (c : FCmpC) (x y : FVal) : Bool :=
  match c with
  | .eq => x.eqv y
  | .lt => !x.isNan && !y.isNan && !x.eqv y && x.le y
  | .le => x.eqv y || x.le y
  | .un => x.isNan || y.isNan

/-- A float meaning of the dispatch. -/
def State.float (s : State) (p : PMode) (need : Firing → Bool) (a b : Tgt) (g : Firing → Except Nat Tok) : State :=
  s.firingWith true p need false a b <|
    match g s.fire with
    | .ok t => s.emit a b t
    | .error c => s.failBoth false a b c c

/-- FADD (R163, R164). -/
def execFadd (p : PMode) (r : RMode) (a b : Tgt) (s : State) : Host.Outcome State Fault Refusal :=
  .next (s.float p needLR a b (float2 p fun m x y => m.encode r (x.add r y)))

/-- FSUB (R163, R164). -/
def execFsub (p : PMode) (r : RMode) (a b : Tgt) (s : State) : Host.Outcome State Fault Refusal :=
  .next (s.float p needLR a b (float2 p fun m x y => m.encode r (x.add r y.neg)))

/-- FMUL (R163, R164). -/
def execFmul (p : PMode) (r : RMode) (a b : Tgt) (s : State) : Host.Outcome State Fault Refusal :=
  .next (s.float p needLR a b (float2 p fun m x y => m.encode r (x.mul y)))

/-- FMA: one rounding (R98, R163). -/
def execFma (p : PMode) (r : RMode) (a b : Tgt) (s : State) : Host.Outcome State Fault Refusal :=
  .next (s.float p needLRT a b (floatOp p (fun f => [f.right, f.third]) id true fun m l =>
    m.encode r (((m.decode (l.getD 0 0)).mul (m.decode (l.getD 1 0))).add r (m.decode (l.getD 2 0)))))

/-- FMIN (R163, R164). -/
def execFmin (p : PMode) (n : Bool) (a b : Tgt) (s : State) : Host.Outcome State Fault Refusal :=
  .next (s.float p needLR a b (float2 p fun m x y => m.encode .rne (x.pick false n y)))

/-- FMAX (R163, R164). -/
def execFmax (p : PMode) (n : Bool) (a b : Tgt) (s : State) : Host.Outcome State Fault Refusal :=
  .next (s.float p needLR a b (float2 p fun m x y => m.encode .rne (x.pick true n y)))

/-- FCMP: PRED bit i is the condition (R93, R163). -/
def execFcmp (p : PMode) (c : FCmpC) (a b : Tgt) (s : State) : Host.Outcome State Fault Refusal :=
  .next (s.float p needLR a b (floatOp p (fun f => [f.right]) (fun _ => .pred) false fun m l =>
    if fcmpHolds c (m.decode (l.getD 0 0)) (m.decode (l.getD 1 0)) then 1 else 0))

/-- FABS (R163, R164). -/
def execFabs (p : PMode) (a b : Tgt) (s : State) : Host.Outcome State Fault Refusal :=
  .next (s.float p needL a b (float1 p fun m x =>
    if (m.decode x).isNan then m.nan else x % 2 ^ (m.ebits + m.mbits)))

/-- FNEG (R163, R164). -/
def execFneg (p : PMode) (a b : Tgt) (s : State) : Host.Outcome State Fault Refusal :=
  .next (s.float p needL a b (float1 p fun m x => m.encode .rne (m.decode x).neg))

/-- FRCP (R163, R164). -/
def execFrcp (p : PMode) (r : RMode) (a b : Tgt) (s : State) : Host.Outcome State Fault Refusal :=
  .next (s.float p needL a b (float1 p fun m x => m.rcp r (m.decode x)))

/-- FSQRT (R163, R164). -/
def execFsqrt (p : PMode) (r : RMode) (a b : Tgt) (s : State) : Host.Outcome State Fault Refusal :=
  .next (s.float p needL a b (float1 p fun m x => m.sqrt r (m.decode x)))

/-- FRSQ: FRCP of FSQRT, two roundings (R162). -/
def execFrsq (p : PMode) (r : RMode) (a b : Tgt) (s : State) : Host.Outcome State Fault Refusal :=
  .next (s.float p needL a b (float1 p fun m x => m.rcp r (m.decode (m.sqrt r (m.decode x)))))

/-- FEXP2 (R163, R164). -/
def execFexp2 (p : PMode) (r : RMode) (a b : Tgt) (s : State) : Host.Outcome State Fault Refusal :=
  .next (s.float p needL a b (float1 p fun m x => m.exp2 r (m.decode x)))

/-- FLOG2 (R163, R164). -/
def execFlog2 (p : PMode) (r : RMode) (a b : Tgt) (s : State) : Host.Outcome State Fault Refusal :=
  .next (s.float p needL a b (float1 p fun m x => m.log2 r (m.decode x)))

/-- FSCALE: the right operand is a scalar of any integer tag or IDX, or a vector of the integer tag of the left's
element width (R163). -/
def fscaleTok (p : PMode) (r : RMode) (f : Firing) : Except Nat Tok :=
  match f.left, f.right with
  | some l, some n =>
    if isF3 l.tag ∧ ((n.scalar ∧ (n.tag.isInt ∨ n.tag = .idx)) ∨ (¬ n.scalar ∧ n.tag = widthInt l.tag)) then
      .ok (floatLanes p f l [n] l.tag id fun v =>
        (ffmt l.tag).scale r ((ffmt l.tag).decode (v.getD 0 0)) (signed n.tag.width (v.getD 1 0)))
    else .error 0x03
  | _, _ => .error 0x03

/-- FSCALE (R163, R164). -/
def execFscale (p : PMode) (r : RMode) (a b : Tgt) (s : State) : Host.Outcome State Fault Refusal :=
  .next (s.float p needLR a b (fscaleTok p r))

/-- FCLASS: exactly one bit of each lane (R163). -/
def execFclass (p : PMode) (a b : Tgt) (s : State) : Host.Outcome State Fault Refusal :=
  .next (s.float p needL a b (floatOp p (fun _ => []) widthInt false fun m l => m.class (l.getD 0 0)))

end Sys2Proof.Machine
end

