-- ==== Sys2Proof/Machine/Integer.lean ====
section
/-! DEFINITION. Machine/Integer.lean: the integer groups 0x1 and 0x2 (R129 to R131). Every meaning reads scalar tokens,
gives a w-bit pattern with the left operand's markers, and touches nothing else (R131). -/

namespace Sys2Proof.Machine

open Sys2Proof

/-- The result token of a one-operand integer meaning with the left operand's tag. -/
def intUn (g : Nat → Nat → Int) (f : Firing) : Except Nat Tok :=
  match f.left, intOperand f.left with
  | some l, .ok (a, w) => .ok (Tok.scalarOf (intTag l.tag) (wrap w (g w a)) l.mark)
  | _, _ => .error 0x03

/-- The result token of a two-operand integer meaning whose operands agree in tag. -/
def intBin (g : Nat → Nat → Nat → Int) (f : Firing) : Except Nat Tok :=
  match f.left, intPair f.left f.right with
  | some l, .ok (a, b, w) => .ok (Tok.scalarOf (intTag l.tag) (wrap w (g w a b)) l.mark)
  | _, _ => .error 0x03

/-- A shift or rotation: the amount is any integer, read unsigned at its own width (R129). -/
def intShift (g : Nat → Nat → Nat → Int) (f : Firing) : Except Nat Tok :=
  match f.left, intOperand f.left, intOperand f.right with
  | some l, .ok (a, w), .ok (u, _) => .ok (Tok.scalarOf (intTag l.tag) (wrap w (g w a u)) l.mark)
  | _, _, _ => .error 0x03

/-- A bitwise meaning: integers of one tag, or two RAW operands over all data and side-band bits (R129). -/
def bitwise (g : Nat → Nat → Nat) (f : Firing) : Except Nat Tok :=
  match f.left, f.right with
  | some l, some r =>
    if l.tag = .raw ∧ r.tag = .raw then
      .ok { tag := .raw, scalar := l.scalar, data := BitVec.ofNat 1024 (g l.data.toNat r.data.toNat),
            side := BitVec.ofNat 64 (g l.side.toNat r.side.toNat), mark := l.mark }
    else intBin (fun _ a b => (g a b : Nat)) f
  | _, _ => .error 0x03

/-- A comparison: a scalar PRED token (R129, R93). -/
def intCmp (g : Nat → Nat → Nat → Bool) (f : Firing) : Except Nat Tok :=
  match f.left, intPair f.left f.right with
  | some l, .ok (a, b, w) => .ok (Tok.pred (g w a b) l.mark)
  | _, _ => .error 0x03

/-- Quotient and remainder of DIVS (R130). -/
def divS (w a b : Nat) : Int × Int :=
  let x := signed w a
  let y := signed w b
  if y = 0 then (if 0 ≤ x then -1 else 1, x)
  else if x = -(2 ^ (w - 1) : Nat) ∧ y = -1 then (x, 0)
  else (x.tdiv y, x.tmod y)

/-- Quotient and remainder of DIVU (R130). -/
def divU (w a b : Nat) : Int × Int :=
  if b = 0 then ((2 ^ w : Nat) - 1, (a : Nat)) else ((a / b : Nat), (a % b : Nat))

/-- Number of leading zero bits of a w-bit pattern, w for 0 (R129). -/
def clz (w a : Nat) : Nat := if a = 0 then w else w - 1 - Nat.log2 a

/-- Number of set bits among the low n (R129). -/
def popcount : Nat → Nat → Nat
  | 0, _ => 0
  | n + 1, a => a % 2 + popcount n (a / 2)

/-- The third operand of SEL is true (R129): none where its tag is not admitted. -/
def truth (o : Option Tok) : Option Bool :=
  match o with
  | none => none
  | some t =>
    if ¬ t.scalar then none
    else if t.tag = .pred then some (t.lane 1 0 == 1)
    else if t.tag.isInt ∨ t.tag = .idx then some (t.lane t.tag.width 0 != 0)
    else none

/-- SEL (R129). -/
def selTok (f : Firing) : Except Nat Tok :=
  match truth f.third with
  | none => .error 0x03
  | some c => intBin (fun _ a b => if c then (a : Nat) else (b : Nat)) f

/-- EXTS and EXTZ: the low n bits extended to 64 (R129). -/
def extTok (sx : Bool) (n : Nat) (f : Firing) : Except Nat Tok :=
  match f.left, intOperand f.left with
  | some l, .ok (a, _) =>
    .ok (Tok.i64 (if sx then wrap 64 (signed n (a % 2 ^ n)) else a % 2 ^ n) l.mark)
  | _, _ => .error 0x03

/-- BFX: n bits of ua from the position, extended to 64 (R129). -/
def bfxTok (sx : Bool) (n : Nat) (f : Firing) : Except Nat Tok :=
  match f.left, intOperand f.left, intOperand f.right with
  | some l, .ok (a, _), .ok (q, _) =>
    let v := if q < 64 then a / 2 ^ q % 2 ^ n else 0
    .ok (Tok.i64 (if sx then wrap 64 (signed n v) else v) l.mark)
  | _, _, _ => .error 0x03

/-- LEA: base + index × 2^k (R129). -/
def leaTok (k : Nat) (f : Firing) : Except Nat Tok :=
  match f.left, intOperand f.left, intOperand f.right with
  | some l, .ok (a, w), .ok (b, v) =>
    if w = 64 then .ok (Tok.i64 (wrap 64 ((a : Nat) + signed v b * (2 ^ k : Nat))) l.mark) else .error 0x03
  | _, _, _ => .error 0x03

/-- IDX: sa as an IDX token with the right operand's markers, or none (R129). -/
def idxTok (f : Firing) : Except Nat Tok :=
  match intOperand f.left with
  | .ok (a, w) =>
    .ok (Tok.scalarOf .idx (wrap 64 (signed w a)) (match f.right with | some r => r.mark | none => 0))
  | .error _ => .error 0x03

/-- LAST: marker bit j of left, any tag (R129). -/
def lastTok (j : Nat) (f : Firing) : Except Nat Tok :=
  match f.left with
  | some l => .ok (Tok.pred (l.marker j) l.mark)
  | none => .error 0x03

/-- The unsigned or two's-complement reading of a pattern (R129). -/
def reading (u : Bool) (w a : Nat) : Int := if u then a else signed w a

/-- Clamping of ADDSAT and SUBSAT (R129). -/
def saturate (u : Bool) (w : Nat) (v : Int) : Int := if u then clampU w v else clampS w v

/-- floor(x × y / 2^w) of the readings that the xop of MULH names (R129). -/
def mulHigh (x : MulhK) (w a b : Nat) : Int :=
  (match x with
   | .ss => signed w a * signed w b
   | .uu => (a : Int) * b
   | .su => signed w a * b) / (2 ^ w : Nat)

/-- ADD: wrap(a + b) (R129). -/
def execAdd (p : PMode) (a b : Tgt) (s : State) :
    Host.Outcome State Fault Refusal :=
  .next (s.compute p needLR false a b (intBin fun _ x y => (x : Int) + y))

/-- SUB: wrap(a - b) (R129). -/
def execSub (p : PMode) (a b : Tgt) (s : State) :
    Host.Outcome State Fault Refusal :=
  .next (s.compute p needLR false a b (intBin fun _ x y => (x : Int) - y))

/-- MUL: wrap(a × b) (R129). -/
def execMul (p : PMode) (a b : Tgt) (s : State) :
    Host.Outcome State Fault Refusal :=
  .next (s.compute p needLR false a b (intBin fun _ x y => (x : Int) * y))

/-- MULH: the upper half of the product of the readings that the xop names (R129). -/
def execMulh (p : PMode) (x : MulhK) (a b : Tgt) (s : State) :
    Host.Outcome State Fault Refusal :=
  .next (s.compute p needLR false a b (intBin (mulHigh x)))

/-- AND (R129). -/
def execAnd (p : PMode) (a b : Tgt) (s : State) :
    Host.Outcome State Fault Refusal :=
  .next (s.compute p needLR false a b (bitwise fun x y => x &&& y))

/-- OR (R129). -/
def execOr (p : PMode) (a b : Tgt) (s : State) :
    Host.Outcome State Fault Refusal :=
  .next (s.compute p needLR false a b (bitwise fun x y => x ||| y))

/-- XOR (R129). -/
def execXor (p : PMode) (a b : Tgt) (s : State) :
    Host.Outcome State Fault Refusal :=
  .next (s.compute p needLR false a b (bitwise fun x y => x ^^^ y))

/-- SHL: 0 where the amount is w or more (R129). -/
def execShl (p : PMode) (a b : Tgt) (s : State) :
    Host.Outcome State Fault Refusal :=
  .next (s.compute p needLR false a b (intShift fun w x u => if w ≤ u then 0 else ((x * 2 ^ u : Nat) : Int)))

/-- SHR: 0 where the amount is w or more (R129). -/
def execShr (p : PMode) (a b : Tgt) (s : State) :
    Host.Outcome State Fault Refusal :=
  .next (s.compute p needLR false a b (intShift fun w x u => if w ≤ u then 0 else ((x / 2 ^ u : Nat) : Int)))

/-- SRA: the amount stops at w - 1 (R129). -/
def execSra (p : PMode) (a b : Tgt) (s : State) :
    Host.Outcome State Fault Refusal :=
  .next (s.compute p needLR false a b (intShift fun w x u => signed w x / (2 ^ min u (w - 1) : Nat)))

/-- MIN, signed or unsigned (R129). -/
def execMin (p : PMode) (u : Bool) (a b : Tgt) (s : State) :
    Host.Outcome State Fault Refusal :=
  .next (s.compute p needLR false a b (intBin fun w x y => if reading u w x ≤ reading u w y then (x : Int) else y))

/-- MAX, signed or unsigned (R129). -/
def execMax (p : PMode) (u : Bool) (a b : Tgt) (s : State) :
    Host.Outcome State Fault Refusal :=
  .next (s.compute p needLR false a b (intBin fun w x y => if reading u w y ≤ reading u w x then (x : Int) else y))

/-- CMPS (R129). -/
def execCmps (p : PMode) (c : CmpC) (a b : Tgt) (s : State) :
    Host.Outcome State Fault Refusal :=
  .next (s.compute p needLR false a b (intCmp fun w x y => cmpHolds c (signed w x) (signed w y)))

/-- CMPU (R129). -/
def execCmpu (p : PMode) (c : CmpC) (a b : Tgt) (s : State) :
    Host.Outcome State Fault Refusal :=
  .next (s.compute p needLR false a b (intCmp fun _ x y => cmpHolds c x y))

/-- SEL (R129). -/
def execSel (p : PMode) (a b : Tgt) (s : State) :
    Host.Outcome State Fault Refusal :=
  .next (s.compute p needLRT false a b selTok)

/-- DIVS: quotient, or remainder with `.REM` (R130). -/
def execDivs (p : PMode) (r : Bool) (a b : Tgt) (s : State) :
    Host.Outcome State Fault Refusal :=
  .next (s.compute p needLR false a b (intBin fun w x y => if r then (divS w x y).2 else (divS w x y).1))

/-- DIVU: quotient, or remainder with `.REM` (R130). -/
def execDivu (p : PMode) (r : Bool) (a b : Tgt) (s : State) :
    Host.Outcome State Fault Refusal :=
  .next (s.compute p needLR false a b (intBin fun w x y => if r then (divU w x y).2 else (divU w x y).1))

/-- ABS: wrap(abs(sa)) (R129). -/
def execAbs (p : PMode) (a b : Tgt) (s : State) :
    Host.Outcome State Fault Refusal :=
  .next (s.compute p needL false a b (intUn fun w x => ((signed w x).natAbs : Int)))

/-- NEG: wrap(-sa) (R129). -/
def execNeg (p : PMode) (a b : Tgt) (s : State) :
    Host.Outcome State Fault Refusal :=
  .next (s.compute p needL false a b (intUn fun w x => -signed w x))

/-- CLZ (R129). -/
def execClz (p : PMode) (a b : Tgt) (s : State) :
    Host.Outcome State Fault Refusal :=
  .next (s.compute p needL false a b (intUn fun w x => ((clz w x : Nat) : Int)))

/-- POPC (R129). -/
def execPopc (p : PMode) (a b : Tgt) (s : State) :
    Host.Outcome State Fault Refusal :=
  .next (s.compute p needL false a b (intUn fun w x => ((popcount w x : Nat) : Int)))

/-- ADDSAT: the exact sum clamped (R129). -/
def execAddsat (p : PMode) (u : Bool) (a b : Tgt) (s : State) :
    Host.Outcome State Fault Refusal :=
  .next (s.compute p needLR false a b (intBin fun w x y => saturate u w (reading u w x + reading u w y)))

/-- SUBSAT: the exact difference clamped (R129). -/
def execSubsat (p : PMode) (u : Bool) (a b : Tgt) (s : State) :
    Host.Outcome State Fault Refusal :=
  .next (s.compute p needLR false a b (intBin fun w x y => saturate u w (reading u w x - reading u w y)))

/-- IDX (R129). -/
def execIdx (p : PMode) (a b : Tgt) (s : State) :
    Host.Outcome State Fault Refusal :=
  .next (s.compute p needL false a b idxTok)

/-- ANDN: a AND NOT b (R129). -/
def execAndn (p : PMode) (a b : Tgt) (s : State) :
    Host.Outcome State Fault Refusal :=
  .next (s.compute p needLR false a b (bitwise fun x y => x - (x &&& y)))

/-- ROTL: rotated left by the amount mod w (R129). -/
def execRotl (p : PMode) (a b : Tgt) (s : State) :
    Host.Outcome State Fault Refusal :=
  .next (s.compute p needLR false a b (intShift fun w x u => ((x * 2 ^ (u % w) + x / 2 ^ (w - u % w) : Nat) : Int)))

/-- ADDI: a signed 10-bit immediate (R129). -/
def execAddi (p : PMode) (i : BitVec 10) (a : Tgt) (s : State) :
    Host.Outcome State Fault Refusal :=
  .next (s.compute p needL false a .none (intUn fun w x => signed w x + i.toInt))

/-- EXTS: n is the field plus 1 (R129). -/
def execExts (p : PMode) (n : BitVec 6) (a : Tgt) (s : State) :
    Host.Outcome State Fault Refusal :=
  .next (s.compute p needL false a .none (extTok true (n.toNat + 1)))

/-- EXTZ: n is the field plus 1 (R129). -/
def execExtz (p : PMode) (n : BitVec 6) (a : Tgt) (s : State) :
    Host.Outcome State Fault Refusal :=
  .next (s.compute p needL false a .none (extTok false (n.toNat + 1)))

/-- LEA (R129). -/
def execLea (p : PMode) (k : BitVec 3) (a : Tgt) (s : State) :
    Host.Outcome State Fault Refusal :=
  .next (s.compute p needLR false a .none (leaTok k.toNat))

/-- LAST (R129). -/
def execLast (p : PMode) (j : BitVec 3) (a : Tgt) (s : State) :
    Host.Outcome State Fault Refusal :=
  .next (s.compute p needL false a .none (lastTok j.toNat))

/-- BFX: n is the field plus 1 (R129). -/
def execBfx (p : PMode) (x : Bool) (n : BitVec 6) (a : Tgt) (s : State) :
    Host.Outcome State Fault Refusal :=
  .next (s.compute p needLR false a .none (bfxTok x (n.toNat + 1)))

end Sys2Proof.Machine
end

