-- ==== Sys2Proof/Machine/Lanes.lean ====
section
/-! DEFINITION. Machine/Lanes.lean: the lane group 0x5 (R107, R108, R170 to R173, R299). -/

namespace Sys2Proof.Machine

open Sys2Proof

/-- Tags of the arithmetic members (R170). -/
def laneArith : Tag → Bool
  | .f32 | .bf16 | .f16 | .i8 | .i16 | .i32 | .i64 => true
  | _ => false

/-- Tags of the data movers (R170). -/
def laneMove (t : Tag) : Bool := laneArith t || t == .f8e4 || t == .f8e5 || t == .pred

/-- Whether a tag is one of the float tags of the arithmetic members. -/
def laneFloat : Tag → Bool
  | .f32 | .bf16 | .f16 => true
  | _ => false

/-- ADD, MAX or MIN of two lanes of a tag (R170): `alt` is `.SAT` of ADD, and `.N` or `.U` of MAX and MIN. -/
def laneOp (op : ScanOp) (t : Tag) (alt : Bool) (x y : Nat) : Nat :=
  if laneFloat t then
    let m := ffmt t
    let u := m.decode x
    let v := m.decode y
    m.encode .rne (match op with
      | .add => u.add .rne v
      | .max => u.pick true alt v
      | .min => u.pick false alt v)
  else
    let w := t.width
    let rd := fun (v : Nat) => if alt && op != .add then (v : Int) else signed w v
    match op with
    | .add => if alt then wrap w (clampS w (signed w x + signed w y)) else wrap w (signed w x + signed w y)
    | .max => if rd y ≤ rd x then x else y
    | .min => if rd x ≤ rd y then x else y

/-- One level of the fixed tree: lanes 2i and 2i + 1 combined, the lower index on the left (R107). -/
def pairUp (g : Nat → Nat → Nat) : List Nat → List Nat
  | x :: y :: l => g x y :: pairUp g l
  | l => l

/-- The balanced binary tree by lane index, n levels (R107). -/
def laneTree (g : Nat → Nat → Nat) : Nat → List Nat → List Nat
  | 0, l => l
  | n + 1, l => laneTree g n (pairUp g l)

/-- All lanes of a token, scalars copied (R90, R299). -/
def Tok.all (t : Tok) : List Nat := t.lanesOf t.tag.width (Tag.lanes t.tag)

/-- RSUM, RMAX, RMIN: a scalar of the left tag (R107, R108, R170). -/
def reduceTok (op : ScanOp) (alt intOnly : Bool) (f : Firing) : Except Nat Tok :=
  match f.left with
  | none => .error 0x03
  | some l =>
    if laneArith l.tag ∧ ¬ (intOnly ∧ laneFloat l.tag) then
      .ok (Tok.scalarOf l.tag ((laneTree (laneOp op l.tag alt) 7 l.all).headD 0) l.mark)
    else .error 0x03

/-- RSUM (R170). -/
def execRsum (p : PMode) (x : Bool) (a b : Tgt) (s : State) : Host.Outcome State Fault Refusal :=
  .next (s.compute p needL false a b (reduceTok .add x x))

/-- RMAX (R170). -/
def execRmax (p : PMode) (n : Bool) (a b : Tgt) (s : State) : Host.Outcome State Fault Refusal :=
  .next (s.compute p needL false a b (reduceTok .max n false))

/-- RMIN (R170). -/
def execRmin (p : PMode) (n : Bool) (a b : Tgt) (s : State) : Host.Outcome State Fault Refusal :=
  .next (s.compute p needL false a b (reduceTok .min n false))

/-- RAND and ROR over lanes 0 to n - 1 (R170): integers or PRED. -/
def bitReduce (g : Nat → Nat → Nat) (n : Nat) (f : Firing) : Except Nat Tok :=
  match f.left with
  | none => .error 0x03
  | some l =>
    if (l.tag.isInt ∨ l.tag = .pred) ∧ n ≤ Tag.lanes l.tag then
      match l.all.take n with
      | [] => .error 0x03
      | x :: xs => .ok (Tok.scalarOf l.tag (xs.foldl g x) l.mark)
    else .error 0x03

/-- RAND n (R170). -/
def execRand (p : PMode) (n : BitVec 7) (a : Tgt) (s : State) : Host.Outcome State Fault Refusal :=
  .next (s.compute p needL false a .none (bitReduce (fun x y => x &&& y) (n.toNat + 1)))

/-- ROR n (R170). -/
def execRor (p : PMode) (n : BitVec 7) (a : Tgt) (s : State) : Host.Outcome State Fault Refusal :=
  .next (s.compute p needL false a .none (bitReduce (fun x y => x ||| y) (n.toNat + 1)))

/-- SCANA and SEGSC in ascending lane order (R171): `prev` is the lane before, or the carry. -/
def scanLanes (g : Nat → Nat → Nat) : Option Nat → List (Nat × Bool) → List Nat
  | _, [] => []
  | prev, (x, hd) :: l =>
    let y := match prev with
      | none => x
      | some q => if hd then x else g q x
    y :: scanLanes g (some y) l

/-- The token that a carried node holds or receives in its carry position (R172): a scalar of the left's tag. -/
def carryLane (o : Option Tok) (t : Tag) : Except Nat (Option Nat) :=
  match o with
  | none => .ok none
  | some c => if c.scalar ∧ c.tag = t then .ok (some (c.lane t.width 0)) else .error 0x03

/-- The scan's token for A and the last lane as a scalar for B (R170, R171). -/
def scanToks (op : ScanOp) (carry : Option Tok) (flags : Option (Nat → Bool)) (f : Firing) : Except Nat (Tok × Tok) :=
  match f.left with
  | none => .error 0x03
  | some l =>
    match carryLane carry l.tag with
    | .error c => .error c
    | .ok c =>
      if laneArith l.tag then
        let hd := flags.getD fun _ => false
        let out := scanLanes (laneOp op l.tag false) c (l.all.zip ((List.range (Tag.lanes l.tag)).map hd))
        .ok (Tok.vectorOf l.tag out l.mark, Tok.scalarOf l.tag (out.getLastD 0) l.mark)
      else .error 0x03

/-- The position that a node carries: right for SCANA and RTREE, third for SEGSC (R172). -/
def isCarry (pos : Pos) (slot : Nat) (t : Tgt) : Bool :=
  match pos, t with
  | .right, .right n => n.toNat == slot
  | .third, .third n => n.toNat == slot
  | _, _ => false

/-- A firing of a carried member (R172): a token for its own carry position is held for the next iteration and is
discarded after marker bit 0; every other target gets its token. -/
def State.giveCarried (s : State) (pos : Pos) (a b : Tgt) (x y : Tok) : State :=
  let slot := s.fire.slot
  let ca := isCarry pos slot a
  let cb := isCarry pos slot b
  let held : Option Tok := if ca then some x else if cb then some y else none
  let stop := s.fire.marks.getLsbD 0
  let s := s.give (if ca then .none else a) (if cb then .none else b) (some (.tok x)) (some (.tok y))
  if ca || cb then
    s.modRun s.fire.k fun r => r.modNode s.fire.copy slot fun n => { n with carry := if stop then none else held }
  else s

/-- RTREE on a memory node of a fabric block is a sink (R143). -/
def State.onMemoryNode (s : State) : Bool := s.inFabric s.fire.k && decide (6 ≤ s.fire.slot % 8)

/-- A meaning of SCANA, SEGSC or RTREE. -/
def State.carried (s : State) (sink : Bool) (p : PMode) (need : Firing → Bool) (pos : Pos) (a b : Tgt)
    (g : Firing → Except Nat (Tok × Tok)) : State :=
  match s.here? with
  | none => s
  | some _ =>
    if s.fire.sense p && need s.fire then
      let bad := fun (s : State) =>
        let t := Tok.poisonOf 0x03 s.origin s.fire.marks
        (if s.ownTrap sink then
          s.addTrap s.fire.k { cause := 0x03, origin := s.origin, extra := 0x03, atExit := false } else s).giveCarried
          pos a b t t
      match s.fire.poison? with
      | some t =>
        (if sink then s.addTrap s.fire.k { cause := 0x04, origin := t.origin, extra := t.cause, atExit := false }
         else s).giveCarried pos a b t t
      | none =>
        if s.fire.pred.any fun t => !(t.tag == .pred && t.scalar) then bad s
        else
          match g s.fire with
          | .ok (x, y) => s.giveCarried pos a b x y
          | .error _ => bad s
    else s

/-- SCANA (R170 to R172). -/
def execScana (p : PMode) (x : ScanOp) (a b : Tgt) (s : State) : Host.Outcome State Fault Refusal :=
  .next (s.carried false p needL .right a b fun f => scanToks x f.right none f)

/-- SEGSC: the right operand holds the head flags (R170 to R172). -/
def execSegsc (p : PMode) (x : ScanOp) (a b : Tgt) (s : State) : Host.Outcome State Fault Refusal :=
  .next (s.carried false p needLR .third a b fun f =>
    match f.right with
    | some h => if h.tag = .pred then
        scanToks x f.third (some fun i => h.lane 1 (if h.scalar then 0 else i) == 1) f else .error 0x03
    | none => .error 0x03)

/-- RTREE: left ⊕ right, or left unchanged where a carried position holds no token (R170, R172, R173). -/
def rtreeTok (x : ScanOp) (f : Firing) : Except Nat (Tok × Tok) :=
  match f.left with
  | none => .error 0x03
  | some l =>
    if laneArith l.tag then
      match f.right with
      | none =>
        let t := Tok.vectorOf l.tag l.all l.mark
        .ok (t, t)
      | some r =>
        if r.tag = l.tag then
          let t := Tok.vectorOf l.tag (List.zipWith (laneOp x l.tag false) l.all r.all) l.mark
          .ok (t, t)
        else .error 0x03
    else .error 0x03

/-- RTREE.op (R170, R172, R173). -/
def execRtree (p : PMode) (x : ScanOp) (a b : Tgt) (s : State) : Host.Outcome State Fault Refusal :=
  .next (s.carried s.onMemoryNode p needL .right a b (rtreeTok x))

/-- A data mover over the left operand (R170). -/
def moveTok (g : Tok → Except Nat (List Nat)) (f : Firing) : Except Nat Tok :=
  match f.left with
  | none => .error 0x03
  | some l =>
    if laneMove l.tag then (g l).map fun o => Tok.vectorOf l.tag o l.mark else .error 0x03

/-- SHUF: lanes by index, zero beyond (R170). -/
def shufTok (f : Firing) : Except Nat Tok :=
  moveTok (fun l => match f.right with
    | none => .error 0x03
    | some r =>
      let n := Tag.lanes l.tag
      if r.tag.isInt ∧ (r.scalar ∨ Tag.lanes r.tag = n) then
        .ok ((r.lanesOf r.tag.width n).map fun i => l.all.getD i 0)
      else .error 0x03) f

/-- SHUF (R170). -/
def execShuf (p : PMode) (a b : Tgt) (s : State) : Host.Outcome State Fault Refusal :=
  .next (s.compute p needLR false a b shufTok)

/-- BCASTL j (R170). -/
def execBcastl (p : PMode) (j : BitVec 7) (a : Tgt) (s : State) : Host.Outcome State Fault Refusal :=
  .next (s.compute p needL false a .none (moveTok fun l =>
    if j.toNat < Tag.lanes l.tag then .ok (l.all.map fun _ => l.all.getD j.toNat 0) else .error 0x03))

/-- The left lanes followed by the right's, or by zeros (R170). -/
def bothLanes (l : Tok) (r : Option Tok) : Except Nat (List Nat) :=
  match r with
  | none => .ok l.all
  | some t => if t.tag = l.tag then .ok (l.all ++ t.all) else .error 0x03

/-- SLIDE d (R170). -/
def execSlide (p : PMode) (d : BitVec 8) (a : Tgt) (s : State) : Host.Outcome State Fault Refusal :=
  .next (s.compute p needL false a .none fun f => moveTok (fun l =>
    if d.toNat ≤ Tag.lanes l.tag then
      (bothLanes l f.right).map fun c => (List.range (Tag.lanes l.tag)).map fun i => c.getD (i + d.toNat) 0
    else .error 0x03) f)

/-- MASKL (R170). -/
def execMaskl (p : PMode) (a b : Tgt) (s : State) : Host.Outcome State Fault Refusal :=
  .next (s.compute p needLR false a b fun f => moveTok (fun l => match f.right with
    | some r => if r.tag = .pred then
        .ok ((List.range (Tag.lanes l.tag)).map fun i =>
          if r.lane 1 (if r.scalar then 0 else i) = 1 then l.all.getD i 0 else 0)
      else .error 0x03
    | none => .error 0x03) f)

/-- A count or position of a PRED token as a scalar I64 (R170). -/
def predTok (g : List Nat → Nat) (f : Firing) : Except Nat Tok :=
  match f.left with
  | some l => if l.tag = .pred then .ok (Tok.i64 (g l.all) l.mark) else .error 0x03
  | none => .error 0x03

/-- CNTL: set bits (R170). -/
def execCntl (p : PMode) (a b : Tgt) (s : State) : Host.Outcome State Fault Refusal :=
  .next (s.compute p needL false a b (predTok fun l => l.sum))

/-- FIRSTL: the lowest set bit, or 128 (R170). -/
def execFirstl (p : PMode) (a b : Tgt) (s : State) : Host.Outcome State Fault Refusal :=
  .next (s.compute p needL false a b (predTok fun l => (l.findIdx? fun x => x == 1).getD 128))

/-- Lanes taken alternately from two lists. -/
def interleave : List Nat → List Nat → List Nat
  | x :: xs, y :: ys => x :: y :: interleave xs ys
  | _, _ => []

/-- Every second lane, from the first. -/
def evens : List Nat → List Nat
  | x :: _ :: l => x :: evens l
  | [x] => [x]
  | [] => []

/-- A mover with two different results for A and B (R170). -/
def State.twoTok (s : State) (p : PMode) (a b : Tgt) (g : Tok → Tok → List Nat × List Nat) : State :=
  s.firing p needLR false a b <|
    match s.fire.left, s.fire.right with
    | some l, some r =>
      if laneMove l.tag ∧ r.tag = l.tag then
        let (x, y) := g l r
        s.give a b (some (.tok (Tok.vectorOf l.tag x l.mark))) (some (.tok (Tok.vectorOf l.tag y l.mark)))
      else s.failBoth false a b 0x03 0x03
    | _, _ => s

/-- ZIP (R170). -/
def execZip (p : PMode) (a b : Tgt) (s : State) : Host.Outcome State Fault Refusal :=
  .next (s.twoTok p a b fun l r =>
    let h := Tag.lanes l.tag / 2
    (interleave (l.all.take h) (r.all.take h), interleave (l.all.drop h) (r.all.drop h)))

/-- UNZIP (R170). -/
def execUnzip (p : PMode) (a b : Tgt) (s : State) : Host.Outcome State Fault Refusal :=
  .next (s.twoTok p a b fun l r => (evens (l.all ++ r.all), evens ((l.all ++ r.all).drop 1)))

end Sys2Proof.Machine
end

