-- ==== Sys2Proof/Machine/Dispatch.lean ====
section
/-! DEFINITION. Machine/Dispatch.lean: one arm per constructor of Instr, each one call of its meaning. -/

namespace Sys2Proof.Machine

open Sys2Proof

def exec (i : Instr) (s : State) : Host.Outcome State Fault Refusal :=
  match i with
  | .nop => Sys2Proof.Machine.execNop s
  | .exit p n => Sys2Proof.Machine.execExit p n s
  | .exitc p f t => Sys2Proof.Machine.execExitc p f t s
  | .exiti p => Sys2Proof.Machine.execExiti p s
  | .callb p r c => Sys2Proof.Machine.execCallb p r c s
  | .retb p => Sys2Proof.Machine.execRetb p s
  | .nullw p a b => Sys2Proof.Machine.execNullw p a b s
  | .reads p n a => Sys2Proof.Machine.execReads p n a s
  | .writes p => Sys2Proof.Machine.execWrites p s
  | .lit p x v a => Sys2Proof.Machine.execLit p x v a s
  | .movt p a b => Sys2Proof.Machine.execMovt p a b s
  | .enter p v => Sys2Proof.Machine.execEnter p v s
  | .leave p => Sys2Proof.Machine.execLeave p s
  | .trapi p c n => Sys2Proof.Machine.execTrapi p c n s
  | .halts p => Sys2Proof.Machine.execHalts p s
  | .brks p v n => Sys2Proof.Machine.execBrks p v n s
  | .add p a b => Sys2Proof.Machine.execAdd p a b s
  | .sub p a b => Sys2Proof.Machine.execSub p a b s
  | .mul p a b => Sys2Proof.Machine.execMul p a b s
  | .mulh p x a b => Sys2Proof.Machine.execMulh p x a b s
  | .addi p v a => Sys2Proof.Machine.execAddi p v a s
  | .and p a b => Sys2Proof.Machine.execAnd p a b s
  | .or p a b => Sys2Proof.Machine.execOr p a b s
  | .xor p a b => Sys2Proof.Machine.execXor p a b s
  | .shl p a b => Sys2Proof.Machine.execShl p a b s
  | .shr p a b => Sys2Proof.Machine.execShr p a b s
  | .sra p a b => Sys2Proof.Machine.execSra p a b s
  | .min p u a b => Sys2Proof.Machine.execMin p u a b s
  | .max p u a b => Sys2Proof.Machine.execMax p u a b s
  | .cmps p c a b => Sys2Proof.Machine.execCmps p c a b s
  | .cmpu p c a b => Sys2Proof.Machine.execCmpu p c a b s
  | .sel p a b => Sys2Proof.Machine.execSel p a b s
  | .divs p r a b => Sys2Proof.Machine.execDivs p r a b s
  | .divu p r a b => Sys2Proof.Machine.execDivu p r a b s
  | .abs p a b => Sys2Proof.Machine.execAbs p a b s
  | .neg p a b => Sys2Proof.Machine.execNeg p a b s
  | .clz p a b => Sys2Proof.Machine.execClz p a b s
  | .popc p a b => Sys2Proof.Machine.execPopc p a b s
  | .exts p n a => Sys2Proof.Machine.execExts p n a s
  | .extz p n a => Sys2Proof.Machine.execExtz p n a s
  | .addsat p u a b => Sys2Proof.Machine.execAddsat p u a b s
  | .subsat p u a b => Sys2Proof.Machine.execSubsat p u a b s
  | .lea p k a => Sys2Proof.Machine.execLea p k a s
  | .idx p a b => Sys2Proof.Machine.execIdx p a b s
  | .last p j a => Sys2Proof.Machine.execLast p j a s
  | .andn p a b => Sys2Proof.Machine.execAndn p a b s
  | .rotl p a b => Sys2Proof.Machine.execRotl p a b s
  | .bfx p z n a => Sys2Proof.Machine.execBfx p z n a s
  | .fadd p r a b => Sys2Proof.Machine.execFadd p r a b s
  | .fsub p r a b => Sys2Proof.Machine.execFsub p r a b s
  | .fmul p r a b => Sys2Proof.Machine.execFmul p r a b s
  | .fma p r a b => Sys2Proof.Machine.execFma p r a b s
  | .fmin p n a b => Sys2Proof.Machine.execFmin p n a b s
  | .fmax p n a b => Sys2Proof.Machine.execFmax p n a b s
  | .fcmp p c a b => Sys2Proof.Machine.execFcmp p c a b s
  | .fabs p a b => Sys2Proof.Machine.execFabs p a b s
  | .fneg p a b => Sys2Proof.Machine.execFneg p a b s
  | .frcp p r a b => Sys2Proof.Machine.execFrcp p r a b s
  | .fsqrt p r a b => Sys2Proof.Machine.execFsqrt p r a b s
  | .frsq p r a b => Sys2Proof.Machine.execFrsq p r a b s
  | .fexp2 p r a b => Sys2Proof.Machine.execFexp2 p r a b s
  | .flog2 p r a b => Sys2Proof.Machine.execFlog2 p r a b s
  | .fscale p r a b => Sys2Proof.Machine.execFscale p r a b s
  | .fclass p a b => Sys2Proof.Machine.execFclass p a b s
  | .cvt p y t a => Sys2Proof.Machine.execCvt p y t a s
  | .cvtr p m y t a => Sys2Proof.Machine.execCvtr p m y t a s
  | .cvti p m y t a => Sys2Proof.Machine.execCvti p m y t a s
  | .cvtf p m y t a => Sys2Proof.Machine.execCvtf p m y t a s
  | .packb p f j k a => Sys2Proof.Machine.execPackb p f j k a s
  | .unpackb p j a => Sys2Proof.Machine.execUnpackb p j a s
  | .retag p t a => Sys2Proof.Machine.execRetag p t a s
  | .tagq p a => Sys2Proof.Machine.execTagq p a s
  | .sati p z y t a => Sys2Proof.Machine.execSati p z y t a s
  | .rsum p z a b => Sys2Proof.Machine.execRsum p z a b s
  | .rmax p n a b => Sys2Proof.Machine.execRmax p n a b s
  | .rmin p n a b => Sys2Proof.Machine.execRmin p n a b s
  | .rand p n a => Sys2Proof.Machine.execRand p n a s
  | .ror p n a => Sys2Proof.Machine.execRor p n a s
  | .scana p x a b => Sys2Proof.Machine.execScana p x a b s
  | .shuf p a b => Sys2Proof.Machine.execShuf p a b s
  | .bcastl p j a => Sys2Proof.Machine.execBcastl p j a s
  | .slide p d a => Sys2Proof.Machine.execSlide p d a s
  | .maskl p a b => Sys2Proof.Machine.execMaskl p a b s
  | .cntl p a b => Sys2Proof.Machine.execCntl p a b s
  | .firstl p a b => Sys2Proof.Machine.execFirstl p a b s
  | .zip p a b => Sys2Proof.Machine.execZip p a b s
  | .unzip p a b => Sys2Proof.Machine.execUnzip p a b s
  | .segsc p x a b => Sys2Proof.Machine.execSegsc p x a b s
  | .rtree p x a b => Sys2Proof.Machine.execRtree p x a b s
  | .mldb p a => Sys2Proof.Machine.execMldb p a s
  | .mclm p n a => Sys2Proof.Machine.execMclm p n a s
  | .mrel p n a => Sys2Proof.Machine.execMrel p n a s
  | .mrow p x g j o a => Sys2Proof.Machine.execMrow p x g j o a s
  | .mrowt p x g j o a => Sys2Proof.Machine.execMrowt p x g j o a s
  | .macr p n r a => Sys2Proof.Machine.execMacr p n r a s
  | .manc p n r a => Sys2Proof.Machine.execManc p n r a s
  | .mdrn p y t a => Sys2Proof.Machine.execMdrn p y t a s
  | .mdrk p y t a => Sys2Proof.Machine.execMdrk p y t a s
  | .mstat p g r a => Sys2Proof.Machine.execMstat p g r a s
  | .wrd p w a => Sys2Proof.Machine.execWrd p w a s
  | .wup p w a => Sys2Proof.Machine.execWup p w a s
  | .wfl p w a => Sys2Proof.Machine.execWfl p w a s
  | .wsh p w a => Sys2Proof.Machine.execWsh p w a s
  | .wrdb p w a => Sys2Proof.Machine.execWrdb p w a s
  | .wflb p w a => Sys2Proof.Machine.execWflb p w a s
  | .wext p w a => Sys2Proof.Machine.execWext p w a s
  | .wfree p w a => Sys2Proof.Machine.execWfree p w a s
  | .wmark p w a => Sys2Proof.Machine.execWmark p w a s
  | .weos p w a => Sys2Proof.Machine.execWeos p w a s
  | .wopen p w a => Sys2Proof.Machine.execWopen p w a s
  | .wclose p w a => Sys2Proof.Machine.execWclose p w a s
  | .wsave p w a => Sys2Proof.Machine.execWsave p w a s
  | .wrest p w a => Sys2Proof.Machine.execWrest p w a s
  | .wlink p w a => Sys2Proof.Machine.execWlink p w a s
  | .wspl p o w a => Sys2Proof.Machine.execWspl p o w a s
  | .ldg p u t a => Sys2Proof.Machine.execLdg p u t a s
  | .stg p u t a => Sys2Proof.Machine.execStg p u t a s
  | .ldgv p u t a => Sys2Proof.Machine.execLdgv p u t a s
  | .stgv p u t a => Sys2Proof.Machine.execStgv p u t a s
  | .ldk p v t a => Sys2Proof.Machine.execLdk p v t a s
  | .pref p a => Sys2Proof.Machine.execPref p a s
  | .amog p x d z t a => Sys2Proof.Machine.execAmog p x d z t a s
  | .fence p x z a => Sys2Proof.Machine.execFence p x z a s
  | .acq p z t a => Sys2Proof.Machine.execAcq p z t a s
  | .rel p z t a => Sys2Proof.Machine.execRel p z t a s
  | .ctok p a b => Sys2Proof.Machine.execCtok p a b s
  | .mseq p a b => Sys2Proof.Machine.execMseq p a b s
  | .placeq p a => Sys2Proof.Machine.execPlaceq p a s
  | .mona p t a => Sys2Proof.Machine.execMona p t a s
  | .mwait p a => Sys2Proof.Machine.execMwait p a s
  | .kset p x g e => Sys2Proof.Machine.execKset p x g e s
  | .kchain p n => Sys2Proof.Machine.execKchain p n s
  | .kidx p l a b => Sys2Proof.Machine.execKidx p l a b s
  | .klast p n j a => Sys2Proof.Machine.execKlast p n j a s
  | .sgen p g w a => Sys2Proof.Machine.execSgen p g w a s
  | .sgrun p g w a => Sys2Proof.Machine.execSgrun p g w a s
  | .psrc p n a => Sys2Proof.Machine.execPsrc p n a s
  | .psnk p j n a => Sys2Proof.Machine.execPsnk p j n a s
  | .loopn x => Sys2Proof.Machine.execLoopn x s
  | .bustx p a b => Sys2Proof.Machine.execBustx p a b s
  | .busrx p v a => Sys2Proof.Machine.execBusrx p v a s
  | .ctlsnd p c => Sys2Proof.Machine.execCtlsnd p c s
  | .ctlrcv p c a => Sys2Proof.Machine.execCtlrcv p c a s
  | .cqapp p c a => Sys2Proof.Machine.execCqapp p c a s
  | .cqtail p c a => Sys2Proof.Machine.execCqtail p c a s
  | .cqseq p c a => Sys2Proof.Machine.execCqseq p c a s
  | .cqwait p c a => Sys2Proof.Machine.execCqwait p c a s
  | .evpop p a => Sys2Proof.Machine.execEvpop p a s
  | .evpeek p a => Sys2Proof.Machine.execEvpeek p a s
  | .cqabrt p c a => Sys2Proof.Machine.execCqabrt p c a s
  | .clapp p c a => Sys2Proof.Machine.execClapp p c a s
  | .cltail p c a => Sys2Proof.Machine.execCltail p c a s
  | .clseq p c a => Sys2Proof.Machine.execClseq p c a s
  | .clwait p c a => Sys2Proof.Machine.execClwait p c a s
  | .clabrt p c a => Sys2Proof.Machine.execClabrt p c a s
  | .gtinit p t a => Sys2Proof.Machine.execGtinit p t a s
  | .gtroot p t a => Sys2Proof.Machine.execGtroot p t a s
  | .gtdesc p w t a => Sys2Proof.Machine.execGtdesc p w t a s
  | .gtexp p w t a => Sys2Proof.Machine.execGtexp p w t a s
  | .gtback p w t a => Sys2Proof.Machine.execGtback p w t a s
  | .gtvl p w t a => Sys2Proof.Machine.execGtvl p w t a s
  | .gtread p f t a => Sys2Proof.Machine.execGtread p f t a s
  | .gtbest p t a => Sys2Proof.Machine.execGtbest p t a s
  | .gtreroot p t a => Sys2Proof.Machine.execGtreroot p t a s
  | .gtfree p t a => Sys2Proof.Machine.execGtfree p t a s
  | .gtstat p v t a => Sys2Proof.Machine.execGtstat p v t a s
  | .gtparm p q t a => Sys2Proof.Machine.execGtparm p q t a s
  | .tspawn p c a => Sys2Proof.Machine.execTspawn p c a s
  | .trange p c a => Sys2Proof.Machine.execTrange p c a s
  | .tpop p n => Sys2Proof.Machine.execTpop p n s
  | .tidle p => Sys2Proof.Machine.execTidle p s
  | .tdone p f a => Sys2Proof.Machine.execTdone p f a s
  | .tdep p x a => Sys2Proof.Machine.execTdep p x a s
  | .gjoin p g a => Sys2Proof.Machine.execGjoin p g a s
  | .gleave p g a => Sys2Proof.Machine.execGleave p g a s
  | .gbar p g a => Sys2Proof.Machine.execGbar p g a s
  | .lkacq p t a => Sys2Proof.Machine.execLkacq p t a s
  | .lkrel p a => Sys2Proof.Machine.execLkrel p a s
  | .qpush p t a => Sys2Proof.Machine.execQpush p t a s
  | .qpop p t a b => Sys2Proof.Machine.execQpop p t a b s
  | .wreg p k a => Sys2Proof.Machine.execWreg p k a s
  | .wdereg p a => Sys2Proof.Machine.execWdereg p a s
  | .prio p a => Sys2Proof.Machine.execPrio p a s
  | .splins p w a => Sys2Proof.Machine.execSplins p w a s
  | .splrem p w a => Sys2Proof.Machine.execSplrem p w a s
  | .splbnd p w a => Sys2Proof.Machine.execSplbnd p w a s
  | .splack p c => Sys2Proof.Machine.execSplack p c s
  | .stglnk p n a => Sys2Proof.Machine.execStglnk p n a s
  | .stgst p a => Sys2Proof.Machine.execStgst p a s
  | .stgld p a => Sys2Proof.Machine.execStgld p a s
  | .splq p c a => Sys2Proof.Machine.execSplq p c a s
  | .foldset p e a => Sys2Proof.Machine.execFoldset p e a s
  | .ctxsv p x a => Sys2Proof.Machine.execCtxsv p x a s
  | .ctxrs p a => Sys2Proof.Machine.execCtxrs p a s
  | .tlbinv p x a => Sys2Proof.Machine.execTlbinv p x a s
  | .mapset p l a => Sys2Proof.Machine.execMapset p l a s
  | .prmt p z c r a => Sys2Proof.Machine.execPrmt p z c r a s
  | .rgnal p a => Sys2Proof.Machine.execRgnal p a s
  | .rgnfr p a => Sys2Proof.Machine.execRgnfr p a s
  | .trapret p z r => Sys2Proof.Machine.execTrapret p z r s
  | .csrrd p c a => Sys2Proof.Machine.execCsrrd p c a s
  | .csrwr p c a => Sys2Proof.Machine.execCsrwr p c a s
  | .injerr p u k a => Sys2Proof.Machine.execInjerr p u k a s
  | .selft p a => Sys2Proof.Machine.execSelft p a s
  | .scan p a => Sys2Proof.Machine.execScan p a s
  | .elogrd p e n l a => Sys2Proof.Machine.execElogrd p e n l a s
  | .attest p a => Sys2Proof.Machine.execAttest p a s
  | .brkr p x k a => Sys2Proof.Machine.execBrkr p x k a s
  | .trcmk p t a => Sys2Proof.Machine.execTrcmk p t a s
  | .cycrd p z a => Sys2Proof.Machine.execCycrd p z a s
  | .vchk p v w a => Sys2Proof.Machine.execVchk p v w a s
  | .packageReset => Sys2Proof.Machine.execPackageReset s
  | .contextOpen c q priv super frames => Sys2Proof.Machine.execContextOpen c q priv super frames s
  | .contextClose c => Sys2Proof.Machine.execContextClose c s
  | .ldoor c v w => Sys2Proof.Machine.execLdoor c v w s
  | .launchTake c => Sys2Proof.Machine.execLaunchTake c s
  | .launchDispatch c => Sys2Proof.Machine.execLaunchDispatch c s
  | .windowPreload k => Sys2Proof.Machine.execWindowPreload k s
  | .launchCompletion c j => Sys2Proof.Machine.execLaunchCompletion c j s
  | .regionGrant c => Sys2Proof.Machine.execRegionGrant c s
  | .blockLoad k => Sys2Proof.Machine.execBlockLoad k s
  | .slotResultOffer k copy slot => Sys2Proof.Machine.execSlotResultOffer k copy slot s
  | .controlBlockEnd k => Sys2Proof.Machine.execControlBlockEnd k s
  | .fabricBlockComplete k => Sys2Proof.Machine.execFabricBlockComplete k s
  | .blockEdge k => Sys2Proof.Machine.execBlockEdge k s
  | .strandEnd k => Sys2Proof.Machine.execStrandEnd k s
  | .jasperEndStrand k => Sys2Proof.Machine.execJasperEndStrand k s
  | .fabricReconfigure k copy slot => Sys2Proof.Machine.execFabricReconfigure k copy slot s
  | .skipTokenPass k copy slot => Sys2Proof.Machine.execSkipTokenPass k copy slot s
  | .windowReadWaitEnd k copy slot => Sys2Proof.Machine.execWindowReadWaitEnd k copy slot s
  | .windowFillWaitEnd k copy slot => Sys2Proof.Machine.execWindowFillWaitEnd k copy slot s
  | .channelFill k w => Sys2Proof.Machine.execChannelFill k w s
  | .spillRingDrain k w => Sys2Proof.Machine.execSpillRingDrain k w s
  | .channelEndOfStream k w => Sys2Proof.Machine.execChannelEndOfStream k w s
  | .writeApply src dst => Sys2Proof.Machine.execWriteApply src dst s
  | .readServe src dst => Sys2Proof.Machine.execReadServe src dst s
  | .readResponse d j => Sys2Proof.Machine.execReadResponse d j s
  | .progressBeat src dst => Sys2Proof.Machine.execProgressBeat src dst s
  | .mwaitWake k slot => Sys2Proof.Machine.execMwaitWake k slot s
  | .constantSegmentCopy d c => Sys2Proof.Machine.execConstantSegmentCopy d c s
  | .translationWalk d j => Sys2Proof.Machine.execTranslationWalk d j s
  | .fltack c seq st => Sys2Proof.Machine.execFltack c seq st s
  | .streamElementFill d tile g => Sys2Proof.Machine.execStreamElementFill d tile g s
  | .sgrunAbsentPage d tile g => Sys2Proof.Machine.execSgrunAbsentPage d tile g s
  | .sgrunEntryReread d tile g => Sys2Proof.Machine.execSgrunEntryReread d tile g s
  | .sgrunPostRetry d tile g => Sys2Proof.Machine.execSgrunPostRetry d tile g s
  | .copyRecordCapture k ch => Sys2Proof.Machine.execCopyRecordCapture k ch s
  | .copyRow k ch => Sys2Proof.Machine.execCopyRow k ch s
  | .copyFillResume k ch => Sys2Proof.Machine.execCopyFillResume k ch s
  | .copyRecordComplete k ch => Sys2Proof.Machine.execCopyRecordComplete k ch s
  | .eventQueueResume k ch => Sys2Proof.Machine.execEventQueueResume k ch s
  | .collectiveStepStart k ch => Sys2Proof.Machine.execCollectiveStepStart k ch s
  | .readyNotice d j => Sys2Proof.Machine.execReadyNotice d j s
  | .collectiveDataArrival d j => Sys2Proof.Machine.execCollectiveDataArrival d j s
  | .abortNotice d j => Sys2Proof.Machine.execAbortNotice d j s
  | .peerSilent k ch => Sys2Proof.Machine.execPeerSilent k ch s
  | .taskWindowReady d e => Sys2Proof.Machine.execTaskWindowReady d e s
  | .taskTake k slot => Sys2Proof.Machine.execTaskTake k slot s
  | .gangPhaseRelease k slot => Sys2Proof.Machine.execGangPhaseRelease k slot s
  | .lockGrant k slot => Sys2Proof.Machine.execLockGrant k slot s
  | .queueWaiterServe d pa => Sys2Proof.Machine.execQueueWaiterServe d pa s
  | .waitforRegister w => Sys2Proof.Machine.execWaitforRegister w s
  | .waitforSweep => Sys2Proof.Machine.execWaitforSweep s
  | .wfinj c id => Sys2Proof.Machine.execWfinj c id s
  | .geodeDescent k slot => Sys2Proof.Machine.execGeodeDescent k slot s
  | .geodeExpandElement k slot => Sys2Proof.Machine.execGeodeExpandElement k slot s
  | .geodeBackupElement k slot => Sys2Proof.Machine.execGeodeBackupElement k slot s
  | .geodeVlElement k slot => Sys2Proof.Machine.execGeodeVlElement k slot s
  | .lazyFree d c t => Sys2Proof.Machine.execLazyFree d c t s
  | .hostGrowth d c t cap => Sys2Proof.Machine.execHostGrowth d c t cap s
  | .spliceHostResolve k rewrite => Sys2Proof.Machine.execSpliceHostResolve k rewrite s
  | .savePoint k => Sys2Proof.Machine.execSavePoint k s
  | .saveComplete k => Sys2Proof.Machine.execSaveComplete k s
  | .dbgctl k v => Sys2Proof.Machine.execDbgctl k v s
  | .strandHalt k => Sys2Proof.Machine.execStrandHalt k s
  | .logRoomResume k copy slot => Sys2Proof.Machine.execLogRoomResume k copy slot s
  | .replayDivergence c k reason => Sys2Proof.Machine.execReplayDivergence c k reason s
  | .pwrcap w => Sys2Proof.Machine.execPwrcap w s
  | .retmap d tile => Sys2Proof.Machine.execRetmap d tile s
  | .registerWrite who csr c d v => Sys2Proof.Machine.execRegisterWrite who csr c d v s
  | .writeAcknowledgement d j => Sys2Proof.Machine.execWriteAcknowledgement d j s
  | .linkRetry d port n => Sys2Proof.Machine.execLinkRetry d port n s
  | .jasperRegeneration d tile g present => Sys2Proof.Machine.execJasperRegeneration d tile g present s

end Sys2Proof.Machine
end

