-- ==== Sys2Proof/Machine/Sched.lean ====
section
/-! DEFINITION. Machine/Sched.lean: what one step does around the meaning of an instruction or event: the firing of a
node, the cycle that passes, and the order in which a package left to itself moves (log 1, log 2). -/

namespace Sys2Proof.Machine

open Sys2Proof

/-- What an event does: its own meaning, the one that its arm of `exec` calls. -/
def Event.run (s : State) : Event → Host.Outcome State Fault Refusal
  | .packageReset => Sys2Proof.Machine.execPackageReset s
  | .contextOpen c q priv super frames => Sys2Proof.Machine.execContextOpen c q priv super frames s
  | .contextClose c => Sys2Proof.Machine.execContextClose c s
  | .ldoor c v w => Sys2Proof.Machine.execLdoor c v w s
  | .launchTake c => Sys2Proof.Machine.execLaunchTake c s
  | .launchDispatch c => Sys2Proof.Machine.execLaunchDispatch c s
  | .windowPreload k => Sys2Proof.Machine.execWindowPreload k s
  | .launchCompletion c j => Sys2Proof.Machine.execLaunchCompletion c j s
  | .regionGrant c => Sys2Proof.Machine.execRegionGrant c s
  | .blockLoad k => Sys2Proof.Machine.execBlockLoad k s
  | .slotResultOffer k copy slot => Sys2Proof.Machine.execSlotResultOffer k copy slot s
  | .controlBlockEnd k => Sys2Proof.Machine.execControlBlockEnd k s
  | .fabricBlockComplete k => Sys2Proof.Machine.execFabricBlockComplete k s
  | .blockEdge k => Sys2Proof.Machine.execBlockEdge k s
  | .strandEnd k => Sys2Proof.Machine.execStrandEnd k s
  | .jasperEndStrand k => Sys2Proof.Machine.execJasperEndStrand k s
  | .fabricReconfigure k copy slot => Sys2Proof.Machine.execFabricReconfigure k copy slot s
  | .skipTokenPass k copy slot => Sys2Proof.Machine.execSkipTokenPass k copy slot s
  | .windowReadWaitEnd k copy slot => Sys2Proof.Machine.execWindowReadWaitEnd k copy slot s
  | .windowFillWaitEnd k copy slot => Sys2Proof.Machine.execWindowFillWaitEnd k copy slot s
  | .channelFill k w => Sys2Proof.Machine.execChannelFill k w s
  | .spillRingDrain k w => Sys2Proof.Machine.execSpillRingDrain k w s
  | .channelEndOfStream k w => Sys2Proof.Machine.execChannelEndOfStream k w s
  | .writeApply src dst => Sys2Proof.Machine.execWriteApply src dst s
  | .readServe src dst => Sys2Proof.Machine.execReadServe src dst s
  | .readResponse d j => Sys2Proof.Machine.execReadResponse d j s
  | .progressBeat src dst => Sys2Proof.Machine.execProgressBeat src dst s
  | .mwaitWake k slot => Sys2Proof.Machine.execMwaitWake k slot s
  | .constantSegmentCopy d c => Sys2Proof.Machine.execConstantSegmentCopy d c s
  | .translationWalk d j => Sys2Proof.Machine.execTranslationWalk d j s
  | .fltack c seq st => Sys2Proof.Machine.execFltack c seq st s
  | .streamElementFill d tile g => Sys2Proof.Machine.execStreamElementFill d tile g s
  | .sgrunAbsentPage d tile g => Sys2Proof.Machine.execSgrunAbsentPage d tile g s
  | .sgrunEntryReread d tile g => Sys2Proof.Machine.execSgrunEntryReread d tile g s
  | .sgrunPostRetry d tile g => Sys2Proof.Machine.execSgrunPostRetry d tile g s
  | .copyRecordCapture k ch => Sys2Proof.Machine.execCopyRecordCapture k ch s
  | .copyRow k ch => Sys2Proof.Machine.execCopyRow k ch s
  | .copyFillResume k ch => Sys2Proof.Machine.execCopyFillResume k ch s
  | .copyRecordComplete k ch => Sys2Proof.Machine.execCopyRecordComplete k ch s
  | .eventQueueResume k ch => Sys2Proof.Machine.execEventQueueResume k ch s
  | .collectiveStepStart k ch => Sys2Proof.Machine.execCollectiveStepStart k ch s
  | .readyNotice d j => Sys2Proof.Machine.execReadyNotice d j s
  | .collectiveDataArrival d j => Sys2Proof.Machine.execCollectiveDataArrival d j s
  | .abortNotice d j => Sys2Proof.Machine.execAbortNotice d j s
  | .peerSilent k ch => Sys2Proof.Machine.execPeerSilent k ch s
  | .taskWindowReady d e => Sys2Proof.Machine.execTaskWindowReady d e s
  | .taskTake k slot => Sys2Proof.Machine.execTaskTake k slot s
  | .gangPhaseRelease k slot => Sys2Proof.Machine.execGangPhaseRelease k slot s
  | .lockGrant k slot => Sys2Proof.Machine.execLockGrant k slot s
  | .queueWaiterServe d pa => Sys2Proof.Machine.execQueueWaiterServe d pa s
  | .waitforRegister w => Sys2Proof.Machine.execWaitforRegister w s
  | .waitforSweep => Sys2Proof.Machine.execWaitforSweep s
  | .wfinj c id => Sys2Proof.Machine.execWfinj c id s
  | .geodeDescent k slot => Sys2Proof.Machine.execGeodeDescent k slot s
  | .geodeExpandElement k slot => Sys2Proof.Machine.execGeodeExpandElement k slot s
  | .geodeBackupElement k slot => Sys2Proof.Machine.execGeodeBackupElement k slot s
  | .geodeVlElement k slot => Sys2Proof.Machine.execGeodeVlElement k slot s
  | .lazyFree d c t => Sys2Proof.Machine.execLazyFree d c t s
  | .hostGrowth d c t cap => Sys2Proof.Machine.execHostGrowth d c t cap s
  | .spliceHostResolve k rewrite => Sys2Proof.Machine.execSpliceHostResolve k rewrite s
  | .savePoint k => Sys2Proof.Machine.execSavePoint k s
  | .saveComplete k => Sys2Proof.Machine.execSaveComplete k s
  | .dbgctl k v => Sys2Proof.Machine.execDbgctl k v s
  | .strandHalt k => Sys2Proof.Machine.execStrandHalt k s
  | .logRoomResume k copy slot => Sys2Proof.Machine.execLogRoomResume k copy slot s
  | .replayDivergence c k reason => Sys2Proof.Machine.execReplayDivergence c k reason s
  | .pwrcap w => Sys2Proof.Machine.execPwrcap w s
  | .retmap d tile => Sys2Proof.Machine.execRetmap d tile s
  | .registerWrite who csr c d v => Sys2Proof.Machine.execRegisterWrite who csr c d v s
  | .writeAcknowledgement d j => Sys2Proof.Machine.execWriteAcknowledgement d j s
  | .linkRetry d port n => Sys2Proof.Machine.execLinkRetry d port n s
  | .jasperRegeneration d tile g present => Sys2Proof.Machine.execJasperRegeneration d tile g present s

/-! ### A node fires -/

/-- The latch of a firing: the node's operands for its next iteration, and, where two tokens have come to one position,
the check of R41 (log 2). -/
def State.latch (s : State) (f : Firing) (twice : Bool) : State :=
  let s := { s with fire := f }
  if twice then s.doubled f.slot else s

/-- A node fires, where it stands ready (R111, R133): the instruction at its slot acts on the latched operands. A slot
that holds no node does nothing but its NOP. -/
def State.fireNode (s : State) (k copy slot : Nat) : Host.Outcome State Fault Refusal :=
  match s.strand? k with
  | none => .next s
  | some x =>
    match x.run with
    | none => .next s
    | some r =>
      match r.blk.instr? slot with
      | none => .refused (.notAnInstruction slot)
      | some i =>
        if i = .nop then Sys2Proof.Machine.exec i s
        else if x.phase = .run ∧ x.save.free ∧ ¬ x.halted ∧ x.starts then
          match (r.node? copy slot).map (r.ready k x.region) with
          | some (.fire f twice) => Sys2Proof.Machine.exec i (s.latch f twice)
          | _ => .next s
        else .next s

/-- An event takes place; the latch of the last firing stands. -/
def State.occur (s : State) (e : Event) : Host.Outcome State Fault Refusal :=
  match Event.run s e with
  | .next t => .next { t with fire := s.fire }
  | o => o

/-- One act. -/
def State.act (s : State) : Act → Host.Outcome State Fault Refusal
  | .fire k copy slot => s.fireNode k copy slot
  | .event e => s.occur e
  | .outside o => .next (s.outside o)

/-! ### The cycle that passes -/

/-- The copy and slot of a running block that stand at a node slot of a tile (R49). -/
def Run.slotAt (r : Run) (g : Region) (tile i : Nat) : Option (Nat × Nat) :=
  (List.range (r.ncopies g)).findSome? fun q =>
    (List.range (r.blk.frows * r.blk.fcols)).findSome? fun t =>
      if r.blk.tileOf g q (8 * t) = tile then some (q, 8 * t + i) else none

/-- The class of a node in a cycle in which it neither fires nor takes a configuration (R325). -/
def Run.idleClass (r : Run) (g : Region) (n : Node) : Nat :=
  match r.blk.instr? n.slot with
  | none => 9
  | some i =>
    if ¬ n.cfg then 9
    else if ¬ n.pend.isEmpty ∨ n.out.any (fun o => match o.tgt with
        | .port _ => true
        | _ => false) then 7
    else if r.nodeCount g n.copy 128 n.slot ≤ n.fired then 9
    else
      let (l, rt, p, t) := r.operands g n
      if l = .wait then 1 else if rt = .wait then 2 else if p = .wait then 3 else if t = .wait then 4
      else if ¬ r.hasRoom n false (tgtA i) then 5 else if ¬ r.hasRoom n true (tgtB i) then 6 else 9

/-- Whether an act is a node's taking of its configuration (R142). -/
def Act.configures : Act → Nat × Nat × Nat → Bool
  | .event (.fabricReconfigure k q n), w => w == (k, q, n)
  | _, _ => false

/-- Firings of a node so far. -/
def State.firedBy (s : State) (k copy slot : Nat) : Nat :=
  ((s.run? k).bind fun r => r.node? copy slot).elim 0 (·.fired)

/-- The class in which the cycle of `act`, from `s` to `t`, counts at a node slot of a tile of strand k (R325). KSET and KCHAIN
configure and never fire (R138). -/
def State.classOf (s t : State) (act : Option Act) (k : Nat) (x : Strand) (tile i : Nat) : Nat :=
  match x.run with
  | none => 9
  | some r =>
    if x.phase ≠ .run ∨ ¬ r.blk.isFabric then 9
    else match r.slotAt x.region tile i with
      | none => 9
      | some (q, n) =>
        if act.any fun a => a.configures (k, q, n) then 8
        else if s.firedBy k q n < t.firedBy k q n ∧ ¬ (r.blk.instr? n).any isChain then 0
        else (r.node? q n).elim 9 (r.idleClass x.region)

/-- A counter of 48 bits that saturates, one up (R326). -/
def tick48 (n : Nat) : Nat := min (n + 1) (2 ^ 48 - 1)

/-- A cycle of a class counted (R325, R326). -/
def Acct.count (a : Acct) (c : Nat) : Acct :=
  { a with cls := Vector.ofFn fun j => if j.val = c then tick48 a.cls[j] else a.cls[j], len := tick48 a.len }

/-- The account of an interval that begins (R326). -/
def Acct.begin (b : Block) : Acct := { cls := Vector.replicate 10 0, len := 0, blk := b.addr, rsid := b.rsid }

/-- The strand that holds a tile of a die. -/
def State.holder? (s : State) (d tile : Nat) : Option (Nat × Strand) :=
  s.strands.find? fun e => e.1 < 1024 && e.2.die == d && e.2.region.holds tile

/-- The cycle of an act counted in the open intervals of a die (R325, R326): no cycle of a strand that is saved or
halted counts. -/
def State.countDie (s t : State) (act : Option Act) (d : Nat) (acct : List (Nat × Acct)) : List (Nat × Acct) :=
  acct.map fun (key, a) =>
    match s.holder? d (key / 8) with
    | none => (key, a)
    | some (k, x) =>
      if ¬ x.save.free ∨ x.halted then (key, a) else (key, a.count (s.classOf t act k x (key / 8) (key % 8)))

/-- The intervals that an act begins (R326): a node's at its configuration; those of the slots that hold no node of the
block as the block is loaded. -/
def State.begins (s t : State) (act : Option Act) : List (Nat × Nat × Block) :=
  match act with
  | some (.event (.fabricReconfigure k q n)) =>
    match s.strand? k with
    | some x => match x.run with
      | some r => if (r.node? q n).any fun n => !n.cfg && x.phase == .run && x.save.free && !x.halted then
          [(x.die, r.blk.tileOf x.region q n * 8 + n % 8, r.blk)] else []
      | none => []
    | none => []
  | some (.event (.blockLoad k)) =>
    match s.strand? k, t.strand? k with
    | some x, some y => match y.run with
      | some r => if x.phase ≠ .run ∧ y.phase = .run ∧ r.blk.isFabric then
          y.region.tiles.flatMap fun tile => (List.range 8).filterMap fun i =>
            match r.slotAt y.region tile i with
            | some (q, n) => if (r.node? q n).isSome then none else some (y.die, tile * 8 + i, r.blk)
            | none => some (y.die, tile * 8 + i, r.blk)
        else []
      | none => []
    | _, _ => []
  | _ => []

/-- The cycle accounts after an act from `s` to `t`. -/
def State.account (s t : State) (act : Option Act) : State :=
  let bs := s.begins t act
  { t with dies := Vector.ofFn fun d =>
      let y := t.dies[d]
      let a := bs.foldl (fun a b => if b.1 % 4 = d.val then put b.2.1 (Acct.begin b.2.2) a else a) y.acct
      { y with acct := s.countDie t act d.val a } }

/-- A cycle passes for a strand: the counts of collective steps that wait for their partner (R229), of the cycles since a
save, shrink or halt was asked for, and of those for which an outcome has been due in replay. -/
def Strand.tick (x : Strand) (due : Bool) : Strand :=
  { x with
    asked := if x.awaitsPoint then min (x.asked + 1) saveDelay else x.asked
    overdue := if due then min (x.overdue + 1) overdueLimit else 0
    colls := x.colls.map fun c => (c.1, if c.2.cstate = .waiting then { c.2 with wait := c.2.wait + 1 } else c.2) }

/-- An outcome of strand k is due in replay (R337). -/
def State.isDue (s : State) (k : Nat) (x : Strand) : Bool := (s.ctx? x.ctx).any Ctx.playing && !(s.dueKinds k x).isEmpty

/-- One cycle passes: every die's cycle counter (R4), and the counts of the strands. -/
def State.tick (s : State) : State :=
  { s with
    dies := s.dies.map fun (y : Die) => { y with cyc := y.cyc + 1 }
    strands := s.strands.map fun e => (e.1, e.2.tick (s.isDue e.1 e.2)) }

/-- What a step adds to an act: the accounts, the cycle, and the effective priorities that settle (R257). -/
def State.passCycle (s t : State) (act : Option Act) : State := ((s.account t act).tick).settlePrio

/-! ### The order of a package left to itself (log 1) -/

/-- Effective priority of the head of a path (R257). -/
def State.pathPrio (s : State) (d e : Nat) : Nat := match (s.die d).path e with
  | [] => 0
  | m :: _ => s.prioOf m.req

/-- The heads of the paths, by effective priority (R257), and the beats of paths without a write (R63). -/
def State.headActs (s : State) : List Act :=
  let ps := (List.range 4).flatMap fun d => (List.range 4).map fun e => (d, e)
  (sortBy (fun (a b : Nat × Nat) => decide (s.pathPrio b.1 b.2 < s.pathPrio a.1 a.2)) ps).flatMap fun p =>
    let l := (s.die p.1).path p.2
    (if l.isEmpty then [] else [.event (.writeApply p.1 p.2), .event (.readServe p.1 p.2)])
    ++ if l.any fun m => m.op.isWrite then [] else [.event (.progressBeat p.1 p.2)]

/-- Messages and answers that may move. -/
def State.pathActs (s : State) : List Act :=
  s.headActs ++ (List.range 4).flatMap fun d =>
    let y := s.die d
    (List.range y.resps.length).map (fun j => .event (.readResponse d j))
    ++ (List.range y.acks.length).map (fun j => .event (.writeAcknowledgement d j))
    ++ (List.range (min y.active.length 32)).map (fun j => .event (.translationWalk d j))
    ++ y.queues.map fun q => .event (.queueWaiterServe d q.1)

/-- Waits of nodes that may end. -/
def State.waitEndActs (s : State) : List Act :=
  s.strands.flatMap fun (k, x) => match x.run with
    | none => []
    | some r => r.nodes.flatMap fun n => n.pend.flatMap fun p => match p.why with
      | .winRead .. | .opRead .. => [.event (.windowReadWaitEnd k n.copy n.slot)]
      | .winFill .. | .opFill .. | .order => [.event (.windowFillWaitEnd k n.copy n.slot)]
      | .monitor _ => [.event (.mwaitWake k n.slot)]
      | .gang .. => [.event (.gangPhaseRelease k n.slot)]
      | .lock _ => [.event (.lockGrant k n.slot)]
      | .logged _ => [.event (.lockGrant k n.slot), .event (.mwaitWake k n.slot)]
      | .idle => [.event (.taskTake k n.slot)]
      | .log => [.event (.logRoomResume k n.copy n.slot)]
      | .geode .. => [.event (.geodeDescent k n.slot), .event (.geodeExpandElement k n.slot),
          .event (.geodeBackupElement k n.slot), .event (.geodeVlElement k n.slot)]
      | .memory | .xlat _ | .queue _ | .copySeq .. | .collSeq .. | .events | .task _ | .stream .. | .ksegment | .save _
      | .abort _ | .region | .fold _ => []

/-- Channels, rings and chains that wait for room and may go on. -/
def State.resumeActs (s : State) : List Act :=
  s.strands.flatMap fun (k, x) =>
    x.wins.flatMap (fun (w, _) => [.event (.channelEndOfStream k w), .event (.spillRingDrain k w), .event (.channelFill k w)])
    ++ x.copies.map (fun (ch, _) => .event (.copyFillResume k ch))
    ++ (x.evq.take 1).map fun n => .event (.eventQueueResume k n)

/-- Nodes of one tile that stand ready, the oldest iteration first and then the lowest node slot (R135). -/
def Run.tileActs (r : Run) (k : Nat) (g : Region) (ns : List Node) : List Act :=
  let ready := ns.filterMap fun n => match r.ready k g n with
    | .fire f _ => some ((f.iter, n.slot), Act.fire k n.copy n.slot)
    | .skip it _ => some ((it, n.slot), Act.event (.skipTokenPass k n.copy n.slot))
    | .no => none
  (sortBy (fun (a b : (Nat × Nat) × Act) => decide (a.1.1 < b.1.1 ∨ a.1.1 = b.1.1 ∧ a.1.2 < b.1.2)) ready).map (·.2)

/-- The tile of a node: every slot of a control block stands on one. -/
def Run.tileKey (r : Run) (n : Node) : Nat × Nat := if r.blk.isFabric then (n.copy, n.slot / 8) else (0, 0)

/-- What a running block may do, in groups of which each keeps its order. -/
def Run.acts (r : Run) (k : Nat) (g : Region) : List (List Act) :=
  ((r.nodes.map r.tileKey).eraseDups.map fun t => r.tileActs k g (r.nodes.filter fun n => r.tileKey n == t))
  ++ r.nodes.map (fun n =>
      (if n.cfg then [] else [.event (.fabricReconfigure k n.copy n.slot)])
      ++ if n.out.isEmpty then [] else [.event (.slotResultOffer k n.copy n.slot)])
  ++ [[.event (if r.blk.isFabric then .fabricBlockComplete k else .controlBlockEnd k)]]

/-- What a strand may do besides its engine chains. -/
def Strand.acts (x : Strand) (k : Nat) : List (List Act) :=
  [[.event (.strandHalt k), .event (.savePoint k), .event (.saveComplete k)]]
  ++ match x.phase with
      | .preload _ => [[.event (.windowPreload k)]]
      | .enter => [[.event (.blockLoad k)]]
      | .run => x.run.elim [] fun r => r.acts k x.region
      | .edge => [[.event (.slotResultOffer k 0 edgeSlot), .event (.blockEdge k)]]
      | .ending _ => [[.event (.strandEnd k)]]
      | .stopped => [[.event (.jasperEndStrand k)]]

/-- What a strand's engine chains may do. -/
def Strand.chainActs (x : Strand) (k : Nat) : List Act :=
  x.copies.flatMap (fun (ch, _) =>
    [.event (.copyRecordCapture k ch), .event (.copyRow k ch), .event (.copyRecordComplete k ch)])
  ++ x.colls.flatMap fun (ch, _) => [.event (.collectiveStepStart k ch), .event (.peerSilent k ch)]

/-- What the replay of a strand may do (R337). -/
def Strand.replayActs (x : Strand) (k : Nat) : List Act :=
  [1, 2, 3, 4].map fun r => .event (.replayDivergence x.ctx k r)

/-- What a context may do. -/
def Ctx.acts (c : Nat) (x : Ctx) : List Act :=
  [.event (.launchTake c), .event (.launchDispatch c), .event (.regionGrant c)]
  ++ (List.range 4).map (fun d => .event (.constantSegmentCopy d c))
  ++ x.trees.map fun (t, _) => .event (.lazyFree (t / 16) c (t % 16))

/-- What the units of a die may do. -/
def Die.acts (d : Nat) (y : Die) : List Act :=
  y.streams.flatMap (fun (g, _) => [.event (.streamElementFill d (g / 4) (g % 4)), .event (.sgrunAbsentPage d (g / 4) (g % 4)),
    .event (.sgrunEntryReread d (g / 4) (g % 4)), .event (.sgrunPostRetry d (g / 4) (g % 4))])
  ++ y.store.map (fun (e, _) => .event (.taskWindowReady d e))
  ++ y.armed.filterMap fun e => if e.1 = 4 then some (.event (.linkRetry d false (e.2.1 / 4)))
       else if e.1 = 5 then some (.event (.linkRetry d true e.2.1)) else none

/-- A list begun at another place. -/
def rotate {α : Type} (n : Nat) (l : List α) : List α := l.drop (n % max l.length 1) ++ l.take (n % max l.length 1)

/-- The engine chains of all strands, by effective priority (R257), those of one priority in turn. -/
def State.chainActs (s : State) : List Act :=
  (sortBy (fun (a b : Nat × Strand) => decide (b.2.eff < a.2.eff)) (rotate (s.die 0).cyc.toNat s.strands)).flatMap fun e =>
    e.2.chainActs e.1

/-- What the package may do, in groups of which each keeps its order. -/
def State.unitActs (s : State) : List (List Act) :=
  s.strands.flatMap (fun (k, x) => x.acts k)
  ++ [s.chainActs]
  ++ (s.strands.filter fun e => (s.ctx? e.2.ctx).any Ctx.playing).map (fun (k, x) => x.replayActs k)
  ++ s.ctxs.map (fun (c, x) => x.acts c)
  ++ (List.range 4).map (fun d => (s.die d).acts d)
  ++ (List.range s.done.length).map (fun j => [.event (.launchCompletion ((s.done[j]?).elim 0 (·.ctx)) j)])
  ++ (List.range s.net.length).map fun j => (List.range 4).flatMap fun d =>
      [.event (.readyNotice d j), .event (.collectiveDataArrival d j), .event (.abortNotice d j)]

/-- Waits that may register, and entries whose owner may have changed (R253, R254). -/
def State.registerActs (s : State) : List Act :=
  s.strands.flatMap (fun (k, x) => match x.run with
    | none => []
    | some r => r.nodes.filterMap fun n =>
        if n.pend.isEmpty && n.out.isEmpty then none else some (.event (.waitforRegister (.node k n.copy n.slot))))
  ++ (List.range 4).flatMap fun d =>
      (s.die d).streams.map (fun (g, _) => .event (.waitforRegister (.gen d (g / 4) (g % 4))))
      ++ (s.die d).wft.map (fun (n, _) => .event (.waitforRegister (.entry d n)))
      ++ (List.range (s.die d).wfover.length).map fun i => .event (.waitforRegister (.entry d (4096 + i)))

/-- Whether an act changes anything but the latch. -/
def State.moves (s : State) (a : Act) : Bool :=
  match s.act a with
  | .next t => decide ({ t with fire := s.fire } ≠ s)
  | _ => true

/-- The acts that a package left to itself considers, in order: bring-up; the sweep when it is due (R254); messages, ends
of waits and resumptions; then the other units, in turn by the cycle, with the registrations of waits. -/
def State.ownActs (s : State) : List Act :=
  (if s.boot = 0 then [.event .packageReset] else [])
  ++ (if (s.die 0).cyc.toNat % 2 ^ 20 = 0 then [.event .waitforSweep] else [])
  ++ s.pathActs ++ s.waitEndActs ++ s.resumeActs
  ++ (rotate (s.die 0).cyc.toNat (s.unitActs ++ s.registerActs.map fun a => [a])).flatten

/-- The next act: the agenda's, else the first of its own acts that moves; with it, what remains of the agenda. -/
def State.nextAct (s : State) : Option Act × List Act :=
  match s.agenda with
  | a :: rest => (some a, rest)
  | [] => (s.ownActs.find? s.moves, [])

/-- One cycle: at most one act, and what the cycle adds. -/
def State.cycle (s : State) : Host.Outcome State Fault Refusal :=
  let (a, rest) := s.nextAct
  let u := { s with agenda := rest }
  match a with
  | none => .next (u.passCycle u none)
  | some a =>
    match u.act a with
    | .next t => .next (u.passCycle t (some a))
    | o => o

end Sys2Proof.Machine
end

