-- ==== Sys2Proof/Machine/Fetch.lean ====
section
/-! DEFINITION. Machine/Fetch.lean: a package in which a given instruction stands at a node that is about to fire
(log 12). -/

namespace Sys2Proof.Machine

open Sys2Proof

/-- The region on which a placed instruction stands: an M-tile and its neighbours, with a converter. -/
def placedRegion : Region := { r := 0, c := 0, rows := 2, cols := 2, ctx := 0, strand := some 0 }

/-- The slot at which an instruction is placed: in a fabric block the first of the M-tile or the C-tile beside it whose
node executes it (R10, R49), else slot 0. -/
def placedSlot (op : Nat) : Nat :=
  if controlAdmits op ∨ op = 0x98 then 0
  else ((List.range 16).find? fun n => fabricAdmits (nodeKind placedRegion 2 n) op n).getD 0

/-- Whether an opcode is placed in a fabric block: where no control block admits it (R52). -/
def placedFabric (op : Nat) : Bool := !controlAdmits op

/-- The block that holds the words from its slot on. -/
def placedBlock (op : Nat) (ws : List (BitVec 32)) : Block :=
  { addr := 0x1000, htype := if op = 0x98 then 2 else if placedFabric op then 1 else 0, ninst := 15, rows := 1, cols := 1,
    nchain := 0, nstore := 0, nexit := 0, rdmask := 0xFFFFFFFF, wrmask := 0xFFFFFFFF, nmseq := 0, nconv := 0, fold := 0,
    rsid := 0, words := List.replicate (placedSlot op) 0#32 ++ ws, exits := [] }

/-- A standing operand of the placed instruction. -/
def placedLink (slot : Nat) (pos : Pos) (t : Tok) : Link :=
  { copy := 0, src := 128, b := false, slot := slot, pos := pos, items := [], const := some (.tok t) }

/-- The operands that an entry requires: scalar I64 tokens of value 0; a predicate of the slot's sense (R27, R41). -/
def placedLinks (fab : Bool) (slot : Nat) (i : Instr) : List Link :=
  let o := operandsOf fab i
  let l := o.1 == .required || (match i with
    | .busrx .. | .ctlrcv .. => true
    | _ => false)
  (if l then [placedLink slot .left (Tok.i64 0 0)] else [])
  ++ (if o.2.1 = .required then [placedLink slot .right (Tok.i64 0 0)] else [])
  ++ (if o.2.2 = .required then [placedLink slot .third (Tok.i64 0 0)] else [])
  ++ match pmodeOf i with
     | .always => []
     | .onTrue => [placedLink slot .pred (Tok.pred true 0)]
     | .onFalse => [placedLink slot .pred (Tok.pred false 0)]

/-- The running block of the placed words. -/
def placedRun (ws : List (BitVec 32)) : Run :=
  let op := (ws.headD 0).toNat / 2 ^ 24
  let b := placedBlock op ws
  let r := Run.start b placedRegion 0 0 false
  { r with
    nodes := r.nodes.map fun n => { n with cfg := true }
    links := (match b.instr? (placedSlot op) with
      | some i => placedLinks (placedFabric op) (placedSlot op) i
      | none => []) ++ r.links }

/-- A strand of a privileged context that runs the placed words, whose node at the head of the agenda fires next. -/
def State.placeWord (s : State) (nbits w : Nat) : State :=
  let ws := natWords 8 (w % 2 ^ nbits)
  let op := (ws.headD 0).toNat / 2 ^ 24
  { s with
    boot := 4
    ctxs := put 0 { Ctx.start with ctxpriv := 3 } s.ctxs
    dies := s.dies.set 0 { s.dies[0] with regions := [placedRegion] }
    strands := put 0 { Strand.init with phase := .run, region := placedRegion, run := some (placedRun ws) } s.strands
    agenda := [.fire 0 0 (placedSlot op)] }

end Sys2Proof.Machine
end

