-- ==== Sys2Proof/Machine/Step.lean ====
section
/-! DEFINITION. Machine/Step.lean: one step of the package. -/

namespace Sys2Proof.Machine

/-- One step: the agenda's next act, or the next that the package takes of itself, and the cycle that passes (log 1). -/
def step (s : State) : Host.Outcome State Fault Refusal := s.cycle

/-- The package with one instruction, given by its bits, standing at a node that fires in the next step (log 12). -/
def State.withFetchWord (s : State) (nbits w : Nat) : State := s.placeWord nbits w

end Sys2Proof.Machine
end

