-- ==== Sys2Proof/Safety.lean ====
section
/-! DEFINITION. Safety.lean: the words in which claims are made: what a firing needs in order to run its own effect, what
a state keeps, and which parts of a state two states share. -/

namespace Sys2Proof.Machine

open Sys2Proof

/-- The state's invariant: memory is in its canonical form (log 4). -/
def State.inv (s : State) : Bool := s.mem.wf

/-- A step is safe when it ends in a next state. -/
def Goes (o : Host.Outcome State Fault Refusal) : Prop := ∃ t, o = .next t

/-- A predicate operand, if named, is a scalar PRED. -/
def Firing.plainPred (f : Firing) : Bool := f.pred.all fun t => t.tag == .pred && t.scalar

/-- The firing under way runs its own effect: its node stands ready, the predicate has the slot's sense, and no operand
is poisoned. -/
def State.ready (s : State) (p : PMode) : Bool :=
  s.here?.isSome && s.fire.sense p && s.fire.poison?.isNone && s.fire.plainPred

/-- The node of the firing has no earlier operation in flight. -/
def State.idle (s : State) : Bool :=
  match s.here? with
  | some (_, _, n) => n.pend.isEmpty
  | none => false

/-- The firing's turn in the memory sequence has come, for a store or another member, with earlier accesses performed at
the scope asked for. -/
def State.myTurn (s : State) (store : Bool) (rel : Option Scope) : Bool :=
  match s.here? with
  | some (x, r, _) => r.turn x.region s.fire store && rel.all fun sc => r.performed x.region s.fire sc
  | none => false

/-- A token of an integer tag, or IDX, that is a scalar: what the integer groups read. -/
def Tok.isIntScalar (t : Tok) : Bool := t.scalar && (t.tag.isInt || t.tag == .idx)

/-- The value of a token at lane i, a scalar standing in every lane (R90). -/
def Tok.at (t : Tok) (i : Nat) : Nat := t.lane t.tag.width (if t.scalar then 0 else i)

/-- A firing whose outcome is one token of a tag, offered to targets A and B, with the left operand's marker bits and a
given value at every lane of the left operand. -/
def State.lanewise (s : State) (o : Host.Outcome State Fault Refusal) (a b : Tgt) (l : Tok) (res : Tag) (g : Nat → Nat) :
    Prop :=
  ∃ t : Tok, o = .next (s.emit a b t) ∧ t.tag = res ∧ t.mark = l.mark ∧
    ∀ i, i < Tag.lanes l.tag → t.at i = g i % 2 ^ res.width

/-- A ready exit in its copy's final iteration, where the block needs its left operand only if `operand` says so. -/
def State.lastExit (s : State) (p : PMode) (operand : Bool) : Bool :=
  s.ready p &&
    match s.here? with
    | some (x, r, _) => r.isFinal x.region s.fire && (s.fire.left.isSome || (!operand && !r.blk.isFabric))
    | none => false

/-- The state after an exit has fired with its act recorded. -/
def State.withExit (s : State) (e : ExitAct) : State := s.modRun s.fire.k fun q => q.exited s.fire e

/-- Every line of a range of a context's addresses translates for accesses of a kind from a die (R303). -/
def State.mapped (s : State) (c d : Nat) (k : AccK) (va n : Nat) : Bool :=
  (pieces va n).all fun q => match s.translate c d q.1 k with
    | .ok _ _ => true
    | _ => false

/-- An access of the firing under way can begin: its tile's cache lacks the translation, or holds one that admits it
(R79, R80). -/
def State.canIssue (s : State) (x : Strand) (a : Access) : Bool :=
  match (s.die x.die).cached? (x.nodeTile s.fire.copy s.fire.slot) x.ctx a.va with
  | some l => s.admits l a.op
  | none => true

/-- The state after an access of the firing under way has begun: on its way to its home with a translation of the
tile's cache, else waiting for the walk of its page (R61, R80, R304). -/
def State.issued (s : State) (x : Strand) (a : Access) : State :=
  let tile := x.nodeTile s.fire.copy s.fire.slot
  match (s.die x.die).cached? tile x.ctx a.va with
  | some l => (s.sendAccess x s.fire a l).park .memory (some a) []
  | none => (s.modDie x.die fun y => y.askWalk
      { ctx := x.ctx, page := a.va / 2 ^ 14, acc := (if a.op.reads then 1 else 0) + (if a.op.stores then 2 else 0),
        tile := tile, prio := x.eff, seq := none, declined := false, who := [s.fire.req], stamp := x.stamp }).park (.xlat (a.va / 2 ^ 14)) (some a) []

/-- A link by which BUSTX of firing f reaches the receivers of an identifier (R157). -/
def Run.busTo (r : Run) (f : Firing) (id : Nat) (l : Link) : Bool :=
  l.copy == f.copy && l.src == f.slot && r.isDynamic l &&
    (match r.blk.instr? l.slot with
     | some (.busrx _ i _) => i.toNat == id
     | _ => false)

/-- Every receiver of the identifier has room, and none has had or used a token of this iteration (R41, R157). -/
def Run.busOpen (r : Run) (f : Firing) (id : Nat) : Bool :=
  r.links.all fun l => !r.busTo f id l || (decide (l.items.length < 4)
    && !(r.links.any fun m => m.copy == l.copy && m.slot == l.slot && (m.at? f.iter).any fun i => i != .skip)
    && !(r.node? l.copy l.slot).any fun n => decide (f.iter < n.fired))

/-- A read of a range, made in one step for a strand, goes through: its stamp's writes have been applied, the range
translates, and no DRAM error is armed (R63, R303, R354; log 13). -/
def State.readable (s : State) (x : Strand) (st : Stamp) (va n : Nat) : Bool :=
  s.quiet st && s.mapped x.ctx x.die .rd va n && (s.die 0).armed.isEmpty && decide (va + n ≤ 2 ^ 56)

/-- A write of a range, made for a strand, goes out: the range translates, the writes that the strand's stamp covers have been
applied, so that a walk need not wait for them, and no DRAM error is armed (R303, R304, R354). -/
def State.writable (s : State) (x : Strand) (va n : Nat) : Bool :=
  s.mapped x.ctx x.die .wr va n && decide (va + n ≤ 2 ^ 56) && s.quiet x.stamp && (s.die 0).armed.isEmpty

/-- A range written in one act for a strand goes out with a stamp (R304, R354): it translates, and where a walk must translate a
page of it, the writes that the stamp covers have been applied and no DRAM error is armed. -/
def State.reachable (s : State) (x : Strand) (tile : Nat) (st : Stamp) (va n : Nat) : Bool :=
  s.mapped x.ctx x.die .wr va n &&
    ((s.misses x.ctx x.die tile (pieces va n)).isEmpty || (s.quiet st && (s.die 0).armed.isEmpty))

/-- The firing under way is done, and has given target A the I64 value v with the left operand's markers. -/
def State.answers (s u : State) (a : Tgt) (v : Nat) : Prop :=
  u.run? s.fire.k =
    (s.run? s.fire.k).map fun r => r.finish s.fire a .none (some (.tok (Tok.i64 v s.fire.marks))) none

/-- A Geode command on tree t of the firing strand may begin: its turn has come, earlier accesses are performed, a suspended
block leaves nothing before it, nothing is logged, and no trap of lazy freeing is owed (R278, R280). -/
def State.geodeOpen (s : State) (x : Strand) (r : Run) (t : Nat) : Bool :=
  r.geodeTurn s.fire && r.streamTurn x.region s.fire && x.susp.all Run.geodeClear && !s.logs s.fire.k &&
    (s.tree? x.ctx x.die t).all fun g => g.owed.isEmpty

/-- The lines of a range that has been written for a strand stand on the paths from its die to their homes (R61). -/
def State.sends (s u : State) (x : Strand) (va : Nat) (bs : List Byte) : Prop :=
  match s.physPieces x.ctx x.die ⟨x.lead, .nobody⟩ Stamp.zero .wr (pieces va bs.length) with
  | .ok ps => ∀ c ∈ cutBytes ps bs, ∃ m ∈ (u.die x.die).path c.2.1, m.op = .write c.1 c.2.2
  | _ => False

/-- The nodes of a descent, newest first, from those that it has come to (R281, R282), with fuel; `kids` gives the children's
records. -/
def Tree.route (g : Tree) (kids : GNode → List GNode) : Nat → List (Nat × GNode) → List (Nat × GNode)
  | 0, p => p
  | _ + 1, [] => []
  | f + 1, (i, n) :: p =>
    if n.expanded ∧ ¬ n.terminal ∧ n.count ≠ 0 then
      let j := choose g n (kids n)
      g.route kids f ((n.first + j, (kids n).getD j n) :: (i, n) :: p)
    else (i, n) :: p

/-- The nodes from a leaf up to the root (R282, R287), with fuel; `node` gives a node's record. -/
def climb (node : Nat → GNode) : Nat → Nat → List (Nat × GNode)
  | 0, _ => []
  | m + 1, y => (y, node y) :: if y = 0 then [] else climb node m (node y).parent

/-- The strand runs block r, and neither a save nor a debugger holds it. -/
def State.runs (s : State) (k : Nat) (x : Strand) (r : Run) : Prop :=
  s.strand? k = some x ∧ x.run = some r ∧ x.phase = .run ∧ x.save.free = true ∧ x.halted = false

/-- The operation in flight p of instruction i is its strand's, in its running block, which is of the wait's mode, and no save
holds the strand. -/
def State.holds (s : State) (p : Pend) (x : Strand) (r : Run) (i : Instr) : Prop :=
  s.held? p.fire.k p.fire.hand p.fire.copy p.fire.slot p.fire.iter = some (x, r, i, p) ∧ s.run? p.fire.k = some r ∧
    x.opens p.fire.hand = true

/-- No trace record is written for a strand. -/
def State.untraced (s : State) (x : Strand) : Bool := (s.ctx? x.ctx).all fun c => !bit c.trcctl.toNat 0

/-- The bytes that a fetch of a strand reads, where the range translates for fetches. -/
def State.fetched (s : State) (x : Strand) (va n : Nat) : Option (List Byte) :=
  match s.physPieces x.ctx x.die x.asker x.stamp .fx (pieces va n) with
  | .ok ps => some (ps.flatMap fun p => s.mem.readN p.1 p.2.2)
  | _ => none

/-- An element or marker can join the window or its ring from its link now (R155, R156): into the window itself. -/
def Win.admitsLink (v : Win) : Bool := v.frow != 0 || (v.rrow == 0 && v.free != 0 && v.ring == 0)

/-- The strand's handler can be entered: it is not in handler mode, and its context names one (R117). -/
def State.canTrap (s : State) (x : Strand) : Bool := !x.hmode && thndBase (s.thndOf x) != 0

/-- The row of the opcode table that an event is. -/
def Event.isRow (e : Event) (i : Instr) : Prop :=
  match e with
  | .packageReset => i = .packageReset
  | .contextOpen c q priv super frames => i = .contextOpen c q priv super frames
  | .contextClose c => i = .contextClose c
  | .ldoor c v w => i = .ldoor c v w
  | .launchTake c => i = .launchTake c
  | .launchDispatch c => i = .launchDispatch c
  | .windowPreload k => i = .windowPreload k
  | .launchCompletion c j => i = .launchCompletion c j
  | .regionGrant c => i = .regionGrant c
  | .blockLoad k => i = .blockLoad k
  | .slotResultOffer k copy slot => i = .slotResultOffer k copy slot
  | .controlBlockEnd k => i = .controlBlockEnd k
  | .fabricBlockComplete k => i = .fabricBlockComplete k
  | .blockEdge k => i = .blockEdge k
  | .strandEnd k => i = .strandEnd k
  | .jasperEndStrand k => i = .jasperEndStrand k
  | .fabricReconfigure k copy slot => i = .fabricReconfigure k copy slot
  | .skipTokenPass k copy slot => i = .skipTokenPass k copy slot
  | .windowReadWaitEnd k copy slot => i = .windowReadWaitEnd k copy slot
  | .windowFillWaitEnd k copy slot => i = .windowFillWaitEnd k copy slot
  | .channelFill k w => i = .channelFill k w
  | .spillRingDrain k w => i = .spillRingDrain k w
  | .channelEndOfStream k w => i = .channelEndOfStream k w
  | .writeApply src dst => i = .writeApply src dst
  | .readServe src dst => i = .readServe src dst
  | .readResponse d j => i = .readResponse d j
  | .progressBeat src dst => i = .progressBeat src dst
  | .mwaitWake k slot => i = .mwaitWake k slot
  | .constantSegmentCopy d c => i = .constantSegmentCopy d c
  | .translationWalk d j => i = .translationWalk d j
  | .fltack c seq st => i = .fltack c seq st
  | .streamElementFill d tile g => i = .streamElementFill d tile g
  | .sgrunAbsentPage d tile g => i = .sgrunAbsentPage d tile g
  | .sgrunEntryReread d tile g => i = .sgrunEntryReread d tile g
  | .sgrunPostRetry d tile g => i = .sgrunPostRetry d tile g
  | .copyRecordCapture k ch => i = .copyRecordCapture k ch
  | .copyRow k ch => i = .copyRow k ch
  | .copyFillResume k ch => i = .copyFillResume k ch
  | .copyRecordComplete k ch => i = .copyRecordComplete k ch
  | .eventQueueResume k ch => i = .eventQueueResume k ch
  | .collectiveStepStart k ch => i = .collectiveStepStart k ch
  | .readyNotice d j => i = .readyNotice d j
  | .collectiveDataArrival d j => i = .collectiveDataArrival d j
  | .abortNotice d j => i = .abortNotice d j
  | .peerSilent k ch => i = .peerSilent k ch
  | .taskWindowReady d e => i = .taskWindowReady d e
  | .taskTake k slot => i = .taskTake k slot
  | .gangPhaseRelease k slot => i = .gangPhaseRelease k slot
  | .lockGrant k slot => i = .lockGrant k slot
  | .queueWaiterServe d pa => i = .queueWaiterServe d pa
  | .waitforRegister w => i = .waitforRegister w
  | .waitforSweep => i = .waitforSweep
  | .wfinj c id => i = .wfinj c id
  | .geodeDescent k slot => i = .geodeDescent k slot
  | .geodeExpandElement k slot => i = .geodeExpandElement k slot
  | .geodeBackupElement k slot => i = .geodeBackupElement k slot
  | .geodeVlElement k slot => i = .geodeVlElement k slot
  | .lazyFree d c t => i = .lazyFree d c t
  | .hostGrowth d c t cap => i = .hostGrowth d c t cap
  | .spliceHostResolve k rewrite => i = .spliceHostResolve k rewrite
  | .savePoint k => i = .savePoint k
  | .saveComplete k => i = .saveComplete k
  | .dbgctl k v => i = .dbgctl k v
  | .strandHalt k => i = .strandHalt k
  | .logRoomResume k copy slot => i = .logRoomResume k copy slot
  | .replayDivergence c k reason => i = .replayDivergence c k reason
  | .pwrcap w => i = .pwrcap w
  | .retmap d tile => i = .retmap d tile
  | .registerWrite who csr c d v => i = .registerWrite who csr c d v
  | .writeAcknowledgement d j => i = .writeAcknowledgement d j
  | .linkRetry d port n => i = .linkRetry d port n
  | .jasperRegeneration d tile g present => i = .jasperRegeneration d tile g present

/-- An instruction of groups 0x0 to 0x5. -/
def Instr.dataflow : Instr → Bool
  | .nop | .exit .. | .exitc .. | .exiti .. | .callb .. | .retb .. | .nullw .. | .reads .. | .writes .. | .lit ..
  | .movt .. | .enter .. | .leave .. | .trapi .. | .halts .. | .brks .. | .add .. | .sub .. | .mul .. | .mulh ..
  | .addi .. | .and .. | .or .. | .xor .. | .shl .. | .shr .. | .sra .. | .min .. | .max .. | .cmps .. | .cmpu ..
  | .sel .. | .divs .. | .divu .. | .abs .. | .neg .. | .clz .. | .popc .. | .exts .. | .extz .. | .addsat ..
  | .subsat .. | .lea .. | .idx .. | .last .. | .andn .. | .rotl .. | .bfx .. | .fadd .. | .fsub .. | .fmul ..
  | .fma .. | .fmin .. | .fmax .. | .fcmp .. | .fabs .. | .fneg .. | .frcp .. | .fsqrt .. | .frsq .. | .fexp2 ..
  | .flog2 .. | .fscale .. | .fclass .. | .cvt .. | .cvtr .. | .cvti .. | .cvtf .. | .packb .. | .unpackb ..
  | .retag .. | .tagq .. | .sati .. | .rsum .. | .rmax .. | .rmin .. | .rand .. | .ror .. | .scana .. | .shuf ..
  | .bcastl .. | .slide .. | .maskl .. | .cntl .. | .firstl .. | .zip .. | .unzip .. | .segsc .. | .rtree .. => true
  | _ => false

/-- An instruction of group 0x8. -/
def Instr.memory : Instr → Bool
  | .ldg .. | .stg .. | .ldgv .. | .stgv .. | .ldk .. | .pref .. | .amog .. | .fence .. | .acq .. | .rel .. | .ctok .. | .mseq ..
  | .placeq .. | .mona .. | .mwait .. => true
  | _ => false

/-- What a strand holds beside its running block and the traps owed to its next edge. -/
def Strand.outer (x : Strand) : Strand := { x with run := none, owed := [] }

/-- Two states agree on everything but the running blocks of strands and the traps owed to their next edges: memory,
dies, contexts, every register of every strand, every window and every engine. -/
def State.sameOuter (s t : State) : Prop :=
  { t with strands := [] } = { s with strands := [] } ∧
  ∀ k, (t.strand? k).map Strand.outer = (s.strand? k).map Strand.outer

/-- Two states agree on every strand but one. -/
def State.sameOthers (s t : State) (k : Nat) : Prop := ∀ j, j ≠ k → t.strand? j = s.strand? j

/-- Two states agree on every byte of memory. -/
def State.sameMemory (s t : State) : Prop := ∀ a, t.mem.read a = s.mem.read a

end Sys2Proof.Machine
end

