-- ==== Sys2Proof/Certificates/Slice0/Obligations.lean ====
section
/-! DEFINITION. Certificates/Slice0/Obligations.lean: what is claimed of the machine, from the spec's rules. -/

open Sys2Proof Sys2Proof.Machine

/-! ### Decoding, stepping, reset -/

/-- The spec's own worked encodings decode to the instructions they stand for (R42, R123, R139, R160, R178, R183 and the
tables of worked encodings). -/
def Obligations.WorkedEncodingsDecode : Prop :=
  decodeSlot [0x0904_0FFE#32, 0xD5FA_0E00#32] 0 = .ok (.lit .always .s 0x3FED5FA0E00 (.right 3)) ∧
  decodeSlot [0x0A02_0885#32] 0 = .ok (.movt .always (.left 2) (.left 5)) ∧
  decodeSlot [0x1D26_1987#32] 0 = .ok (.cmps .always .lt (.pred 6) (.pred 7)) ∧
  decodeSlot [0x0140_0000#32] 0 = .ok (.exit .onTrue 0) ∧
  decodeSlot [0x0400_0012#32] 0 = .ok (.callb .always 1 2) ∧
  decodeSlot [0x2012_2400#32] 0 = .ok (.divs .always true (.left 9) .none) ∧
  decodeSlot [0x2604_080F#32] 0 = .ok (.exts .always 15 (.right 2)) ∧
  decodeSlot [0x3312_3000#32] 0 = .ok (.fma .always .rz (.left 12) .none) ∧
  decodeSlot [0x4408_3C24#32] 0 = .ok (.packb .always false 2 4 (.third 15)) ∧
  decodeSlot [0x5E02_1D09#32] 0 = .ok (.segsc .always .add (.left 7) (.right 9)) ∧
  decodeSlot [0x6312_2500#32] 0 = .ok (.mrow .always .db true 0 0 (.left 9)) ∧
  decodeSlot [0x7102_1000#32] 0 = .ok (.wup .always 0 (.left 4)) ∧
  decodeSlot [0x9422_1003#32] 0 = .ok (.sgen .always 2 3 (.left 4)) ∧
  decodeSlot [0xA30A_1803#32] 0 = .ok (.cqwait .always 3 (.reg 6)) ∧
  decodeSlot [0xB602_1010#32] 0 = .ok (.gtread .always 1 0 (.left 4)) ∧
  decodeSlot [0xC112_1000#32] 0 = .ok (.trange .always true (.left 4)) ∧
  decodeSlot [0xD202_0C01#32] 0 = .ok (.splbnd .always 1 (.left 3)) ∧
  decodeSlot [0xE710_0001#32] 0 = .ok (.trapret .always true true) ∧
  decodeSlot [0xED02_143B#32] 0 = .ok (.elogrd .always false 7 3 (.left 5)) ∧
  decodeSlot [0xF010_0002#32] 0 = .ok (.brkr .always .rsid 2 .none)

/-- Where the agenda's head fires a node that stands ready and whose slot decodes to an instruction, the step is the
meaning of that instruction on the latched operands, and the cycle that passes; where it is an event, the step is the meaning of the
event's row, the latch as before (R111, R133; log 1, log 2). -/
def Obligations.StepRunsDecodedInstruction : Prop :=
  (∀ (s : State) (k copy slot : Nat) (rest : List Act) (x : Strand) (r : Run) (n : Node) (i : Instr) (f : Firing) (twice : Bool),
    s.agenda = .fire k copy slot :: rest → s.strand? k = some x → x.run = some r → x.phase = .run → x.save.free = true →
    x.halted = false → x.starts = true → decodeSlot r.blk.words slot = .ok i → i ≠ .nop → r.node? copy slot = some n →
    r.ready k x.region n = .fire f twice →
    let u : State := { s with agenda := rest }
    step s = match exec i (u.latch f twice) with
      | .next t => .next (u.passCycle t (some (.fire k copy slot)))
      | o => o) ∧
  ∀ (s : State) (rest : List Act) (e : Event) (i : Instr), s.agenda = .event e :: rest → Event.isRow e i →
    let u : State := { s with agenda := rest }
    step s = match exec i u with
      | .next t => .next (u.passCycle { t with fire := u.fire } (some (.event e)))
      | o => o

/-- Every instruction with an encoding is read back as it was written: decoding the words of a well-formed instruction,
whatever follows them, gives the instruction and leaves what follows; so do its bytes in memory's order; and what the decoder
reads is well formed (R3, R37 to R44, R51, R53). -/
def Obligations.DecodeReadsEncode : Prop :=
  (∀ (i : Instr) (rest : List (BitVec 32)), i.wf = true → decodeWords (encode i ++ rest) = .ok (i, rest)) ∧
  (∀ i : Instr, i.wf = true → decode (encodeBytes i) = .ok i) ∧
  ∀ (ws rest : List (BitVec 32)) (i : Instr), decodeWords ws = .ok (i, rest) → i.wf = true

/-- The package after reset: no context is open, no strand runs, bring-up has completed no stage, power is capped at
2,200 watts, every frame has placement 000, each die's counters, descent serial, links and tables stand at their reset
values, and memory is in its canonical form (R6, R57, R58, R300, R348, R349). That form is the model's choice (log 4), and so is the
0 of the cycle counters, to which no rule gives a reset value (log 3). -/
def Obligations.ResetState : Prop :=
  (State.reset.boot = 0 ∧ State.reset.ctxs = [] ∧ State.reset.strands = [] ∧ State.reset.pwrcap = 2200 ∧
  State.reset.frames = [] ∧
  ∀ d, (State.reset.die d).cyc = 0 ∧ (State.reset.die d).mrdloc = 0 ∧ (State.reset.die d).mrdrem = 0 ∧
    (State.reset.die d).mstcnt = 0 ∧ (State.reset.die d).serial = 0 ∧ (State.reset.die d).regions = [] ∧
    (State.reset.die d).wft = [] ∧ (State.reset.die d).tlb = [] ∧ (State.reset.die d).links = []) ∧
  State.reset.inv = true

/-- Every step from a state whose memory is in its canonical form leaves memory in its canonical form. -/
def Obligations.StepKeepsMemoryForm : Prop := ∀ s t : State, s.inv = true → step s = .next t → t.inv = true

/-! ### Groups 0x0 to 0x5 -/

/-- NOP has no effect; MOVT offers its left token, unchanged, to both targets (R123). -/
def Obligations.NopAndMovt : Prop :=
  (∀ s : State, exec .nop s = .next s) ∧
  (∀ (s : State) (p : PMode) (a b : Tgt) (t : Tok), s.ready p = true → s.fire.left = some t →
    exec (.movt p a b) s = .next (s.emit a b t)) ∧
  ∀ (s : State) (k : Nat) (x : Strand) (r : Run) (copy slot : Nat), s.strand? k = some x → x.run = some r →
    decodeSlot r.blk.words slot = .ok .nop → s.fireNode k copy slot = .next s

/-- READS emits a register as a scalar token of its tag without marker bits, s0 as 0 with tag I64, which no write changes; a
token delivered to a register leaves its data bits [63:0] and its tag there, and POISON writes nothing and is a sink; WRITES holds
its right token so for the register its left names; NULLW gives a register its entry value; LIT emits its literal (R40, R42, R95,
R110, R125, R127). That READS and NULLW read the register as it stands at their firing, also in a block that goes on after a handler,
is the model's choice (log 34). -/
def Obligations.RegisterReadsAndWrites : Prop :=
  (∀ (s : State) (p : PMode) (n : BitVec 5) (a : Tgt) (x : Strand), s.ready p = true → s.strand? s.fire.k = some x →
    exec (.reads p n a) s = .next (s.emit a .none { tag := (x.readReg n.toNat).2, scalar := true, side := 0, mark := 0,
                                                    data := BitVec.ofNat 1024 (x.readReg n.toNat).1.toNat }) ∧
    x.readReg 0 = (0, .i64)) ∧
  (∀ (x : Strand) (v : Word) (g : Tag), x.writeReg 0 v g = x ∧
    ∀ n, 1 ≤ n → n < 32 → (x.writeReg n v g).readReg n = (v, g) ∧
      ∀ m, m < 32 → m ≠ n → (x.writeReg n v g).readReg m = x.readReg m) ∧
  (∀ (s : State) (k copy slot : Nat) (x : Strand) (r : Run) (n : Node) (o : Out) (m : BitVec 5) (v : Tok),
    s.strand? k = some x → x.run = some r → x.working = true → r.node? copy slot = some n → n.copy = copy → n.slot = slot →
    n.offers = [o] → o.tgt = .reg m → o.item = .tok v →
    let gone := fun (q : Run) => q.modNode copy slot fun u => { u with out := u.out.erase o }
    (v.tag ≠ .poison → ∃ t : State, exec (.slotResultOffer k copy slot) s = .next t ∧ t.run? k = some (gone (r.hold
      { reg := m.toNat, slot := slot, copy := copy, val := BitVec.ofNat 64 v.data.toNat, tag := v.tag,
        iter := if r.blk.isFabric && (r.blk.instr? slot).any isConst then 0 else r.globalIter x.region copy o.iter }))) ∧
    (v.tag = .poison → ∃ t : State, exec (.slotResultOffer k copy slot) s = .next t ∧ t.run? k = some (gone { r with
      traps := r.traps ++ [{ cause := 0x04, origin := v.origin, extra := v.cause, atExit := true }] }))) ∧
  (∀ (s : State) (p : PMode) (i : Nat) (l v : Tok) (x : Strand) (r : Run) (n : Node), s.ready p = true →
    s.here? = some (x, r, n) → s.fire.left = some l → s.fire.right = some v → l.isIntScalar = true →
    l.lane l.tag.width 0 = i → 1 ≤ i → i ≤ 31 → r.blk.wrmask.getLsbD i = true → v.tag ≠ .raw → v.tag ≠ .mark →
    exec (.writes p) s = .next ((s.give .none .none none none).modRun s.fire.k fun q => q.hold
      { reg := i, iter := r.globalIter x.region s.fire.copy s.fire.iter, slot := s.fire.slot, copy := s.fire.copy,
        val := BitVec.ofNat 64 v.data.toNat, tag := v.tag })) ∧
  (∀ (s : State) (p : PMode) (a b : Tgt) (x : Strand), s.ready p = true → s.strand? s.fire.k = some x →
    exec (.nullw p a b) s = .next (s.give a b
      (match a with | .reg n => some (.tok (x.regTok n.toNat)) | _ => none)
      (match b with | .reg n => some (.tok (x.regTok n.toNat)) | _ => none))) ∧
  ∀ (s : State) (p : PMode) (v : BitVec 42) (a : Tgt), s.ready p = true →
    exec (.lit p .s v a) s = .next (s.emit a .none (Tok.i64 (v.toInt % 2 ^ 64).toNat 0)) ∧
    exec (.lit p .z v a) s = .next (s.emit a .none (Tok.i64 v.toNat 0)) ∧
    exec (.lit p .h v a) s = .next (s.emit a .none (Tok.i64 (v.toNat * 2 ^ 22) 0)) ∧
    exec (.lit p .f v a) s =
      .next (s.emit a .none (Tok.scalarOf (Tag.ofCode (v.toNat / 2 ^ 32 % 16)) (v.toNat % 2 ^ 32) 0))

/-- The exits record what they do at the block edge: EXIT, EXITC, EXITI, CALLB, RETB, TRAPI, BRKS, HALTS and TRAPRET; ENTER
and LEAVE are held with their slot until that edge (R113, R119, R121, R124, R128, R140). -/
def Obligations.ExitsRecordTheirAct : Prop :=
  (∀ (s : State) (p : PMode),
    (s.lastExit p false = true →
      (∀ n, exec (.exit p n) s = .next (s.withExit (.goto n.toNat))) ∧
      (∀ r c, exec (.callb p r c) s = .next (s.withExit (.call c.toNat r.toNat))) ∧
      exec (.retb p) s = .next (s.withExit .ret) ∧
      (∀ c n, exec (.trapi p c n) s = .next (s.withExit (.trapi c.toNat n.toNat))) ∧
      (∀ i n, exec (.brks p i n) s = .next (s.withExit (.brks i.toNat n.toNat))) ∧
      exec (.halts p) s = .next (s.withExit .halts) ∧
      ∀ r, exec (.trapret p false r) s = .next (s.withExit (.trapret r none))) ∧
    (∀ l : Tok, s.lastExit p true = true → s.fire.left = some l →
      (l.tag = .i64 ∨ l.tag = .idx →
        exec (.exiti p) s = .next (s.withExit (.addr (l.data.toNat % 2 ^ 64))) ∧
        ∀ r, exec (.trapret p true r) s = .next (s.withExit (.trapret r (some (l.data.toNat % 2 ^ 64))))) ∧
      (l.tag = .pred → ∀ f t, exec (.exitc p f t) s =
        .next (s.withExit (.goto (if l.lane 1 0 = 1 then t.toNat else f.toNat)))) ∧
      (l.tag.isInt = true ∨ l.tag = .idx → ∀ f t, exec (.exitc p f t) s =
        .next (s.withExit (.goto (if l.lane l.tag.width 0 = 0 then f.toNat else t.toNat)))))) ∧
  ∀ (s : State) (p : PMode), s.ready p = true →
    (∀ i, exec (.enter p i) s = .next ((s.give .none .none none none).modRun s.fire.k fun r =>
      { r with stackOps := put s.fire.slot (some i.toNat) r.stackOps })) ∧
    exec (.leave p) s = .next ((s.give .none .none none none).modRun s.fire.k fun r =>
      { r with stackOps := put s.fire.slot none r.stackOps })

/-- ADD, SUB, MUL, MULH, MIN, MAX, ADDSAT, SUBSAT of two integers of one tag, IDX counting as I64 (R129). -/
def Obligations.IntegerArithmetic : Prop :=
  ∀ (s : State) (p : PMode) (a b : Tgt) (l r : Tok) (w : Nat) (x y : Nat), s.ready p = true →
    s.fire.left = some l → s.fire.right = some r → l.isIntScalar = true → r.isIntScalar = true →
    intTag l.tag = intTag r.tag → w = l.tag.width → x = l.lane w 0 → y = r.lane w 0 →
    let gives := fun (o : Host.Outcome State Fault Refusal) (v : Int) =>
      o = .next (s.emit a b (Tok.scalarOf (intTag l.tag) (v % (2 ^ w : Nat)).toNat l.mark))
    gives (exec (.add p a b) s) (x + y) ∧ gives (exec (.sub p a b) s) (x - y) ∧ gives (exec (.mul p a b) s) (x * y) ∧
    gives (exec (.mulh p .uu a b) s) ((x * y : Int) / (2 ^ w : Nat)) ∧
    gives (exec (.mulh p .ss a b) s) (signed w x * signed w y / (2 ^ w : Nat)) ∧
    gives (exec (.mulh p .su a b) s) (signed w x * y / (2 ^ w : Nat)) ∧
    gives (exec (.min p true a b) s) (min x y) ∧ gives (exec (.max p true a b) s) (max x y) ∧
    gives (exec (.min p false a b) s) (min (signed w x) (signed w y)) ∧
    gives (exec (.max p false a b) s) (max (signed w x) (signed w y)) ∧
    gives (exec (.addsat p true a b) s) (min (x + y) ((2 ^ w : Nat) - 1)) ∧
    gives (exec (.subsat p true a b) s) (max (x - y) 0) ∧
    gives (exec (.addsat p false a b) s)
      (max (-(2 ^ (w - 1) : Nat)) (min (signed w x + signed w y) ((2 ^ (w - 1) : Nat) - 1))) ∧
    gives (exec (.subsat p false a b) s)
      (max (-(2 ^ (w - 1) : Nat)) (min (signed w x - signed w y) ((2 ^ (w - 1) : Nat) - 1)))

/-- No division traps: DIVU and DIVS give the quotient and remainder of R130, with its values for a divisor of 0 and for
the least number divided by -1; and the rule's edge results, one by one. -/
def Obligations.IntegerDivision : Prop :=
  (∀ (s : State) (p : PMode) (a b : Tgt) (l r : Tok) (w : Nat) (x y : Nat), s.ready p = true →
    s.fire.left = some l → s.fire.right = some r → l.isIntScalar = true → r.isIntScalar = true →
    intTag l.tag = intTag r.tag → w = l.tag.width → x = l.lane w 0 → y = r.lane w 0 →
    let gives := fun (o : Host.Outcome State Fault Refusal) (v : Int) =>
      o = .next (s.emit a b (Tok.scalarOf (intTag l.tag) (v % (2 ^ w : Nat)).toNat l.mark))
    let sx := signed w x
    let sy := signed w y
    (y = 0 → gives (exec (.divu p false a b) s) ((2 ^ w : Nat) - 1) ∧ gives (exec (.divu p true a b) s) x) ∧
    (y ≠ 0 → gives (exec (.divu p false a b) s) (x / y : Nat) ∧
      gives (exec (.divu p true a b) s) ((x : Int) - (x / y : Nat) * y)) ∧
    (sy = 0 → gives (exec (.divs p false a b) s) (if 0 ≤ sx then -1 else 1) ∧ gives (exec (.divs p true a b) s) sx) ∧
    (sy = -1 → sx = -(2 ^ (w - 1) : Nat) → gives (exec (.divs p false a b) s) sx ∧
      gives (exec (.divs p true a b) s) 0) ∧
    (sy ≠ 0 → ¬ (sy = -1 ∧ sx = -(2 ^ (w - 1) : Nat)) → gives (exec (.divs p false a b) s) (sx.tdiv sy) ∧
      gives (exec (.divs p true a b) s) (sx - sx.tdiv sy * sy))) ∧
  (∀ (s : State) (p : PMode) (a b : Tgt) (l r : Tok), s.ready p = true → s.fire.left = some l → s.fire.right = some r →
    l.scalar = true → r.scalar = true → l.tag = .i32 → r.tag = .i32 →
    let on := fun (x y : Int) => l.lane 32 0 = (x % (2 ^ 32 : Nat)).toNat ∧ r.lane 32 0 = (y % (2 ^ 32 : Nat)).toNat
    let gives := fun (i : Instr) (z : Int) =>
      exec i s = .next (s.emit a b (Tok.scalarOf .i32 (z % (2 ^ 32 : Nat)).toNat l.mark))
    (on 7 (-2) → gives (.divs p false a b) (-3) ∧ gives (.divs p true a b) 1) ∧
    (on (-7) 2 → gives (.divs p false a b) (-3) ∧ gives (.divs p true a b) (-1)) ∧
    (on 5 0 → gives (.divs p false a b) (-1) ∧ gives (.divs p true a b) 5) ∧
    (on (-7) 0 → gives (.divs p false a b) 1 ∧ gives (.divs p true a b) (-7)) ∧
    (on (-0x80000000) (-1) → gives (.divs p false a b) (-0x80000000) ∧ gives (.divs p true a b) 0) ∧
    (on 7 0 → gives (.divu p false a b) 0xFFFFFFFF ∧ gives (.divu p true a b) 7) ∧
    (on 0x00010000 0x00010000 → gives (.mul p a b) 0) ∧ (on 0x40000000 4 → gives (.mulh p .ss a b) 1) ∧
    (on 0xFFFFFFFF 0xFFFFFFFF → gives (.mulh p .uu a b) 0xFFFFFFFE) ∧
    (on 0x7FFFFFFF 1 → gives (.addsat p false a b) 0x7FFFFFFF) ∧ (on 0xFFFFFFFF 1 → gives (.addsat p true a b) 0xFFFFFFFF) ∧
    (on 0 1 → gives (.subsat p true a b) 0) ∧ (on 1 32 → gives (.shl p a b) 0) ∧ (on 0x80000000 31 → gives (.shr p a b) 1) ∧
    (on (-8) 40 → gives (.sra p a b) (-1)) ∧ (on 0x80000001 33 → gives (.rotl p a b) 3) ∧
    (on (-1) 1 → exec (.cmps p .lt a b) s = .next (s.emit a b (Tok.pred true l.mark)) ∧
      exec (.cmpu p .lt a b) s = .next (s.emit a b (Tok.pred false l.mark)))) ∧
  ∀ (s : State) (p : PMode) (a b : Tgt) (l : Tok), s.ready p = true → s.fire.left = some l → l.scalar = true →
    let gives := fun (i : Instr) (z : Nat) => exec i s = .next (s.emit a b (Tok.scalarOf l.tag z l.mark))
    (l.tag = .i32 → l.lane 32 0 = 0x80000000 → gives (.abs p a b) 0x80000000 ∧ gives (.neg p a b) 0x80000000) ∧
    (l.tag = .i32 → l.lane 32 0 = 0 → gives (.clz p a b) 32) ∧
    (l.tag = .i16 → l.lane 16 0 = 1 → gives (.clz p a b) 15)

/-- AND, OR, XOR and ANDN on two integers of one tag, and on two RAW tokens over all 1,024 data bits and 64 side-band
bits; CMPS and CMPU emit a scalar PRED; SEL takes a PRED or an integer as its third operand (R93, R129). -/
def Obligations.LogicAndComparison : Prop :=
  (∀ (s : State) (p : PMode) (a b : Tgt) (l r : Tok) (w x y : Nat), s.ready p = true →
    s.fire.left = some l → s.fire.right = some r → l.isIntScalar = true → r.isIntScalar = true →
    intTag l.tag = intTag r.tag → w = l.tag.width → x = l.lane w 0 → y = r.lane w 0 →
    let gives := fun (o : Host.Outcome State Fault Refusal) (v : Nat) =>
      o = .next (s.emit a b (Tok.scalarOf (intTag l.tag) v l.mark))
    let holds := fun (o : Host.Outcome State Fault Refusal) (c : Bool) => o = .next (s.emit a b (Tok.pred c l.mark))
    gives (exec (.and p a b) s) (x &&& y) ∧ gives (exec (.or p a b) s) (x ||| y) ∧ gives (exec (.xor p a b) s) (x ^^^ y) ∧
    gives (exec (.andn p a b) s) (x &&& (2 ^ w - 1 - y)) ∧
    holds (exec (.cmpu p .eq a b) s) (x == y) ∧ holds (exec (.cmpu p .ne a b) s) (x != y) ∧
    holds (exec (.cmpu p .lt a b) s) (x < y) ∧ holds (exec (.cmpu p .le a b) s) (x ≤ y) ∧
    holds (exec (.cmps p .eq a b) s) (signed w x == signed w y) ∧
    holds (exec (.cmps p .ne a b) s) (signed w x != signed w y) ∧
    holds (exec (.cmps p .lt a b) s) (signed w x < signed w y) ∧
    holds (exec (.cmps p .le a b) s) (signed w x ≤ signed w y) ∧
    (∀ c : Tok, s.fire.third = some c → c.scalar = true → c.tag = .pred →
      gives (exec (.sel p a b) s) (if c.lane 1 0 = 1 then x else y)) ∧
    ∀ c : Tok, s.fire.third = some c → c.isIntScalar = true →
      gives (exec (.sel p a b) s) (if c.lane c.tag.width 0 = 0 then y else x)) ∧
  ∀ (s : State) (p : PMode) (a b : Tgt) (l r : Tok), s.ready p = true → s.fire.left = some l → s.fire.right = some r →
    l.tag = .raw → r.tag = .raw →
    let gives := fun (o : Host.Outcome State Fault Refusal) (d : BitVec 1024) (e : BitVec 64) =>
      o = .next (s.emit a b { tag := .raw, scalar := l.scalar, data := d, side := e, mark := l.mark })
    gives (exec (.and p a b) s) (l.data &&& r.data) (l.side &&& r.side) ∧
    gives (exec (.or p a b) s) (l.data ||| r.data) (l.side ||| r.side) ∧
    gives (exec (.xor p a b) s) (l.data ^^^ r.data) (l.side ^^^ r.side) ∧
    gives (exec (.andn p a b) s) (l.data &&& ~~~r.data) (l.side &&& ~~~r.side)

/-- SHL, SHR, SRA, ROTL, LEA and BFX read their right operand at its own width; ABS, NEG, CLZ, POPC, ADDI, EXTS, EXTZ, IDX
and LAST need none (R129). -/
def Obligations.ShiftsAndUnaryIntegers : Prop :=
  (∀ (s : State) (p : PMode) (a b : Tgt) (l r : Tok) (w x u : Nat), s.ready p = true →
    s.fire.left = some l → s.fire.right = some r → l.isIntScalar = true → r.isIntScalar = true →
    w = l.tag.width → x = l.lane w 0 → u = r.lane r.tag.width 0 →
    let gives := fun (o : Host.Outcome State Fault Refusal) (v : Int) =>
      o = .next (s.emit a b (Tok.scalarOf (intTag l.tag) (v % (2 ^ w : Nat)).toNat l.mark))
    gives (exec (.shl p a b) s) (if w ≤ u then 0 else (x * 2 ^ u : Nat)) ∧
    gives (exec (.shr p a b) s) (if w ≤ u then 0 else (x / 2 ^ u : Nat)) ∧
    gives (exec (.sra p a b) s) (signed w x / (2 ^ (min u (w - 1)) : Nat)) ∧
    gives (exec (.rotl p a b) s) ((x * 2 ^ (u % w) : Nat) + (x / 2 ^ (w - u % w) : Nat))) ∧
  (∀ (s : State) (p : PMode) (a : Tgt) (l r : Tok) (x u : Nat), s.ready p = true →
    s.fire.left = some l → s.fire.right = some r → l.isIntScalar = true → r.isIntScalar = true →
    x = l.lane l.tag.width 0 → u = r.lane r.tag.width 0 →
    (l.tag = .i64 ∨ l.tag = .idx → ∀ k, exec (.lea p k a) s = .next (s.emit a .none
      (Tok.i64 (((x : Int) + signed r.tag.width u * (2 ^ k.toNat : Nat)) % (2 ^ 64 : Nat)).toNat l.mark))) ∧
    ∀ n : BitVec 6, let v := if u < 64 then x / 2 ^ u % 2 ^ (n.toNat + 1) else 0
      exec (.bfx p false n a) s = .next (s.emit a .none (Tok.i64 v l.mark)) ∧
      exec (.bfx p true n a) s =
        .next (s.emit a .none (Tok.i64 (signed (n.toNat + 1) v % (2 ^ 64 : Nat)).toNat l.mark))) ∧
  ∀ (s : State) (p : PMode) (a b : Tgt) (l : Tok) (w x : Nat), s.ready p = true → s.fire.left = some l →
    (∀ j, exec (.last p j a) s = .next (s.emit a .none (Tok.pred (l.mark.getLsbD j.toNat) l.mark))) ∧
    (l.isIntScalar = true → w = l.tag.width → x = l.lane w 0 →
      let gives := fun (o : Host.Outcome State Fault Refusal) (b : Tgt) (v : Int) =>
        o = .next (s.emit a b (Tok.scalarOf (intTag l.tag) (v % (2 ^ w : Nat)).toNat l.mark))
      gives (exec (.abs p a b) s) b (signed w x).natAbs ∧ gives (exec (.neg p a b) s) b (-signed w x) ∧
      gives (exec (.clz p a b) s) b (clz w x) ∧ gives (exec (.popc p a b) s) b (popcount w x) ∧
      (∀ i, gives (exec (.addi p i a) s) .none (signed w x + i.toInt)) ∧
      (∀ n : BitVec 6,
        exec (.extz p n a) s = .next (s.emit a .none (Tok.i64 (x % 2 ^ (n.toNat + 1)) l.mark)) ∧
        exec (.exts p n a) s = .next (s.emit a .none
          (Tok.i64 (signed (n.toNat + 1) (x % 2 ^ (n.toNat + 1)) % (2 ^ 64 : Nat)).toNat l.mark))) ∧
      exec (.idx p a b) s = .next (s.emit a b (Tok.scalarOf .idx (signed w x % (2 ^ 64 : Nat)).toNat
        (s.fire.right.elim 0 (·.mark)))))

/-- The float group on operands of one format, lane by lane, each result rounded once (R98, R162 to R164). -/
def Obligations.FloatArithmetic : Prop :=
  ∀ (s : State) (p : PMode) (a b : Tgt) (l r : Tok), s.ready p = true → s.fire.left = some l → s.fire.right = some r →
    isF3 l.tag = true → r.tag = l.tag →
    let m := ffmt l.tag
    let x := fun i => m.decode (l.at i)
    let y := fun i => m.decode (r.at i)
    (∀ q, s.lanewise (exec (.fadd p q a b) s) a b l l.tag fun i => m.encode q ((x i).add q (y i))) ∧
    (∀ q, s.lanewise (exec (.fsub p q a b) s) a b l l.tag fun i => m.encode q ((x i).add q (y i).neg)) ∧
    (∀ q, s.lanewise (exec (.fmul p q a b) s) a b l l.tag fun i => m.encode q ((x i).mul (y i))) ∧
    (∀ q u, s.fire.third = some u → u.tag = l.tag →
      s.lanewise (exec (.fma p q a b) s) a b l l.tag fun i => m.encode q (((x i).mul (y i)).add q (m.decode (u.at i)))) ∧
    (∀ n, s.lanewise (exec (.fmin p n a b) s) a b l l.tag fun i => m.encode .rne ((x i).pick false n (y i))) ∧
    (∀ n, s.lanewise (exec (.fmax p n a b) s) a b l l.tag fun i => m.encode .rne ((x i).pick true n (y i))) ∧
    s.lanewise (exec (.fcmp p .eq a b) s) a b l .pred (fun i => if (x i).eqv (y i) then 1 else 0) ∧
    s.lanewise (exec (.fcmp p .un a b) s) a b l .pred (fun i => if (x i).isNan || (y i).isNan then 1 else 0) ∧
    s.lanewise (exec (.fcmp p .le a b) s) a b l .pred (fun i => if (x i).eqv (y i) || (x i).le (y i) then 1 else 0) ∧
    s.lanewise (exec (.fcmp p .lt a b) s) a b l .pred fun i =>
      if !(x i).isNan && !(y i).isNan && !(x i).eqv (y i) && (x i).le (y i) then 1 else 0

/-- The float group's members of one operand and FSCALE, whose right operand is a scalar integer or a vector of the integer tag of the
left's width. Under a vector predicate every member of the group computes the lanes whose bit has the node's sense, and keeps the left
operand's value in every other, where FCMP and FCLASS give 0 (R161 to R164; log 14 for FEXP2 and FLOG2). -/
def Obligations.FloatUnary : Prop :=
  ∀ (s : State) (p : PMode) (a b : Tgt) (l : Tok) (gate : Option Tok), s.fire.left = some l → isF3 l.tag = true →
    (gate = none → s.ready p = true) →
    (∀ u, gate = some u → s.here?.isSome = true ∧ p ≠ .always ∧ s.fire.pred = some u ∧ s.fire.poison? = none ∧
      u.tag = .pred ∧ u.scalar = false) →
    let m := ffmt l.tag
    let x := fun i => m.decode (l.at i)
    let on := fun (i : Nat) => gate.all fun u => (u.lane 1 i == 1) == (p == .onTrue)
    let keeps := fun (o : Host.Outcome State Fault Refusal) (g : Nat → Nat) =>
      s.lanewise o a b l l.tag fun i => if on i then g i else l.at i
    let zeroes := fun (o : Host.Outcome State Fault Refusal) (t : Tag) (g : Nat → Nat) =>
      s.lanewise o a b l t fun i => if on i then g i else 0
    keeps (exec (.fabs p a b) s) (fun i => if (x i).isNan then m.nan else l.at i % 2 ^ (m.ebits + m.mbits)) ∧
    keeps (exec (.fneg p a b) s) (fun i => m.encode .rne (x i).neg) ∧
    (∀ q, keeps (exec (.frcp p q a b) s) (fun i => m.rcp q (x i)) ∧ keeps (exec (.fsqrt p q a b) s) (fun i => m.sqrt q (x i)) ∧
      keeps (exec (.frsq p q a b) s) (fun i => m.rcp q (m.decode (m.sqrt q (x i)))) ∧
      keeps (exec (.fexp2 p q a b) s) (fun i => m.exp2 q (x i)) ∧
      keeps (exec (.flog2 p q a b) s) fun i => m.log2 q (x i)) ∧
    zeroes (exec (.fclass p a b) s) (widthInt l.tag) (fun i => m.class (l.at i)) ∧
    (∀ q n, s.fire.right = some n → n.isIntScalar = true ∨ (n.scalar = false ∧ n.tag = widthInt l.tag) →
      keeps (exec (.fscale p q a b) s) fun i => m.scale q (x i) (signed n.tag.width (n.at i))) ∧
    (gate.isSome = true → ∀ r, s.fire.right = some r → r.tag = l.tag →
      let y := fun i => m.decode (r.at i)
      (∀ q, keeps (exec (.fadd p q a b) s) (fun i => m.encode q ((x i).add q (y i))) ∧
        keeps (exec (.fsub p q a b) s) (fun i => m.encode q ((x i).add q (y i).neg)) ∧
        keeps (exec (.fmul p q a b) s) (fun i => m.encode q ((x i).mul (y i))) ∧
        ∀ u, s.fire.third = some u → u.tag = l.tag →
          keeps (exec (.fma p q a b) s) fun i => m.encode q (((x i).mul (y i)).add q (m.decode (u.at i)))) ∧
      (∀ n, keeps (exec (.fmin p n a b) s) (fun i => m.encode .rne ((x i).pick false n (y i))) ∧
        keeps (exec (.fmax p n a b) s) fun i => m.encode .rne ((x i).pick true n (y i))) ∧
      ∀ c, zeroes (exec (.fcmp p c a b) s) .pred fun i => if fcmpHolds c (x i) (y i) then 1 else 0)

/-- CVT, CVTR, CVTI, CVTF and SATI convert every lane into a vector of the destination tag: between as many lanes lane by
lane; into fewer lanes those of part p; into more lanes those of part p, every other lane from the third operand, or zero
without one; equal tags copy. A part that the lane counts do not have, and a third operand of another tag, give POISON with
cause 0x03 (R97, R98, R166, R167). A scalar left or third operand stands in every lane, as R90 has it; that a conversion reads
a scalar left operand so, and emits a vector, is the model's reading (log 17). -/
def Obligations.Conversions : Prop :=
  ∀ (s : State) (p : PMode) (a : Tgt) (l : Tok) (t : Tag) (y : BitVec 2), s.ready p = true → s.fire.left = some l →
    let ls := Tag.lanes l.tag
    let ld := Tag.lanes t
    let third := fun (i : Nat) => s.fire.third.elim 0 fun u => u.at i
    let each := fun (o : Host.Outcome State Fault Refusal) (g : Nat → Nat) =>
      (y.toNat < max ls ld / min ls ld → (∀ u, s.fire.third = some u → u.tag = t) →
        ∃ r : Tok, o = .next (s.emit a .none r) ∧ r.tag = t ∧ r.scalar = false ∧ r.mark = l.mark ∧
          (ld ≤ ls → ∀ i, i < ld → r.lane t.width i = g (l.at (y.toNat * ld + i)) % 2 ^ t.width) ∧
          (ls < ld → ∀ i, i < ld → r.lane t.width i =
            if y.toNat * ls ≤ i ∧ i < y.toNat * ls + ls then g (l.at (i - y.toNat * ls)) % 2 ^ t.width else third i)) ∧
      (max ls ld / min ls ld ≤ y.toNat ∨ (∃ u, s.fire.third = some u ∧ u.tag ≠ t) →
        o = .next (s.failBoth false a .none 0x03 0x03))
    let keep := fun (g : Nat → Nat) (v : Nat) => if l.tag = t then v else g v
    (l.tag.isFloat = true → t.isFloat = true →
      each (exec (.cvt p y t a) s) (keep fun v => (ffmt t).encode .rne ((ffmt l.tag).decode v)) ∧
      ∀ m, each (exec (.cvtr p m y t a) s) (keep fun v => (ffmt t).encode m ((ffmt l.tag).decode v))) ∧
    (l.tag.isFloat = true → t.isInt = true → ∀ m, each (exec (.cvti p m y t a) s) fun v =>
      (((ffmt l.tag).decode v).toInt m t.width % (2 ^ t.width : Nat)).toNat) ∧
    (l.tag.isInt = true → t.isFloat = true → ∀ m, each (exec (.cvtf p m y t a) s) fun v =>
      (ffmt t).ofInt m (signed l.tag.width v)) ∧
    (l.tag.isInt = true → t.isInt = true →
      each (exec (.sati p .ss y t a) s) (keep fun v =>
        (clampS t.width (signed l.tag.width v) % (2 ^ t.width : Nat)).toNat) ∧
      each (exec (.sati p .su y t a) s) (keep fun v =>
        (clampU t.width (signed l.tag.width v) % (2 ^ t.width : Nat)).toNat) ∧
      each (exec (.sati p .uu y t a) s) (keep fun v => (clampU t.width v % (2 ^ t.width : Nat)).toNat))

/-- PACKB packs its left lanes into block j and takes every other block from its third operand, or zeros without one; UNPACKB
gives a block as F32 lanes; RETAG changes the tag between RAW and a tag it pairs with and between tags of one width, and
gives POISON with cause 0x03 for any other pair; TAGQ (R100, R101, R168, R169). PACKB's side band of a block that holds a NaN, or
whose E1 comes out negative, is the model's choice (log 35); that RETAG takes BFX8 and BFX6 at their width of 8 and 6 bits is deduced
(log 17). -/
def Obligations.BlocksAndTags : Prop :=
  ∀ (s : State) (p : PMode) (a : Tgt) (l : Tok), s.ready p = true → s.fire.left = some l →
    (∀ (f : Bool) (j : BitVec 2) (k : BitVec 4), l.tag = .f32 →
      let g : Tag := if f then .bfx6 else .bfx8
      (∀ u, s.fire.third = some u → u.tag = g) → ∃ t, exec (.packb p f j k a) s = .next (s.emit a .none t) ∧
      t.tag = g ∧ t.scalar = false ∧ t.mark = l.mark ∧
      let e := packBlock g k.toNat ((List.range 32).map fun i => (ffmt .f32).decode (l.at i))
      let old := fun (h : Tok → Nat) => s.fire.third.elim 0 h
      t.side.toNat / 2 ^ (16 * j.toNat) % 2 ^ 16 = (e.2.1 + e.2.2 * 256) % 2 ^ 16 ∧
      (∀ i, i < 32 → t.data.toNat / 2 ^ (bfxW g * (32 * j.toNat + i)) % 2 ^ bfxW g = e.1.getD i 0 % 2 ^ bfxW g) ∧
      ∀ b, b < 4 → b ≠ j.toNat →
        t.side.toNat / 2 ^ (16 * b) % 2 ^ 16 = (old fun u => u.side.toNat / 2 ^ (16 * b) % 2 ^ 16) ∧
        t.data.toNat / 2 ^ (32 * bfxW g * b) % 2 ^ (32 * bfxW g) =
          old fun u => u.data.toNat / 2 ^ (32 * bfxW g * b) % 2 ^ (32 * bfxW g)) ∧
    (∀ (f : Bool) (j : BitVec 2) (k : BitVec 4), l.tag ≠ .f32 ∨
      (∃ u, s.fire.third = some u ∧ u.tag ≠ if f then .bfx6 else .bfx8) →
      exec (.packb p f j k a) s = .next (s.failBoth false a .none 0x03 0x03)) ∧
    (∀ j : BitVec 2, l.tag = .bfx8 ∨ l.tag = .bfx6 → ∃ t, exec (.unpackb p j a) s = .next (s.emit a .none t) ∧
      t.tag = .f32 ∧ t.scalar = false ∧ t.mark = l.mark ∧ ∀ i, i < 32 → t.lane 32 i = (ffmt .f32).encode .rne
        (bfxLane l.tag l.data.toNat l.side.toNat (32 * j.toNat + i)) % 2 ^ 32) ∧
    (∀ t : Tag, (l.tag = .raw ∧ rawPair t = true) ∨ (t = .raw ∧ rawPair l.tag = true) ∨
        (l.tag ≠ .mark ∧ l.tag.width = t.width) →
      exec (.retag p t a) s = .next (s.emit a .none { l with tag := t })) ∧
    (∀ t : Tag, l.tag ≠ .raw → t ≠ .raw → l.tag = .mark ∨ l.tag.width ≠ t.width →
      exec (.retag p t a) s = .next (s.failBoth false a .none 0x03 0x03)) ∧
    (∀ g ∈ [Tag.i8, .f8e4, .f8e5], g.width = 8) ∧ (∀ g ∈ [Tag.i16, .bf16, .f16], g.width = 16) ∧
    exec (.tagq p a) s = .next (s.emit a .none (Tok.i64 (l.tag.code + (if l.scalar then 2 ^ 4 else 0)
      + l.mark.toNat * 2 ^ 5 + (if l.tag = .mark then 0 else Tag.lanes l.tag) * 2 ^ 16) l.mark))

/-- Reductions run over the fixed tree of lanes 2i and 2i + 1; RAND and ROR over the first n lanes; CNTL and FIRSTL over
the lane bits; BCASTL and SLIDE without a right operand place lanes of one operand, SHUF, SLIDE, MASKL, ZIP and UNZIP of two
(R107, R108, R170, R299). -/
def Obligations.LaneReductionsAndMovers : Prop :=
  (∀ (s : State) (p : PMode) (a b : Tgt) (l : Tok), s.ready p = true → s.fire.left = some l →
    let lanes := (List.range (Tag.lanes l.tag)).map l.at
    (laneMove l.tag = true →
      (∀ j : BitVec 7, j.toNat < Tag.lanes l.tag → s.lanewise (exec (.bcastl p j a) s) a .none l l.tag fun _ => l.at j.toNat) ∧
      ∀ d : BitVec 8, d.toNat ≤ Tag.lanes l.tag → s.fire.right = none →
        s.lanewise (exec (.slide p d a) s) a .none l l.tag fun i =>
          if i + d.toNat < Tag.lanes l.tag then l.at (i + d.toNat) else 0) ∧
    (laneArith l.tag = true → laneFloat l.tag = false →
      exec (.rsum p true a b) s = .next (s.emit a b (Tok.scalarOf l.tag
        ((laneTree (laneOp .add l.tag true) 7 lanes).headD 0) l.mark))) ∧
    (laneArith l.tag = true →
      exec (.rsum p false a b) s = .next (s.emit a b (Tok.scalarOf l.tag
        ((laneTree (laneOp .add l.tag false) 7 lanes).headD 0) l.mark)) ∧
      ∀ n, exec (.rmax p n a b) s = .next (s.emit a b (Tok.scalarOf l.tag
          ((laneTree (laneOp .max l.tag n) 7 lanes).headD 0) l.mark)) ∧
        exec (.rmin p n a b) s = .next (s.emit a b (Tok.scalarOf l.tag
          ((laneTree (laneOp .min l.tag n) 7 lanes).headD 0) l.mark))) ∧
    (∀ n : BitVec 7, l.tag.isInt = true ∨ l.tag = .pred → n.toNat + 1 ≤ Tag.lanes l.tag →
      exec (.rand p n a) s = .next (s.emit a .none (Tok.scalarOf l.tag
        (((lanes.take (n.toNat + 1)).drop 1).foldl (· &&& ·) (l.at 0)) l.mark)) ∧
      exec (.ror p n a) s = .next (s.emit a .none (Tok.scalarOf l.tag
        (((lanes.take (n.toNat + 1)).drop 1).foldl (· ||| ·) (l.at 0)) l.mark))) ∧
    (l.tag = .pred →
      exec (.cntl p a b) s = .next (s.emit a b (Tok.i64 lanes.sum l.mark)) ∧
      exec (.firstl p a b) s = .next (s.emit a b (Tok.i64 ((lanes.findIdx? (· == 1)).getD 128) l.mark)))) ∧
  ∀ (s : State) (p : PMode) (a b : Tgt) (l r : Tok), s.ready p = true → s.fire.left = some l → s.fire.right = some r →
    laneMove l.tag = true →
    let n := Tag.lanes l.tag
    (r.tag.isInt = true → r.scalar = true ∨ Tag.lanes r.tag = n →
      s.lanewise (exec (.shuf p a b) s) a b l l.tag fun i => if r.at i < n then l.at (r.at i) else 0) ∧
    (∀ d : BitVec 8, d.toNat ≤ n → r.tag = l.tag → s.lanewise (exec (.slide p d a) s) a .none l l.tag fun i =>
      if i + d.toNat < n then l.at (i + d.toNat) else r.at (i + d.toNat - n)) ∧
    (r.tag = .pred → s.lanewise (exec (.maskl p a b) s) a b l l.tag fun i => if r.at i = 1 then l.at i else 0) ∧
    (r.tag = l.tag → ∃ x y : Tok,
      exec (.zip p a b) s = .next (s.give a b (some (.tok x)) (some (.tok y))) ∧ x.tag = l.tag ∧ y.tag = l.tag ∧
      ∀ i, i < n / 2 → x.lane l.tag.width (2 * i) = l.at i ∧ x.lane l.tag.width (2 * i + 1) = r.at i ∧
        y.lane l.tag.width (2 * i) = l.at (n / 2 + i) ∧ y.lane l.tag.width (2 * i + 1) = r.at (n / 2 + i)) ∧
    (r.tag = l.tag → ∃ x y : Tok,
      exec (.unzip p a b) s = .next (s.give a b (some (.tok x)) (some (.tok y))) ∧ x.tag = l.tag ∧ y.tag = l.tag ∧
      ∀ i, i < n / 2 → x.lane l.tag.width i = l.at (2 * i) ∧ x.lane l.tag.width (n / 2 + i) = r.at (2 * i) ∧
        y.lane l.tag.width i = l.at (2 * i + 1) ∧ y.lane l.tag.width (n / 2 + i) = r.at (2 * i + 1))

/-- SCANA and SEGSC scan in ascending lane order, from the carry where there is one and no head bit stands at lane 0, and offer the
last lane to target B; RTREE combines its operands lane by lane, or emits its left operand without a right one. A token for the
node's own carry position is held for the next iteration, or discarded after marker bit 0, and every other target gets its token; the
held token is the next iteration's operand there (R107, R170 to R173). -/
def Obligations.ScansAndTrees : Prop :=
  (∀ (s : State) (p : PMode) (o : ScanOp) (a b : Tgt) (l : Tok), s.ready p = true → s.fire.left = some l →
    laneArith l.tag = true →
    let n := Tag.lanes l.tag
    let w := l.tag.width
    let f := laneOp o l.tag false
    let scans := fun (i : Instr) (pos : Pos) (c : Option Tok) (head : Nat → Bool) =>
      ∃ x y : Tok, exec i s = .next (s.giveCarried pos a b x y) ∧ x.tag = l.tag ∧ x.scalar = false ∧ x.mark = l.mark ∧
        x.lane w 0 = (match c with
          | some c => if head 0 then l.at 0 else f (c.at 0) (l.at 0) % 2 ^ w
          | none => l.at 0) ∧
        (∀ i, i + 1 < n → x.lane w (i + 1) =
          if head (i + 1) then l.at (i + 1) else f (x.lane w i) (l.at (i + 1)) % 2 ^ w) ∧
        y = Tok.scalarOf l.tag (x.lane w (n - 1)) l.mark
    (∀ c : Option Tok, s.fire.right = c → (∀ t, c = some t → t.scalar = true ∧ t.tag = l.tag) →
      scans (.scana p o a b) .right c fun _ => false) ∧
    (∀ (h : Tok) (c : Option Tok), s.fire.right = some h → h.tag = .pred → s.fire.third = c →
      (∀ t, c = some t → t.scalar = true ∧ t.tag = l.tag) → scans (.segsc p o a b) .third c fun i => h.at i == 1) ∧
    ∃ x : Tok, x.tag = l.tag ∧ x.scalar = false ∧ x.mark = l.mark ∧
      (s.fire.right = none → exec (.rtree p o a b) s = .next (s.giveCarried .right a b x x) ∧
        ∀ i, i < n → x.lane w i = l.at i) ∧
      ∀ r : Tok, s.fire.right = some r → r.tag = l.tag →
        exec (.rtree p o a b) s = .next (s.giveCarried .right a b x x) ∧
        ∀ i, i < n → x.lane w i = f (l.at i) (r.at i) % 2 ^ w) ∧
  (∀ (s : State) (pos : Pos) (a b : Tgt) (x y : Tok),
    let keeps := fun (u : State) (t : Tok) => u.modRun s.fire.k fun q => q.modNode s.fire.copy s.fire.slot fun m =>
      { m with carry := if s.fire.marks.getLsbD 0 then none else some t }
    let gives := fun (a b : Tgt) => s.give a b (some (.tok x)) (some (.tok y))
    (isCarry pos s.fire.slot a = false → isCarry pos s.fire.slot b = false → s.giveCarried pos a b x y = gives a b) ∧
    (isCarry pos s.fire.slot a = true → isCarry pos s.fire.slot b = false →
      s.giveCarried pos a b x y = keeps (gives .none b) x) ∧
    (isCarry pos s.fire.slot a = false → isCarry pos s.fire.slot b = true →
      s.giveCarried pos a b x y = keeps (gives a .none) y)) ∧
  ∀ (r : Run) (g : Region) (n : Node) (i : Instr) (pos : Pos) (it : Nat), r.blk.instr? n.slot = some i →
    carryPos i = some pos → (∀ l ∈ r.links, l.copy = n.copy → l.slot = n.slot → l.pos ≠ pos) →
    (∀ t, n.carry = some t → r.posVal g n pos it = .tok t false) ∧ (n.carry = none → r.posVal g n pos it = .absent)



/-! ### Group 0x6 and LOOPN -/

/-- MLDB fills the slot being filled of its tile's operand window; MCLM claims slots and MREL releases them, each with a
completion token, where the window has room or holds them (R174, R177). -/
def Obligations.OperandWindow : Prop :=
  ∀ (s : State) (p : PMode) (a : Tgt) (x : Strand) (d tile : Nat) (l : Tok), s.ready p = true → s.idle = true →
    s.site? = some (x, d, tile) → s.fire.left = some l →
    let o := (s.die d).opwin tile
    (l.tag ≠ .mark → ¬ (o.claim = 0 ∧ o.free = 0) → (o.frow = 0 ∨ ∀ r, look (o.tail.toNat * 64) o.rows = some r → r.tag = l.tag) →
      exec (.mldb p a) s = .next (((s.setOpwin d tile (o.fill l)).soil s.fire.k tile 1 (o.tail.toNat % 32)).emit a .none
        (Tok.done s.fire.its))) ∧
    (∀ r, l.tag ≠ .mark → ¬ (o.claim = 0 ∧ o.free = 0) → o.frow ≠ 0 → look (o.tail.toNat * 64) o.rows = some r → r.tag ≠ l.tag →
      exec (.mldb p a) s = .next (((s.setOpwin d tile (o.fill l)).soil s.fire.k tile 1 (o.tail.toNat % 32)).failBoth true a .none
        0x03 0x03)) ∧
    (∀ n : BitVec 6, o.claim + n.toNat ≤ o.free → exec (.mclm p n a) s =
      .next ((s.setOpwin d tile { o with claim := o.claim + n.toNat }).emit a .none (Tok.done s.fire.its))) ∧
    ∀ n : BitVec 6, n.toNat ≤ o.extent → exec (.mrel p n a) s =
      .next ((s.setOpwin d tile (o.release n.toNat)).emit a .none (Tok.done s.fire.its))

/-- MROW and MROWT add the exact products of the A row and the B tile to the accumulators of the row named, drain them on the marker
under `.DB` and `.DF`, and last fill the operand window with their right operand, where the format is not F32 and one is named (R103,
R175, R177, R178). -/
def Obligations.MatrixRows : Prop :=
  ∀ (s : State) (p : PMode) (g : Bool) (j : BitVec 3) (o : BitVec 5) (t : Tgt) (x : Strand) (d tile a n : Nat) (l : Tok),
    s.ready p = true → s.idle = true → s.site? = some (x, d, tile) → s.fire.left = some l →
    wordOperand s.fire.third = .ok a → matSlots l.tag = some n → a ≤ 63 → (matWide l.tag = true → a % 2 = 0) →
    (l.tag = .f32 → ∃ r, s.fire.right = some r ∧ r.tag = .f32) → (s.die d).armed = [] →
    let w := (s.die d).opwin tile
    (∀ r, s.fire.right = some r → l.tag ≠ .f32 → r.tag ≠ .mark ∧ ¬ (w.claim = 0 ∧ w.free = 0) ∧
      (w.frow = 0 ∨ ∀ q, look (w.tail.toNat * 64) w.rows = some q → q.tag = r.tag)) →
    let flats := (List.range (if matWide l.tag then 128 else 64)).map (64 * a + ·)
    let bt := (w.row o.toNat 0).tag
    let as := if l.tag = .f32 then l.matVals 32 ++ ((s.fire.right.map fun r => r.matVals 32).getD [])
      else l.matVals (if matWide l.tag then 128 else 64)
    o.toNat + n ≤ w.extent → (∀ i, i < n → matPair l.tag (w.row (o.toNat + i) 0).tag = true) →
    (∀ f ∈ flats, ((s.die d).acc tile f).tag = 0 ∨ ((s.die d).acc tile f).tag = 15 ∨
      ((s.die d).acc tile f).tag.toNat = bt.code) →
    (∀ i, i < 64 * n → (w.row (o.toNat + i / 64) (i % 64)).bad = false) →
    let added := fun (tr : Bool) => s.modAccs d tile flats fun f v =>
      { v.addProducts as (matColumn (w.tileRows o.toNat l.tag) tr (f - 64 * a)) with tag := BitVec.ofNat 4 bt.code }
    let freed := fun (u : State) =>
      if g && l.marker j.toNat then u.setOpwin d tile (((u.die d).opwin tile).release n) else u
    let drop := fun (u : State) => u.modAccs d tile flats fun _ v => v.cleared
    let filled := fun (u : State) (r : Tok) => let v := (u.die d).opwin tile
      (u.setOpwin d tile (v.fill r)).soil s.fire.k tile 1 (v.tail.toNat % 32)
    let ends := fun (u : State) (item : Option Item) => Host.Outcome.next (match s.fire.right with
      | some r => if l.tag = .f32 then u.give t .none item none
          else (filled (match item with | some i => u.offerA i | none => u) r).give t .none none none
      | none => u.give t .none item none)
    ∀ tr : Bool, let go := fun (e : DrainK) => if tr then exec (.mrowt p e g j o t) s else exec (.mrow p e g j o t) s
      let drain := fun (c : Tag) => some (Item.tok (((added tr).die d).drained tile (64 * a) c l.mark))
      go .none = ends (freed (added tr)) none ∧
      (l.marker j.toNat = false → go .db = ends (added tr) (some .skip) ∧ go .df = ends (added tr) (some .skip)) ∧
      (l.marker j.toNat = true → go .db = ends (freed (drop (added tr))) (drain .bf16) ∧
        (matWide l.tag = false → go .df = ends (freed (drop (added tr))) (drain .f32)) ∧
        (matWide l.tag = true → go .df = .next ((added tr).failBoth true t .none 0x03 0x03)))

/-- MACR clears accumulators, MANC anchors them, MDRN and MDRK drain a part of a row with one rounding, MSTAT reads eight
accumulators (R105, R179). -/
def Obligations.Accumulators : Prop :=
  ∀ (s : State) (p : PMode) (t : Tgt) (x : Strand) (d tile : Nat) (l : Tok), s.ready p = true → s.idle = true →
    s.site? = some (x, d, tile) → s.fire.left = some l → x.dbgctl.getLsbD 3 = false → (s.die d).armed = [] →
    (∀ (n : BitVec 4) (r : BitVec 6), exec (.macr p n r t) s = .next ((s.modAccs d tile (accRows r.toNat (n.toNat + 1))
      fun _ v => v.cleared).emit t .none (Tok.done s.fire.its))) ∧
    (∀ (n : BitVec 4) (r : BitVec 6), l.isIntScalar = true →
      let e := signed l.tag.width (l.lane l.tag.width 0)
      e ≥ -512 → e ≤ 511 → exec (.manc p n r t) s = .next ((s.modAccs d tile (accRows r.toNat (n.toNat + 1)) fun _ v =>
        { v.cleared with acc := 0, anchor := BitVec.ofInt 10 e, aset := true, pinned := true }).emit t .none
          (Tok.done s.fire.its))) ∧
    (∀ (y : BitVec 2) (g : Tag), l.isIntScalar = true →
      let f0 := 64 * l.lane l.tag.width 0 + Tag.lanes g * y.toNat
      f0 + Tag.lanes g ≤ 4096 →
      exec (.mdrk p y g t) s = .next (s.emit t .none ((s.die d).drained tile f0 g s.fire.marks)) ∧
      exec (.mdrn p y g t) s = .next ((s.modAccs d tile ((List.range (Tag.lanes g)).map (f0 + ·)) fun _ v =>
        v.cleared).emit t .none ((s.die d).drained tile f0 g s.fire.marks))) ∧
    ∀ (g : BitVec 3) (r : BitVec 6), ∃ k : Tok, exec (.mstat p g r t) s = .next (s.emit t .none k) ∧ k.tag = .raw ∧
      ∀ i, i < 8 → k.data.toNat / 2 ^ (128 * i) % 2 ^ 128 =
        ((s.die d).acc tile (64 * r.toNat + 8 * g.toNat + i)).word % 2 ^ 128

/-- LOOPN runs all its iterations in one firing, in order, where every window it names carries its tag and holds the element that each
iteration names with no end of stream before it, and the strand drains the window of operand 0 and no marker stands there: the firing
is done with no token and no trap, and memory is as it was. Each iteration writes the lane effect of the operation into the lane of
operand 0, in its place, and leaves every other lane of the window and every other window as they were; a row of a 64-byte element holds
the lanes that lie whole in it, and nothing above them (R145, R150, R182, R183). -/
def Obligations.LoopNest : Prop :=
  ∀ (s : State) (x : LoopN) (y : Strand) (r : Run) (n : Node), s.ready .always = true → s.idle = true →
    s.here? = some (y, r, n) →
    let tile := r.blk.tileOf y.region s.fire.copy s.fire.slot
    LoopN.tagsOk x y tile = true → x.tag ≠ .mark →
    (∀ i k, i < LoopN.count x → k < x.op.operands → ∃ e w p, LoopN.place x y tile k i = some (e, w, some p) ∧
      p.elem < w.extent ∧ w.eosBelow p.elem = false ∧
      (k = 0 → look e y.wins = some w ∧ w.drainer.toNat = strandId s.fire.k ∧ (w.row p.elem 0).tag ≠ .mark)) →
    (∃ t : State, exec (.loopn x) s = .next t ∧ t.mem = s.mem ∧
      (t.run? s.fire.k = (s.run? s.fire.k).map fun q => q.finish s.fire .none .none none none) ∧
      ∃ u : Nat → State, u 0 = s ∧ (∀ i, i < LoopN.count x → LoopN.iter x (u i) tile i = .ok (u (i + 1))) ∧
        t = (u (LoopN.count x)).give .none .none none none) ∧
    ∀ (i : Nat) (u v : State) (z : Strand) (e : Nat) (w : Win) (p : LanePos), u.fire = s.fire → u.strand? s.fire.k = some z →
      LoopN.iter x u tile i = .ok v → LoopN.place x z tile 0 i = some (e, w, some p) → look e z.wins = some w →
      let lane := fun (k : Nat) => match LoopN.place x z tile k i with
        | some (ek, _, some q) => (look ek z.wins).elim 0 fun wk => (wk.row q.elem q.row).lane x.tag.width q.lane
        | _ => 0
      let f := ffmt x.tag
      let val := fun (k : Nat) => f.decode (lane k)
      let whole := fun (g : Int → Int → Int) => (g (signed 32 (lane 1)) (signed 32 (lane 2)) % (2 ^ 32 : Nat)).toNat
      let rounded := fun (o : FVal) => f.encode .rne o % 2 ^ x.tag.width
      (∃ w' : Win, v.win? s.fire.k e = some w' ∧
        (w'.row p.elem p.row).tag = x.tag ∧
        (∀ j, j < Tag.lanes x.tag → j ≠ p.lane → x.tag.width * (j + 1) ≤ 8 * w.rowBytes →
          (w'.row p.elem p.row).lane x.tag.width j = (w.row p.elem p.row).lane x.tag.width j) ∧
        (w'.row p.elem p.row).data.toNat < 2 ^ (8 * w.rowBytes) ∧
        (x.tag.width * (p.lane + 1) ≤ 8 * w.rowBytes →
          let now := (w'.row p.elem p.row).lane x.tag.width p.lane
          (x.op = .copy → now = lane 1) ∧
          (x.tag = .i32 →
            (x.op = .add → now = whole (· + ·)) ∧ (x.op = .mul → now = whole (· * ·)) ∧
            (x.op = .max → now = whole max) ∧ (x.op = .min → now = whole min)) ∧
          (x.tag = .f32 ∨ x.tag = .bf16 ∨ x.tag = .f16 →
            (x.op = .add → now = rounded ((val 1).add .rne (val 2))) ∧
            (x.op = .mul → now = rounded ((val 1).mul (val 2))) ∧
            (x.op = .mac → now = rounded ((val 0).add .rne ((val 1).mul (val 2)))) ∧
            (x.op = .max → now = rounded (FVal.pick true false (val 1) (val 2))) ∧
            (x.op = .min → now = rounded (FVal.pick false false (val 1) (val 2))))) ∧
        ∀ a b, (a ≠ p.elem ∨ b ≠ p.row) → b < w.rpe → a < w.extent → w'.row a b = w.row a b) ∧
      ∀ k c, k ≠ s.fire.k ∨ c ≠ e → v.win? k c = u.win? k c


/-! ### Windows: group 0x7 and the port nodes -/

/-- WRD reads a row at an offset and carries its left operand's markers; WRDB gathers lanes of several rows; PSRC reads the
head row without markers and shrinks the window by one; WEXT reports the window (R150, R151, R152, R154, R271). -/
def Obligations.WindowReads : Prop :=
  ∀ (s : State) (p : PMode) (a : Tgt) (x : Strand) (v : Win), s.ready p = true → s.idle = true →
    s.strand? s.fire.k = some x → (s.die x.die).armed = [] →
    (∀ (w : BitVec 10) (n : Nat), look w.toNat x.wins = some v → wordOperand s.fire.left = .ok n →
      let e := n / v.rpe
      e < v.extent → v.extent ≤ v.cap → v.eosBelow e = false → x.stopsAt w.toNat v e = false →
      (v.row e (n % v.rpe)).bad = false → (v.vmode = false ∨ v.invalidWord (v.row e (n % v.rpe)) = none) →
      exec (.wrd p w a) s = .next ((s.readElems s.fire.k v e 1).emit a .none ((v.row e (n % v.rpe)).tok s.fire.marks))) ∧
    (∀ (w : BitVec 10) (n sh rows lane0 k : Nat), look w.toNat x.wins = some v → wordOperand s.fire.left = .ok n →
      i64Operand s.fire.right = .ok sh → v.shaped = true → shapeOf sh (Tag.lanes v.tag) = some (rows, lane0, k) →
      n + rows ≤ v.extent → v.extent ≤ v.cap → v.eosBelow (n + rows - 1) = false →
      x.stopsAt w.toNat v (n + rows - 1) = false →
      (∀ i, i < rows → (v.row (n + i) 0).bad = false ∧ (v.vmode = false ∨ v.invalidWord (v.row (n + i) 0) = none)) →
      exec (.wrdb p w a) s = .next ((s.readElems s.fire.k v n rows).emit a .none (Tok.vectorOf v.tag ((List.range (Tag.lanes v.tag)).map fun i =>
        if i < rows * k then
          (v.row (n + i / k) 0).data.toNat / 2 ^ (v.tag.width * (lane0 + i % k)) % 2 ^ v.tag.width
        else 0) s.fire.marks))) ∧
    (∀ n : BitVec 7, look n.toNat x.wins = some v → v.drainer.toNat = strandId s.fire.k → 1 ≤ v.extent →
      x.stopsAt n.toNat v 0 = false → (v.row 0 0).bad = false →
      (v.vmode = false ∨ v.invalidWord (v.row 0 0) = none) →
      exec (.psrc p n a) s =
        .next (((s.readElems s.fire.k v 0 1).shrinkWin s.fire.k n.toNat 1).emit a .none ((v.row 0 0).tok 0))) ∧
    ∀ w : BitVec 10, look w.toNat x.wins = some v →
      exec (.wext p w a) s = .next (s.emit a .none (Tok.i64 (extStatus v.extent v.free
        (match v.state with | .closed => 0 | .opened => 1 | .linked => 2) v.eos (v.ring != 0)) s.fire.marks))

/-- WUP replaces a row that stands in the window, WSH and WFREE shrink it, for its drainer; WOPEN opens a window and
WCLOSE closes one and ends the binding of its producer's port (R146, R148, R150, R152, R155). -/
def Obligations.WindowUpdates : Prop :=
  ∀ (s : State) (p : PMode) (w : BitVec 10) (a : Tgt) (x : Strand), s.ready p = true → s.idle = true →
    s.strand? s.fire.k = some x →
    let done := fun (t : State) => Host.Outcome.next (t.emit a .none (Tok.done s.fire.its))
    (∀ v : Win, look w.toNat x.wins = some v → v.drainer.toNat = strandId s.fire.k →
      (∀ (n : Nat) (t : Tok), wordOperand s.fire.left = .ok n → s.fire.right = some t →
        let e := n / v.rpe
        e < v.extent → v.extent ≤ v.cap → v.eosBelow e = false → (v.row e 0).tag ≠ .mark →
        (t.tag = v.tag ∨ v.tag = .raw) →
        exec (.wup p w a) s = done (((s.readElems s.fire.k v e 1).modWin s.fire.k w.toNat fun v =>
          v.setRow e (n % v.rpe) (v.rowOf t)).soil s.fire.k v.tile 0 (v.sram (v.head + BitVec.ofNat 32 e) (n % v.rpe) / 256))) ∧
      (∀ n : Nat, wordOperand s.fire.left = .ok n → n ≤ v.extent → v.extent ≤ v.cap →
        (n = 0 ∨ x.stopsAt w.toNat v (n - 1) = false) →
        exec (.wsh p w a) s = done (s.shrinkWin s.fire.k w.toNat n)) ∧
      exec (.wfree p w a) s = done (s.shrinkWin s.fire.k w.toNat v.extent)) ∧
    (∀ v : Win, look w.toNat x.wins = some v → v.filling = false →
      let unbound := match v.producer with
        | some (j, n) => s.modStrand j fun y => { y with chans := y.chans.filter fun c => c != (n, s.fire.k, w.toNat) }
        | none => s
      exec (.wclose p w a) s = done (unbound.modStrand s.fire.k fun y => { y with wins := del w.toNat y.wins })) ∧
    ∀ n : Nat, i64Operand s.fire.left = .ok n → n < 2 ^ 53 → look w.toNat x.wins = none → look w.toNat x.chans = none →
      let g := Tag.ofCode (bits n 22 19)
      let tile := 16 * (x.region.r + bits n 31 28) + x.region.c + bits n 27 24
      let lo := bits n 52 38 * 64
      let hi := lo + 64 * 2 ^ bits n 18 16 * (bits n 15 0 + 1)
      g ≠ .mark → g ≠ .poison → bits n 31 28 < x.region.rows → bits n 27 24 < x.region.cols →
      (tile / 16 + tile) % 2 = 0 → (∀ e ∈ x.wins, e.2.tile = tile → e.2.index ≠ bits n 37 32) → hi ≤ 2 ^ 21 →
      x.sramMeets tile lo hi = false →
      exec (.wopen p w a) s = done (s.modStrand s.fire.k fun y => { y with
        wins := put w.toNat (Win.opened s.fire.k tile (bits n 37 32) (bits n 15 0) (bits n 18 16) g (bits n 52 38)
          (bit n 23)) y.wins })

/-- In their turn, fills of an own window put what they carry at its tail: WFL a row, WFLB several, WMARK, WEOS, PSNK and the
splice markers an element of tag MARK (R146, R147, R150, R151, R154, R185, R189). -/
def Obligations.WindowFills : Prop :=
  ∀ (s : State) (p : PMode) (a : Tgt) (x : Strand) (v : Win) (w : Nat), s.ready p = true → s.idle = true →
    s.strand? s.fire.k = some x → (x.run.any fun r => r.fillTurn x.region s.fire w) = true → look w x.chans = none →
    look w x.wins = some v → v.filler.toNat = strandId s.fire.k → v.eos = false → s.openTo s.fire.k = true →
    let filled := fun (f : Win → Win) => Host.Outcome.next ((s.fillBy s.fire.k s.fire.k w f).emit a .none (Tok.done s.fire.its))
    (∀ n : BitVec 7, n.toNat = w → ∀ (j : BitVec 3) (l : Tok), s.fire.left = some l → l.marker j.toNat = false →
      exec (.psnk p j n a) s = .next (s.emit a .none (Tok.done s.fire.its))) ∧
    (v.frow ≠ 0 ∨ 1 ≤ v.free →
      (∀ n : BitVec 7, n.toNat = w → ∀ (j : BitVec 3) (l : Tok), s.fire.left = some l → l.marker j.toNat = true →
        exec (.psnk p j n a) s = filled (·.putMarker 0x01)) ∧
      ∀ n : BitVec 10, n.toNat = w →
        (∀ l : Tok, s.fire.left = some l → l.tag ≠ .mark → (l.tag = v.tag ∨ v.tag = .raw) →
          exec (.wfl p n a) s = filled fun u => u.putRow (u.rowOf l)) ∧
        (s.fire.left.isSome = true → exec (.weos p n a) s = filled (·.putMarker 0x01)) ∧
        (∀ l : Tok, s.fire.left = some l → (l.tag = .i64 ∨ l.tag = .raw) →
          ¬ (0x04 ≤ l.data.toNat % 256 ∧ l.data.toNat % 256 ≤ 0x0F) →
          exec (.wmark p n a) s = filled (·.putMarker (l.data.toNat % 2 ^ 64))) ∧
        ∀ d : Nat, s.myTurn true (some .package) = true → spliceAddr 64 s.fire.left = .ok d →
          exec (.splins p n a) s = filled (·.putMarker (0x02 + d * 2 ^ 8)) ∧
          exec (.splrem p n a) s = filled (·.putMarker (0x102 + d * 2 ^ 8)) ∧
          exec (.splbnd p n a) s = filled (·.putMarker (0x202 + d * 2 ^ 8))) ∧
    ∀ (n : BitVec 10) (l : Tok) (sh rows lane0 k : Nat), n.toNat = w → s.fire.left = some l →
      i64Operand s.fire.right = .ok sh → v.shaped = true → shapeOf sh (Tag.lanes v.tag) = some (rows, lane0, k) →
      rows ≤ v.free → l.tag = v.tag →
      exec (.wflb p n a) s = filled fun u => (List.range rows).foldl (fun z r => z.putRow (v.rowOf (Tok.vectorOf v.tag
        ((List.range (Tag.lanes v.tag)).map fun i =>
          if lane0 ≤ i ∧ i < lane0 + k then l.lane v.tag.width (if l.scalar then 0 else r * k + i - lane0) else 0) 0))) u

/-- WSAVE sends the window's image to memory, line by line, and waits for the acknowledgements; WREST takes an image of the
window's shape out of memory into an empty window (R152). The elements saved bring what their fills had seen, those restored take on
what the read has seen (R67; log 31). -/
def Obligations.WindowImages : Prop :=
  ∀ (s : State) (p : PMode) (w : BitVec 10) (a : Tgt) (x : Strand) (v : Win) (m : Nat), s.ready p = true →
    s.strand? s.fire.k = some x → look w.toNat x.wins = some v → wordOperand s.fire.left = .ok m → m % 64 = 0 →
    m < 2 ^ 56 →
    (let seen := x.stamp.join (v.seen (v.slots v.head v.extent));
      s.myTurn true none = true → s.reachable x x.lead seen m v.image.length = true →
      ∃ (n : Nat) (st : Stamp) (u : State), n = (pieces m v.image.length).length ∧
        s.dwrite x.ctx x.die ⟨x.lead, s.fire.req⟩ seen s.fire.req true m v.image =
          .ok (n, st, u) ∧
        exec (.wsave p w a) s = .next ((u.modStrand s.fire.k fun y => { y with stamp := st }).park .memory none [n])) ∧
    (s.myTurn false none = true → s.quiet x.stamp = true → (s.die 0).armed = [] →
      s.mapped x.ctx x.die .rd m 32 = true → v.takes (s.vpeek x.ctx x.die m 32) = true →
      let d := leNat (s.vpeek x.ctx x.die m 32)
      let n := (BitVec.ofNat 32 (bits d 63 32) - BitVec.ofNat 32 (bits d 31 0)).toNat
      let len := 32 + n * v.rpe * (16 + v.rowBytes)
      s.mapped x.ctx x.die .rd m len = true →
      ∃ t : State, exec (.wrest p w a) s = .next (t.emit a .none (Tok.done s.fire.its)) ∧
        (let q := v.restored (s.vpeek x.ctx x.die m len);
          t.win? s.fire.k w.toNat =
            some { q with stamps := joinStamps (q.slots q.head n) (x.stamp.join s.depAll) v.stamps }) ∧ t.mem = s.mem)

/-- WLINK gives an open window a producer and binds the producer's port to it; WSPL gives a linked window a spill ring and
evaluates the fills that wait on its link at once, and `.OFF` takes an empty ring away or waits for it to drain (R155, R156, R273). -/
def Obligations.ChannelsAndSpillRings : Prop :=
  ∀ (s : State) (p : PMode) (w : BitVec 10) (a : Tgt) (x : Strand) (v : Win), s.ready p = true → s.idle = true →
    s.strand? s.fire.k = some x → look w.toNat x.wins = some v →
    let done := fun (t : State) => Host.Outcome.next (t.emit a .none (Tok.done s.fire.its))
    (∀ (n : Nat) (y : Strand), i64Operand s.fire.left = .ok n → n < 2 ^ 17 → v.state = .opened →
      let j := strandKey (bits n 1 0) (bits n 9 2)
      let port := bits n 16 10
      s.strand? j = some y → look port y.wins = none → look port y.chans = none → y.lives = true →
      exec (.wlink p w a) s = done ((s.modStrand j fun y => { y with chans := put port (s.fire.k, w.toNat) y.chans }).modWin
        s.fire.k w.toNat fun v => { v with
          state := .linked, filler := BitVec.ofNat 16 (0x8000 + strandId j % 2 ^ 13), producer := some (j, port) })) ∧
    (v.state = .linked → v.closing = false →
      (∀ b n : Nat, v.spill = false → wordOperand s.fire.left = .ok b → wordOperand s.fire.right = .ok n →
        b % 4096 = 0 → b < 2 ^ 56 → n ≤ 15 →
        exec (.wspl p false w a) s = done ((s.modWin s.fire.k w.toNat fun v => { v with
          spill := true, rbase := BitVec.ofNat 56 b, rsize := BitVec.ofNat 4 n }).fillAll s.fire.k w.toNat)) ∧
      (v.spill = true → s.fire.left.isSome = true →
        (v.ring = 0 → v.rrow = 0 →
          exec (.wspl p true w a) s = done (s.modWin s.fire.k w.toNat fun v => { v with spill := false })) ∧
        (v.ring ≠ 0 ∨ v.rrow ≠ 0 →
          exec (.wspl p true w a) s = .next ((s.modWin s.fire.k w.toNat fun v => { v with closing := true }).park
            (.winFill s.fire.k w.toNat 0) none [1]))))

/-! ### Generic memory: group 0x8 -/

/-- In its turn in the memory sequence, or unordered, a load, store, atomic, acquire, release or MONA begins an access of the
address, width, data and operation that its operands name; LDK reads the constant store at once (R59, R60, R62, R79 to R84, R88).
That what LDK reads carries no marker bits is deduced (log 17). -/
def Obligations.MemoryAccesses : Prop :=
  ∀ (s : State) (p : PMode) (t : Tag) (a : Tgt) (x : Strand) (l : Tok), s.ready p = true →
    s.strand? s.fire.k = some x → s.fire.left = some l → (l.tag = .i64 ∨ l.tag = .idx) →
    let va := l.word.toNat
    let w := t.width / 8
    va < 2 ^ 56 →
    let begins := fun (o : Host.Outcome State Fault Refusal) (op : AccOp) (vec acq : Bool) =>
      let c : Access := { va := va, w := if vec then 128 else w, op := op, tag := t, vec := vec, acq := acq }
      s.canIssue x c = true → o = .next (s.issued x c)
    (va % w = 0 →
      (∀ u : Bool, (u = true ∨ s.myTurn false none = true) → begins (exec (.ldg p u t a) s) .load false false) ∧
      (s.myTurn false none = true → (∀ sc, begins (exec (.acq p sc t a) s) .load false true) ∧
        begins (exec (.mona p t a) s) .mona false false) ∧
      (∀ r : Tok, s.fire.right = some r → r.scalar = true → dataFits r t = true →
        let d := r.lane (8 * w) 0
        (∀ u : Bool, (u = true ∨ s.myTurn true none = true) →
          begins (exec (.stg p u t a) s) (.store (leBytes w d)) false false) ∧
        (∀ sc, s.myTurn true (some sc) = true → begins (exec (.rel p sc t a) s) (.store (leBytes w d)) false false) ∧
        ∀ (o : AmoOp) (ord : AmoOrd) (sc : Scope),
          s.myTurn true (if ord = .release ∨ ord = .both then some sc else none) = true →
          (o ≠ .cas → begins (exec (.amog p o ord sc t a) s) (.amog o d 0) false false) ∧
          ∀ q : Tok, o = .cas → s.fire.third = some q → q.scalar = true → dataFits q t = true →
            begins (exec (.amog p o ord sc t a) s) (.amog o d (q.lane (8 * w) 0)) false false)) ∧
    (va % 128 = 0 →
      (∀ u : Bool, (u = true ∨ s.myTurn false none = true) → begins (exec (.ldgv p u t a) s) .load true false) ∧
      ∀ (u : Bool) (r : Tok), (u = true ∨ s.myTurn true none = true) → s.fire.right = some r → dataFits r t = true →
        begins (exec (.stgv p u t a) s) (.store (leBytes 128 (r.storeData t).toNat)) true false) ∧
    ∀ (y : Strand) (r : Run) (n : Node), s.here? = some (y, r, n) →
      let st := s.constStore y r
      (va % w = 0 → va + w ≤ st.len → exec (.ldk p false t a) s = .next (s.give a .none (some (.tok
        (Tok.scalarOf t (leNat ((List.range w).map fun i => st.bytes.getD (va + i) 0)) 0))) none)) ∧
      (va % 128 = 0 → va + 128 ≤ st.len → exec (.ldk p true t a) s = .next (s.give a .none (some (.tok
        { tag := t, scalar := false, side := 0, mark := 0,
          data := BitVec.ofNat 1024 (leNat ((List.range 128).map fun i => st.bytes.getD (va + i) 0)) })) none))

/-- CTOK joins two tokens, MSEQ and FENCE complete in their turn in the memory sequence, PREF gives its completion whatever the
translation, PLACEQ gives a page's placement word, MWAIT answers 0 where the monitor is set, 1 with no monitor, 2 where a
restore dropped it, and otherwise waits (R81, R85, R86, R87, R88). Both translations wait for the strand's earlier accesses, and
acquire (R304). -/
def Obligations.OrderAndPlacement : Prop :=
  ∀ (s : State) (p : PMode) (a b : Tgt) (x : Strand) (r : Run) (n : Node), s.ready p = true →
    s.here? = some (x, r, n) →
    let done := Tok.done s.fire.its
    (s.fire.left.isSome = true → s.fire.right.isSome = true →
      exec (.ctok p a b) s = .next (s.emit a b (Tok.done s.fire.marks))) ∧
    (let seen := s.sees s.fire.k s.depAll;
      s.fire.left.isSome = true → s.quiet x.stamp = true → (s.die 0).armed = [] →
      (∀ e, addrOperand s.fire.left = .error e → exec (.pref p a) s = .next (s.emit a .none done)) ∧
      ∀ (va : Nat) (c : Ctx), addrOperand s.fire.left = .ok va → s.ctx? x.ctx = some c → exec (.pref p a) s = .next
        (State.emit (match s.walk c.root va with
          | some l => seen.modDie x.die fun y => y.cache (x.nodeTile s.fire.copy s.fire.slot) x.ctx va l
          | none => seen) a .none done)) ∧
    (∀ (l : Tok) (va : Nat) (c : Ctx), s.fire.left = some l → addrOperand (some l) = .ok va → s.ctx? x.ctx = some c →
      s.quiet x.stamp = true → (s.die 0).armed = [] →
      let word := fun (n : Nat) =>
        exec (.placeq p a) s = .next ((s.sees s.fire.k s.depAll).emit a .none (Tok.i64 n l.mark))
      (∀ q : Leaf, s.walk c.root va = some q → q.place ≠ 7 →
        word (2 ^ 63 + q.place + homeDie (x.die % 4) q.place q.pa * 2 ^ 4
          + (if homeDie (x.die % 4) q.place q.pa = x.die % 4 then 2 ^ 6 else 0) + q.size * 2 ^ 8)) ∧
      (s.walk c.root va = none → word 0)) ∧
    (s.myTurn false none = true →
      (s.fire.left.isSome = true → exec (.mseq p a b) s = .next (s.emit a b done)) ∧
      (∀ (k : FenceK) (sc : Scope),
        (r.fenceDone s.fire k sc = true → exec (.fence p k sc a) s = .next (s.emit a .none done)) ∧
        (r.fenceDone s.fire k sc = false → exec (.fence p k sc a) s = .next (s.park .order none []))) ∧
      (s.logs s.fire.k = false → r.arming = false →
        let answers := fun (v : Nat) => Host.Outcome.next (State.emit ((s.disarm s.fire.k).modStrand s.fire.k fun y =>
          { y with wake := false }) a .none (Tok.i64 v s.fire.marks))
        (∀ line, s.monitor? s.fire.k = some (line, true) → exec (.mwait p a) s = answers 0) ∧
        (s.monitor? s.fire.k = none → exec (.mwait p a) s = answers (if x.wake then 2 else 1)) ∧
        ∀ line, s.monitor? s.fire.k = some (line, false) →
          exec (.mwait p a) s = .next (s.park (.monitor (line * 64)) none [])))

/-! ### Fabric control: group 0x9 -/

/-- KSET adds its level to the chains, in slot order, with the extent and stride of its form; KCHAIN selects a chain; KIDX
and KLAST give the chain's value and last-of-level flag at the iteration, with the chain's marker bits; BUSTX sends its token to
every receiver of an identifier and gives a completion token; BUSRX passes on what it was sent; CTLSND sends a pulse down its
channel and CTLRCV passes one on (R32, R137, R138, R157, R158). That KLAST's token carries the chain's marker bits, as R138 says of
KIDX's, is deduced (log 17). -/
def Obligations.FabricControl : Prop :=
  (∀ (s : State) (p : PMode) (x : Strand) (r : Run) (n : Node), s.ready p = true → s.here? = some (x, r, n) →
    (∀ (g : Bool) (e : BitVec 9) (chain level : Nat), s.fire.copy = 0 →
      (ksetLevels r.blk.instrs)[(r.chains.map fun c => c.ext.length).sum]? = some (s.fire.slot, chain, level) →
      let adds := fun (o : Host.Outcome State Fault Refusal) (ext : Nat) (d : Int) =>
        o = .next ((s.give .none .none none none).modRun s.fire.k fun q =>
          { q with chains := addLevel q.chains (level == 0) ext d })
      adds (exec (.kset p .plus g e) s) (e.toNat + 1) 1 ∧ adds (exec (.kset p .minus g e) s) (e.toNat + 1) (-1) ∧
      adds (exec (.kset p .zero g e) s) (e.toNat + 1) 0 ∧
      ∀ v : Nat, i64Operand s.fire.left = .ok v → v < 2 ^ 32 →
        adds (exec (.kset p .oper g e) s) (v % 2 ^ 16 + 1) (signed 16 (v / 2 ^ 16))) ∧
    (∀ c : BitVec 3, exec (.kchain p c) s = .next (s.give .none .none none none)) ∧
    (∀ (l : BitVec 2) (a b : Tgt) (ch : Chain), r.chains[r.blk.chainSel s.fire.slot]? = some ch →
      let c := r.blk.chainSel s.fire.slot
      let vs := ((r.counts x.region s.fire.copy c s.fire.iter).1.zip ch.str).map fun q => (q.1 : Int) * q.2
      exec (.kidx p l a b) s = .next (s.emit a b (Tok.scalarOf .idx
        ((if l = 3 then vs.sum else vs.getD l.toNat 0) % (2 ^ 64 : Nat)).toNat
        (markersOf (r.counts x.region s.fire.copy c s.fire.iter).2)))) ∧
    ∀ (c j : BitVec 3) (a : Tgt), let m := markersOf (r.counts x.region s.fire.copy c.toNat s.fire.iter).2
      exec (.klast p c j a) s = .next (s.emit a .none (Tok.pred (m.getLsbD j.toNat) m))) ∧
  ∀ (s : State) (p : PMode) (a b : Tgt) (x : Strand) (r : Run) (n : Node) (t : Tok), s.ready p = true →
    s.here? = some (x, r, n) → s.fire.left = some t →
    (∀ id : Nat, t.tag ≠ .mark → i64Operand s.fire.right = .ok id → id < 2 ^ 7 → r.busOpen s.fire id = true →
      exec (.bustx p a b) s = .next ((s.modRun s.fire.k fun q => q.push (r.busTo s.fire id) s.fire.iter (.tok t)).emit a b
        (Tok.done s.fire.its))) ∧
    (∀ i : BitVec 7, exec (.busrx p i a) s = .next (s.emit a .none t)) ∧
    (∀ c : BitVec 7, (∀ l ∈ r.links, l.copy = s.fire.copy → l.src = s.fire.slot → l.items.length < 4) →
      exec (.ctlsnd p c) s = .next ((s.give .none .none none none).modRun s.fire.k fun q =>
        q.push (fun l => l.copy == s.fire.copy && l.src == s.fire.slot) s.fire.iter (.tok (Tok.pred true 0)))) ∧
    ∀ c : BitVec 7, exec (.ctlrcv p c a) s = .next (s.emit a .none (Tok.pred true 0))

/-- SGEN and SGRUN hand their command to the free generator of the window's tile, once the strand's earlier accesses are
performed; the generator becomes the window's filler, and a named target A waits for the stream's end (R159, R160). -/
def Obligations.StreamsStart : Prop :=
  ∀ (s : State) (p : PMode) (g : BitVec 2) (w : BitVec 10) (a : Tgt) (x : Strand) (r : Run) (n : Node) (v : Win) (m : Nat),
    s.ready p = true → s.here? = some (x, r, n) → r.streamTurn x.region s.fire = true → addrOperand s.fire.left = .ok m →
    m % 64 = 0 → look w.toNat x.wins = some v → look (v.tile * 4 + g.toNat) (s.die x.die).streams = none →
    v.filler.toNat = strandId s.fire.k →
    let started := fun (run : Bool) => (s.setStream x.die v.tile g.toNat
      { k := s.fire.k, w := w.toNat, run := run, recd := [], addr := m, pos := 0, tok := 0, ent := [], captured := false,
        wait := 0, handle := 0, stamp := x.stamp, node := some (0, s.fire.slot), reg := false }).modWin s.fire.k w.toNat
        fun v => { v with filler := BitVec.ofNat 16 (genId x.die v.tile g.toNat) }
    let after := fun (t : State) => if a = .none then t.give .none .none none none
      else t.park (.stream x.die v.tile g.toNat) none []
    exec (.sgen p g w a) s = .next (after (started false)) ∧ exec (.sgrun p g w a) s = .next (after (started true))


/-! ### Engines: group 0xA -/

/-- CQAPP appends a record to a copy chain, through the last record's next field where there is one; CQTAIL publishes what
has been appended; CQSEQ reads the chain's status; CQWAIT ends at its counter or at a halted chain; EVPOP and EVPEEK read
the event queue; CQABRT empties the chain once its rows have been applied (R202, R203, R214). -/
def Obligations.CopyChainMembers : Prop :=
  ∀ (s : State) (p : PMode) (c : BitVec 7) (a : Tgt) (x : Strand), s.ready p = true → s.strand? s.fire.k = some x →
    let k := s.fire.k
    let ch := x.copy c.toNat
    let done := Tok.done s.fire.its
    (∀ m : Nat, s.myTurn true none = true → addrOperand s.fire.left = .ok m → m % 64 = 0 →
      (ch.append = 0 → exec (.cqapp p c a) s =
        .next ((s.modCopy k c.toNat fun h => { h with first := m, append := m }).emit a .none done)) ∧
      (ch.append ≠ 0 → s.reachable x x.lead x.stamp ch.append 8 = true → ∃ (n : Nat) (st : Stamp) (u : State),
        s.dwrite x.ctx x.die ⟨x.lead, s.fire.req⟩ x.stamp s.fire.req true ch.append (leBytes 8 m) =
          .ok (n, st, u) ∧
        exec (.cqapp p c a) s = .next (((u.modStrand k fun y => { y with stamp := st }).modCopy k c.toNat fun h =>
          { h with append := m }).park .memory none [n]))) ∧
    (s.myTurn false (some .package) = true → exec (.cqtail p c a) s = .next ((s.modCopy k c.toNat fun h =>
      { h with tail := h.append, stamp := h.stamp.join x.stamp }).emit a .none done)) ∧
    (s.idle = true →
      exec (.cqseq p c a) s = .next (s.emit a .none (Tok.i64
        (ch.cseq.toNat + ch.cstate.code * 2 ^ 32 + ch.cstat.toNat * 2 ^ 40) s.fire.marks)) ∧
      exec (.evpeek p a) s = .next (s.emit a .none (Tok.i64 (x.events.headD 0).toNat s.fire.marks)) ∧
      (∀ e l, x.events = e :: l → exec (.evpop p a) s = .next ((s.modStrand k fun _ => { x with events := l }).emit a .none
        (Tok.i64 e.toNat s.fire.marks))) ∧
      (x.events = [] → x.eventsDue = false →
        exec (.evpop p a) s = .next ((s.modStrand k fun _ => x).emit a .none (Tok.i64 0 s.fire.marks))) ∧
      (x.events = [] → x.eventsDue = true → exec (.evpop p a) s = .next (s.park .events none [])) ∧
      (∀ v : Nat, wordOperand s.fire.left = .ok v →
        let reached := decide ((ch.cseq - BitVec.ofNat 32 v).toNat < 2 ^ 31) || ch.cstate == .halted
        (reached = true → exec (.cqwait p c a) s = .next ((s.modStrand k fun _ => x).emit a .none
          (Tok.i64 (ch.cseq.toNat + ch.cstate.code * 2 ^ 32 + ch.cstat.toNat * 2 ^ 40) s.fire.marks))) ∧
        (reached = false → exec (.cqwait p c a) s = .next (s.park (.copySeq c.toNat (v % 2 ^ 32)) none []))) ∧
      (ch.outst = 0 → x.eventTurn c.toNat = true → ∃ (t : State) (y : Strand), t.strand? k = some y ∧
        exec (.cqabrt p c a) s = .next (t.emit a .none (Tok.i64 (y.copy c.toNat).status s.fire.marks)) ∧
        (y.copy c.toNat).cstate = .idle ∧ (y.copy c.toNat).append = 0 ∧ (y.copy c.toNat).recd = [] ∧
        (y.copy c.toNat).cseq = ch.cseq ∧
        (y.copy c.toNat).cstat = if ch.cstate = .running ∨ ch.cstate = .waiting then 0x09 else ch.cstat) ∧
      (ch.outst ≠ 0 → exec (.cqabrt p c a) s = .next ((s.modCopy k c.toNat fun h => { h with aborting := true }).park
        (.abort c.toNat) none [])))

/-- The collective members append, publish, read, wait and abort as those of the copy engine do; CLABRT, once no transfer of its
step is under way, tells the partner of a step that has not sent its data (R227, R230, R232). -/
def Obligations.CollectiveMembers : Prop :=
  ∀ (s : State) (p : PMode) (c : BitVec 4) (a : Tgt) (x : Strand), s.ready p = true → s.strand? s.fire.k = some x →
    let k := s.fire.k
    let ch := x.coll c.toNat
    let done := Tok.done s.fire.its
    let status := ch.cseq.toNat + ch.cstate.code * 2 ^ 32 + ch.cstat.toNat * 2 ^ 40
    (∀ m : Nat, s.myTurn true none = true → addrOperand s.fire.left = .ok m → m % 64 = 0 →
      (ch.append = 0 → exec (.clapp p c a) s =
        .next ((s.modColl k c.toNat fun h => { h with first := m, append := m }).emit a .none done)) ∧
      (ch.append ≠ 0 → s.reachable x x.lead x.stamp ch.append 8 = true → ∃ (n : Nat) (st : Stamp) (u : State),
        s.dwrite x.ctx x.die ⟨x.lead, s.fire.req⟩ x.stamp s.fire.req true ch.append (leBytes 8 m) =
          .ok (n, st, u) ∧
        exec (.clapp p c a) s = .next (((u.modStrand k fun y => { y with stamp := st }).modColl k c.toNat fun h =>
          { h with append := m }).park .memory none [n]))) ∧
    (s.myTurn false (some .package) = true → exec (.cltail p c a) s = .next ((s.modColl k c.toNat fun h =>
      { h with tail := h.append, stamp := h.stamp.join x.stamp }).emit a .none done)) ∧
    (s.idle = true →
      exec (.clseq p c a) s = .next (s.emit a .none (Tok.i64 status s.fire.marks)) ∧
      (∀ (v : Nat) (h : CollChain), wordOperand s.fire.left = .ok v → look c.toNat x.colls = some h →
        let reached := decide ((ch.cseq - BitVec.ofNat 32 v).toNat < 2 ^ 31) || ch.cstate == .halted
        (reached = true → exec (.clwait p c a) s =
          .next ((s.modStrand k fun _ => x).emit a .none (Tok.i64 status s.fire.marks))) ∧
        (reached = false → exec (.clwait p c a) s = .next (s.park (.collSeq c.toNat (v % 2 ^ 32)) none []))) ∧
      (ch.outst = 0 → x.eventTurn (128 + c.toNat) = true → (∀ g, ch.step = some g → s.transferring x.die g = false) →
        ∃ (t : State) (y : Strand), t.strand? k = some y ∧
        exec (.clabrt p c a) s = .next (t.emit a .none (Tok.i64 (y.coll c.toNat).status s.fire.marks)) ∧
        (y.coll c.toNat).cstate = .idle ∧ (y.coll c.toNat).append = 0 ∧ (y.coll c.toNat).step = none ∧
        (y.coll c.toNat).cseq = ch.cseq ∧
        ((y.coll c.toNat).cstat =
          if ch.step.isSome = true ∧ (ch.cstate = .running ∨ ch.cstate = .waiting) then 0x47 else ch.cstat) ∧
        (∀ g : CollStep, ch.step = some g → (ch.cstate = .running ∨ ch.cstate = .waiting) → g.sent = false →
          ch.aborting = false → let m := NetMsg.abort g.qpkg g.qdie g.key g.kind g.s g.r
            if g.qpkg = s.pkg then t.net = s.net ++ [m] else t.sent = s.sent ++ [m])))

/-! ### Geode: group 0xB -/

/-- GTINIT binds a tree from its record, GTROOT makes its root and writes its record, GTREAD and GTBEST read nodes, GTREROOT keeps
one child of the root and writes what that changes in the arena, GTFREE unbinds, GTSTAT reports, GTPARM sets a parameter; a tree
that is not bound gives status 5 (R276 to R278, R289, R293). -/
def Obligations.GeodeWholeCommands : Prop :=
  ∀ (s : State) (p : PMode) (t : BitVec 4) (a : Tgt) (x : Strand) (r : Run) (n : Node), s.ready p = true →
    s.here? = some (x, r, n) → s.geodeOpen x r t.toNat = true →
    let gives := fun (o : Host.Outcome State Fault Refusal) (v : Nat) (tree : Option Tree → Prop) =>
      ∃ u, o = .next u ∧ s.answers u a v ∧ tree (u.tree? x.ctx x.die t.toNat)
    (s.tree? x.ctx x.die t.toNat = none →
      (∀ (va : Nat) (g : Tree), addrOperand s.fire.left = .ok va → va % 64 = 0 → s.readable x x.stamp va 64 = true →
        treeOf (s.vpeek x.ctx x.die va 64) = some g →
        gives (exec (.gtinit p t a) s) 0 fun y => ∃ st, y = some { g with stamp := st }) ∧
      (∀ m : Nat, wordOperand s.fire.left = .ok m →
        gives (exec (.gtroot p t a) s) 5 (· = none) ∧ gives (exec (.gtread p 0 t a) s) 5 (· = none) ∧
        gives (exec (.gtbest p t a) s) 5 (· = none) ∧ gives (exec (.gtreroot p t a) s) 5 (· = none)) ∧
      (s.fire.left.isSome = true → gives (exec (.gtfree p t a) s) 5 (· = none) ∧
        ∀ i, gives (exec (.gtstat p i t a) s) 5 (· = none))) ∧
    ∀ g : Tree, s.tree? x.ctx x.die t.toNat = some g →
      (s.fire.left.isSome = true →
        (s.liveTickets x.ctx x.die t.toNat = 0 → gives (exec (.gtfree p t a) s) 0 (· = none)) ∧
        (s.liveTickets x.ctx x.die t.toNat ≠ 0 → gives (exec (.gtfree p t a) s) 2 (· = some g)) ∧
        ∀ i : BitVec 6, gives (exec (.gtstat p i t a) s) ([g.next, g.cap, g.freeCount,
          s.liveTickets x.ctx x.die t.toNat, (g.queue.map fun b => b.2.1).sum, g.gen].getD i.toNat 0) (· = some g)) ∧
      (∀ (q : BitVec 6) (v : Nat), parmOperand q.toNat s.fire.left = .ok v → (q.toNat = 3 → v ≤ 3) →
        (q.toNat ≠ 3 → (valF32 v).isNan = false) →
        gives (exec (.gtparm p q t a) s) 0 (· = some (g.setParm q.toNat v))) ∧
      (∀ m : Nat, wordOperand s.fire.left = .ok m →
        (s.liveTickets x.ctx x.die t.toNat = 0 → s.quiet (g.stamp.join x.stamp) = true → s.writable x (g.at 0) 32 = true →
          ∃ u, exec (.gtroot p t a) s = .next u ∧ s.answers u a 0 ∧
            s.sends u x (g.at 0) (GNode.fresh 0 (m % 2 ^ 16) noIndex g.gen).bytes ∧
            ∃ st, u.tree? x.ctx x.die t.toNat =
              some { g with root := true, next := 1, runs := [], queue := [], stamp := st }) ∧
        (m < g.cap → s.readable x (g.stamp.join x.stamp) (g.at m) 32 = true →
          let c := GNode.ofBytes (s.vpeek x.ctx x.die (g.at m) 32)
          (∀ f : BitVec 6, gives (exec (.gtread p f t a) s) (c.field f.toNat) fun y =>
            ∃ st, y = some { g with stamp := st }) ∧
          (c.expanded = false ∨ c.count = 0 →
            gives (exec (.gtbest p t a) s) (2 ^ 64 - 1) fun y => ∃ st, y = some { g with stamp := st }) ∧
          (c.expanded = true → c.count ≠ 0 → s.readable x (g.stamp.join x.stamp) (g.at c.first) (32 * c.count) = true →
            gives (exec (.gtbest p t a) s)
              (c.first + bestChild (nodesOf c.count (s.vpeek x.ctx x.die (g.at c.first) (32 * c.count)))) fun y =>
              ∃ st, y = some { g with stamp := st })) ∧
        (s.liveTickets x.ctx x.die t.toNat = 0 → g.root = true →
          s.readable x ((g.stamp.join x.stamp).join s.depAll) (g.at 0) 32 = true →
          let root := GNode.ofBytes (s.vpeek x.ctx x.die (g.at 0) 32)
          root.expanded = true → root.first ≤ m → m < root.first + root.count →
          s.readable x (g.stamp.join x.stamp) (g.at root.first) (32 * root.count) = true →
          let cs := nodesOf root.count (s.vpeek x.ctx x.die (g.at root.first) (32 * root.count))
          let c := cs.getD (m - root.first) root
          let gen := (g.gen + 1) % 2 ^ 24
          let h := { g.freeRun root.first root.count with gen := gen, queue := g.queue ++
            (cs.zipIdx.filter fun e => e.2 != m - root.first && e.1.expanded).map fun e =>
              (e.1.first, e.1.count, s.fire.k) }
          let ws := [(g.at 0, ({ c with parent := noIndex, gen := gen } : GNode).bytes)] ++
            (List.range (if c.expanded then c.count else 0)).map (fun i => (g.at (c.first + i) + 24, leBytes 4 0)) ++
            headWrites g h
          (∀ w ∈ ws, s.writable x w.1 w.2.length = true) →
          ∃ u, exec (.gtreroot p t a) s = .next u ∧ s.answers u a 0 ∧ (∀ w ∈ ws, s.sends u x w.1 w.2) ∧
            ∃ st, u.tree? x.ctx x.die t.toNat = some { h with stamp := st }))

/-- GTDESC, GTEXP, GTBACK and GTVL of 1 to 64 steps on a bound tree and a window that suits stay in flight at step 0, and the
Geode engine fills or drains the window meanwhile (R282, R285 to R288). -/
def Obligations.GeodeCommandsOfSteps : Prop :=
  ∀ (s : State) (p : PMode) (t : BitVec 4) (w : BitVec 6) (a : Tgt) (x : Strand) (r : Run) (n : Node) (g : Tree) (v : Win)
    (m : Nat), s.ready p = true → s.here? = some (x, r, n) → s.geodeOpen x r t.toNat = true →
    s.tree? x.ctx x.die t.toNat = some g → wordOperand s.fire.left = .ok m → 1 ≤ m → m ≤ 64 →
    look w.toNat x.chans = none → look w.toNat x.wins = some v → (v.tag = .i64 ∨ v.tag = .raw) →
    let begins := fun (o : Host.Outcome State Fault Refusal) (v' : Win) => ∃ u, o = .next u ∧
      u.run? s.fire.k = (s.run? s.fire.k).map (fun q => q.park s.fire (.geode t.toNat 0 0 s.fire.k w.toNat) none [0, 0, 0]) ∧
      u.win? s.fire.k w.toNat = some v'
    let me := BitVec.ofNat 16 (engineIdent 3 x.die v.tile)
    (g.root = true → 64 ≤ v.elem → v.state = .opened → v.filler.toNat = strandId s.fire.k →
      begins (exec (.gtdesc p w t a) s) { v with filler := me }) ∧
    (128 ≤ v.elem → v.drainer.toNat = strandId s.fire.k →
      begins (exec (.gtexp p w t a) s) { v with drainer := me }) ∧
    (64 ≤ v.elem → v.drainer.toNat = strandId s.fire.k →
      begins (exec (.gtback p w t a) s) { v with drainer := me } ∧
      begins (exec (.gtvl p w t a) s) { v with drainer := me })

/-! ### Tasks, gangs, locks and waits: group 0xC -/

/-- TSPAWN and TRANGE allocate the task of a well-formed record and give its handle, or 0 with the store full; TPOP and TIDLE
are exits that take a task, own deque from the bottom first; TDONE completes the task in TCUR; TDEP adds an edge, releases a
held task, waits for a task or reports it (R241 to R248, R262). -/
def Obligations.TaskMembers : Prop :=
  ∀ (s : State) (p : PMode) (a : Tgt) (x : Strand), s.ready p = true → s.strand? s.fire.k = some x →
    x.die = s.fire.k / 256 →
    let k := s.fire.k
    (∀ (c range : Bool) (va : Nat) (t : Task), s.myTurn false (some .package) = true →
      addrOperand s.fire.left = .ok va → va % 64 = 0 → s.readable x x.stamp va 64 = true →
      taskOf x.ctx range (s.vpeek x.ctx x.die va 64) = some t →
      let o := if range then exec (.trange p c a) s else exec (.tspawn p c a) s
      (freeKey 8192 (s.die x.die).store = none → ∃ u, o = .next u ∧ s.answers u a 0) ∧
      ∀ e, freeKey 8192 (s.die x.die).store = some e →
        let h := taskHandle x.die e ((look e (s.die x.die).gens).getD 0)
        let now := range || s.matures t
        let q : Piece := { handle := h, lo := if range then signed 64 t.a2.toNat else 0,
                           hi := if range then signed 64 (leNat (((s.vpeek x.ctx x.die va 64).drop 24).take 8)) else 0 }
        ∃ u, o = .next u ∧ s.answers u a h ∧
          (∃ st, u.task? h = some { t with stamp := st, state := if now then .ready else t.state }) ∧
          (u.die x.die).pool =
            (s.die x.die).pool ++ (if now && (c || decide (64 ≤ x.deque.length)) then [q] else []) ∧
          (u.strand? k).map (·.deque) =
            some (x.deque ++ if now && !(c || decide (64 ≤ x.deque.length)) then [q] else [])) ∧
    (∀ n : BitVec 4, s.lastExit p false = true → exec (.tpop p n) s = .next (s.withExit (.tpop n.toNat))) ∧
    (∀ (q : Piece) (u : State), s.take k true = some (q, u) → exec (.tidle p) s =
      .next (u.modRun k fun r => r.exited s.fire (.enterTask q.handle q.lo q.hi))) ∧
    (s.take k true = none → exec (.tidle p) s = .next (s.park .idle none [])) ∧
    (∀ q l, x.deque = l ++ [q] → s.logs k = false → ∃ u, s.take k true = some (q, u)) ∧
    (s.myTurn false (some .package) = true → ∀ f : Bool,
      (x.tcur ≠ 0 → exec (.tdone p f a) s = .next (((s.modStrand k fun y =>
        { y with tcur := 0 }).completePiece x.tcur.toNat f x.stamp).emit a .none (Tok.done s.fire.its))) ∧
      (x.tcur = 0 → exec (.tdone p f a) s = .next ((s.addTrap k
        { cause := 0x01, origin := s.origin, extra := checkExtra s.fire.slot 0x19, atExit := false }).emit a .none
          (Tok.done s.fire.its)))) ∧
    ∀ h : Nat, s.idle = true → asI64 s.fire.left = .ok h →
      (s.handleOk x.ctx h = true → s.task? h = none →
        exec (.tdep p .q a) s = .next (s.emit a .none (Tok.i64 3 s.fire.marks)) ∧
        ∃ u, exec (.tdep p .w a) s = .next u ∧ s.answers u a 3) ∧
      ∀ t : Task, s.handleOk x.ctx h = true → s.task? h = some t →
        exec (.tdep p .q a) s = .next (s.emit a .none (Tok.i64 t.state.code s.fire.marks)) ∧
        exec (.tdep p .w a) s = .next (s.park (.task h) none []) ∧
        (t.state = .held → t.preds ≠ 0 → ∃ u, exec (.tdep p .go a) s = .next u ∧ s.answers u a 0 ∧
          u.task? h = some { t with state := .pending, stamp := t.stamp.join x.stamp }) ∧
        ∀ (g : Nat) (v : Task), asI64 s.fire.right = .ok g → s.handleOk x.ctx g = true → s.task? g = some v → g ≠ h →
          v.range = false → v.state = .held → t.succs.length < 16 → ∃ u, exec (.tdep p .e a) s = .next u ∧
            s.answers u a 0 ∧ u.task? h = some { t with succs := t.succs ++ [g] } ∧
            u.task? g = some { v with preds := v.preds + 1 }

/-- GJOIN, GLEAVE and GBAR act on the gang of the strand's context; LKACQ, LKREL, QPUSH and QPOP send their access; WREG
enters a software wait and WDEREG takes one out; PRIO sets the base priority and gives the old one (R249 to R251, R261 to
R265). That WDEREG's operand is the word that WREG emitted, the entry's number plus 1, is deduced (log 27). -/
def Obligations.GangsLocksAndWaits : Prop :=
  ∀ (s : State) (p : PMode) (a b : Tgt) (x : Strand), s.ready p = true → s.strand? s.fire.k = some x →
    let k := s.fire.k
    let ans := fun (u : State) (v : Nat) => Host.Outcome.next (u.emit a .none (Tok.i64 v s.fire.marks))
    (∀ g : BitVec 8, s.idle = true → let q := s.gang x.ctx g.toNat
      (q.members.contains k = false →
        exec (.gjoin p g a) s = ans (s.setGang x.ctx g.toNat { q with members := q.members ++ [k] }) q.phase.toNat ∧
        exec (.gleave p g a) s = ans s (q.phase.toNat + 2 ^ 32)) ∧
      (q.members.contains k = true →
        exec (.gjoin p g a) s = ans s (q.phase.toNat + 2 ^ 32) ∧
        exec (.gleave p g a) s = ans (s.setGang x.ctx g.toNat (q.leave k)) (q.leave k).phase.toNat)) ∧
    (∀ g : BitVec 8, s.myTurn false (some .package) = true → let q := s.gang x.ctx g.toNat
      (q.members.contains k = false → exec (.gbar p g a) s = ans s (2 ^ 64 - 1)) ∧
      (q.members.contains k = true → q.arrived.contains k = false →
        let st := q.stamp.join x.stamp
        (q.members.all (fun m => m == k || q.arrived.contains m) = true → exec (.gbar p g a) s = ans ((s.setGang x.ctx g.toNat
          { q with arrived := [], phase := q.phase + 1, stamp := st }).modStrand k fun y =>
            { y with stamp := y.stamp.join st }) (q.phase.toNat + 1)) ∧
        (q.members.all (fun m => m == k || q.arrived.contains m) = false →
          exec (.gbar p g a) s = .next ((s.setGang x.ctx g.toNat { q with arrived := q.arrived ++ [k], stamp := st }).park (.gang g.toNat q.phase.toNat) none [])))) ∧
    (∀ va : Nat, addrOperand s.fire.left = .ok va →
      let begins := fun (o : Host.Outcome State Fault Refusal) (w : Nat) (op : AccOp) =>
        let c : Access := { va := va, w := w, op := op, tag := .i64, vec := false, acq := true }
        s.canIssue x c = true → o = .next (s.issued x c)
      (va % 8 = 0 →
        (s.myTurn true none = true → ∀ t, begins (exec (.lkacq p t a) s) 8 (.lockAcq t)) ∧
        (s.myTurn true (some .package) = true → begins (exec (.lkrel p a) s) 8 .lockRel)) ∧
      (va % 64 = 0 → s.myTurn true none = true → ∀ t,
        begins (exec (.qpop p t a b) s) 64 (.pop t) ∧
        ∀ v : Tok, s.fire.right = some v → v.isIntScalar = true →
          begins (exec (.qpush p t a) s) 64 (.push v.word t))) ∧
    (∀ v : Nat, s.idle = true → asI64 s.fire.left = .ok v →
      (∀ (kd : BitVec 4) (own n : Nat), optOwner s.fire.right = .ok own →
        ((s.die x.die).wft.filter fun e => e.2.sw && e.2.waiter.toNat == strandId k).length < 4 →
        (s.die x.die).wfhost = false → (s.die x.die).wft.length < 4096 → freeKey 4096 (s.die x.die).wft = some n →
        let e := waitEntry (kd.toNat, v, 0, own) (.node k s.fire.copy s.fire.slot) x.ctx s.fire.iter
        exec (.wreg p kd a) s = ans (s.enterWait (x.die % 4) { e with sw := true }) (n + 1)) ∧
      exec (.wdereg p a) s = .next ((s.modDie (k / 256) fun y => Die.leaveHost { y with wft := y.wft.filter fun e =>
        !(e.1 + 1 == v && e.2.sw && e.2.waiter.toNat == strandId k) }).emit a .none (Tok.done s.fire.its)) ∧
      ∀ c : Ctx, s.ctx? x.ctx = some c → exec (.prio p a) s = ans (s.modStrand k fun y =>
        { y with base := (clamp 0 (if c.priv then 7 else c.queuePrio x.launch.q) (signed 64 v)).toNat }) x.base)

/-! ### Splices, contexts, the fleet and debugging: groups 0xD, 0xE and 0xF -/

/-- SPLACK records its exit; STGLNK makes the strand a stage; STGST sends a state buffer to memory and STGLD takes one back
into the windows it names, both with what the windows' fills and the read have seen (R67; log 31); SPLQ reads a marker or the splice
under way; FOLDSET sets a fold (R184, R189 to R191, R197). -/
def Obligations.SpliceMembers : Prop :=
  ∀ (s : State) (p : PMode) (a : Tgt) (x : Strand), s.ready p = true → s.strand? s.fire.k = some x →
    let k := s.fire.k
    let done := Tok.done s.fire.its
    (∀ c : BitVec 6, s.lastExit p false = true → exec (.splack p c) s = .next (s.withExit (.splack c.toNat))) ∧
    (∀ n m : Nat, spliceAddr 64 s.fire.left = .ok n → i64Operand s.fire.right = .ok m →
      (∀ w ∈ maskWins m, (look w x.wins).isSome = true) →
      (let seen := x.seenIn (maskWins m);
        s.myTurn true none = true → s.reachable x x.lead seen n (s.bufferImage k x m).length = true →
        ∃ (j : Nat) (st : Stamp) (u : State), s.dwrite x.ctx x.die ⟨x.lead, s.fire.req⟩ seen s.fire.req true n
            (s.bufferImage k x m) = .ok (j, st, u) ∧
          exec (.stgst p a) s = .next ((u.modStrand k fun y => { y with stamp := st }).park .memory none [j])) ∧
      ∀ (wo oo : List Nat) (we oe : Nat), s.myTurn false none = true → s.readable x x.stamp n 64 = true →
        let hd := s.vpeek x.ctx x.die n 64
        let nc := x.region.cTiles.length
        let len := fieldOf hd 16 8
        fieldOf hd 0 8 = m → fieldOf hd 12 4 = nc →
        s.imagesAt x n len imageBytes (maskWins m).length (64 + up64 (16 * (maskRegs m).length)) = .ok (wo, we, s) →
        s.imagesAt x n len imageBytes (if bit m 56 then nc else 0) (up64 we + nc * (maskBanks m).length * 8192) =
          .ok (oo, oe, s) →
        up64 oe ≤ len → s.readable x x.stamp n (up64 oe) = true →
        let bs := s.vpeek x.ctx x.die n (up64 oe)
        (∀ e ∈ (maskWins m).zip wo, (look e.1 x.wins).any (fun v => v.takes (bs.drop e.2)) = true) →
        ∃ t : State, exec (.stgld p a) s = .next (t.emit a .none done) ∧
          ∀ e ∈ (maskWins m).zip wo, t.win? k e.1 = (look e.1 x.wins).map fun v =>
            let q := v.restored (bs.drop e.2)
            { q with stamps := joinStamps (q.slots q.head q.extent) (x.stamp.join s.depAll) v.stamps }) ∧
    (s.idle = true →
      (∀ (n : BitVec 7) (h w : Nat), spliceAddr 1 s.fire.left = .ok h → wordOperand s.fire.right = .ok w → w ≤ 1023 →
        h % 16 = 0 → exec (.stglnk p n a) s = .next ((s.modStrand k fun y =>
          { y with
            stgcfg := BitVec.ofNat 64 (n.toNat + 2 ^ 7 + w * 2 ^ 8 + if y.smode then 2 ^ 18 else 0)
            stghnd := BitVec.ofNat 64 h
            stgser := 0 }).emit a .none done)) ∧
      exec (.splq p true a) s =
        .next (s.emit a .none (Tok.i64 (if x.smode then x.splcur.toNat else 0) s.fire.marks)) ∧
      (∀ t : Tok, s.fire.left = some t → t.tag = .mark →
        exec (.splq p false a) s = .next (s.emit a .none (Tok.i64 (t.data.toNat % 2 ^ 64) t.mark))) ∧
      ∀ (e : BitVec 3) (b h q : Nat), spliceAddr 1 s.fire.left = .ok b → spliceAddr 1 s.fire.right = .ok h →
        spliceAddr 1 s.fire.third = .ok q → exec (.foldset p e a) s = .next ((s.modStrand k fun y =>
          { y with folds := put e.toNat (b, h, q) y.folds }).emit a .none done))

/-- CTXSV asks for the save of another strand or saves the die's state; CTXRS restores a strand in its region or the die's
state; TLBINV drops translations and starts walks anew; MAPSET places frames; PRMT asks for a shrink or a save; RGNAL grants a region
and RGNFR frees one (R307 to R321). That CTXRS with handle 0 restores in place where the region is still held is deduced, and that it
finds its image by the header is the model's choice (log 26), as is MAPSET in one step (log 10). -/
def Obligations.SystemMembers : Prop :=
  ∀ (s : State) (p : PMode) (a : Tgt) (x : Strand) (c : Ctx), s.ready p = true → s.strand? s.fire.k = some x →
    s.ctx? x.ctx = some c →
    let k := s.fire.k
    let gives := fun (u : State) (v : Nat) => Host.Outcome.next (u.emit a .none (Tok.i64 v s.fire.marks))
    (∀ n : Nat, spliceAddr 4096 s.fire.left = .ok n →
      (s.myTurn true none = true →
        (s.imageMapped x.ctx x.die n dieImageLen = true → ∃ u, exec (.ctxsv p .die a) s = .next u ∧ s.answers u a 0 ∧
          ∃ i ∈ u.images, i.ctx = x.ctx ∧ i.addr = n ∧ i.die = some (x.die % 4) ∧ i.gangs = c.gangs.filter fun g => g.1 % 4 == x.die % 4) ∧
        ∀ (m : CtxsvK) (v j : Nat) (y : Strand), m ≠ .die → wordOperand s.fire.right = .ok v → s.named v = some (j, y) →
          j ≠ k → y.ctx = x.ctx → s.imageMapped x.ctx x.die n y.region.imageLen = true → y.lives = true →
          y.save = .running → s.pendsOf (· == .region) = [] → exec (.ctxsv p m a) s = .next ((s.modStrand j fun z =>
            { z with save := .asked n (m == .free) (some (k, s.fire.slot)), asked := 0 }).park (.save j) none [])) ∧
      (s.myTurn false none = true → s.quiet x.stamp = true →
        ∀ i : Image, (s.imageHead x.ctx x.die n).bind (s.imageAt x.ctx n) = some i →
        (∀ h d, wordOperand s.fire.right = .ok h → i.die = some d → s.imageReadable x.ctx x.die n dieImageLen = true →
          exec (.ctxrs p a) s = gives ((s.countRange x.ctx x.die .rd n dieImageLen).restoreDie i d) 0) ∧
        ∀ (j : Nat) (y : Strand), wordOperand s.fire.right = .ok 0 → i.die = none → i.key = some j → i.snap = none →
          (∀ e ∈ s.images, e.ctx = i.ctx → e.addr = i.addr → e = i) → s.strand? j = some y →
          y.save = .saved n → y.ctx = x.ctx → j < 1024 → y.die = j / 256 → j = strandKey y.die y.region.lead →
          s.imageReadable x.ctx x.die n y.region.imageLen = true → s.pendsOf (· == .region) = [] →
          y.convertsOn y.region = true → y.waits = [] → y.susp.all (fun r => r.nodes.all fun m => m.pend.isEmpty) = true →
          y.haltAsked = false → (∀ d, (s.die d).armed = [] ∧ ∀ e ∈ (s.die d).streams, e.2.k ≠ j) →
          ∃ u z, exec (.ctxrs p a) s = .next u ∧
            s.answers u a (strandId j % 2 ^ 16) ∧ u.strand? j = some z ∧ z.save = .running ∧ z.regs = y.regs ∧ z.bc = y.bc)) ∧
    (s.idle = true →
      (s.drained = true → s.fire.left.isSome = true →
        let done := fun (u : State) => Host.Outcome.next (u.emit a .none (Tok.done s.fire.its))
        exec (.tlbinv p .all a) s = done ((s.dropXlats fun _ => true).restartWalks .all x.ctx 0) ∧
        exec (.tlbinv p .ctx a) s = done ((s.dropXlats fun e => e.ctx == x.ctx).restartWalks .ctx x.ctx 0) ∧
        ∀ va : Nat, spliceAddr 1 s.fire.left = .ok va → exec (.tlbinv p .page a) s = done ((s.dropXlats fun e =>
          e.ctx == x.ctx && va / 2 ^ (14 + [0, 7, 16].getD e.size 0) == e.page).restartWalks .page x.ctx va)) ∧
      (∀ (pl : BitVec 3) (l : Tok) (n : Nat), s.fire.left = some l → (l.tag = .i64 ∨ l.tag = .idx) →
        wordOperand s.fire.right = .ok n → let pa := l.word.toNat
        pa % 2 ^ 14 = 0 → pa < 2 ^ 40 → 1 ≤ n → n ≤ 65536 → s.drained = true →
        let fs := (List.range n).map fun i => pa / 2 ^ 14 + i
        let frames := fs.foldl (fun l f => setFrame pl.toNat f l) s.frames
        fs.all c.allots = true → 4 * (frames.filter fun e => e.2 == 6 && c.allots e.1).length ≤ (c.frames.map (·.2)).sum →
        (∀ d, storageDelta frames d ≤ (freeGranules d : Int)) →
        ∃ u, exec (.mapset p pl a) s = .next u ∧ s.answers u a 0 ∧ u.frames = frames ∧ u.mem = s.mem) ∧
      (∀ (v j : Nat) (y : Strand), wordOperand s.fire.left = .ok v → s.named v = some (j, y) → j ≠ k → y.ctx = x.ctx →
        y.lives = true → y.save = .running → s.pendsOf (· == .region) = [] →
        (∀ r w : BitVec 4, y.shrinks (r.toNat + 1) (w.toNat + 1) = true → y.shrink = none →
          exec (.prmt p false w r a) s = .next ((s.modStrand j fun z =>
            { z with shrink := some (r.toNat + 1, w.toNat + 1, some (k, s.fire.slot)), asked := 0 }).park (.fold j) none [])) ∧
        ∀ r w : BitVec 4, s.imageMapped y.ctx y.die (s.psaveSlot j y) y.region.imageLen = true →
          exec (.prmt p true w r a) s = .next ((s.modStrand j fun z =>
            { z with save := .asked (s.psaveSlot j y) true none, asked := 0 }).park (.save j) none [])) ∧
      (∀ (v n : Nat) (q : Request) (d : Nat) (g : Region), wordOperand s.fire.left = .ok v →
        wordOperand s.fire.right = .ok n → requestOf v = some q → n ≤ 63 → (n = x.ctx ∨ c.super = true) →
        s.heldFor s.queueNo = none → s.findRect s.queueNo x.eff n q allCount anyRect = some (d, g) →
        exec (.rgnal p a) s = gives ((s.unreserve s.queueNo).grantRegion d g) (g.handle d)) ∧
      ∀ (h d : Nat) (g : Region), wordOperand s.fire.left = .ok h → s.regionOf h = some (d, g) →
        (g.ctx = x.ctx ∨ c.super = true) → g.strand = none → s.pendsOf (· == .region) = [] →
        exec (.rgnfr p a) s = gives (s.releaseRegion d g.origin) 0)

/-- CSRRD of every number reads the register of the issuer's strand, context or die that stands under it, and 0 where none
does; CSRWR of every number writes the bits a program may write and gives the old value, at once or, for the constant segment,
once it has been copied (R5, R6, R59, R118, R321). -/
def Obligations.ControlRegisters : Prop :=
  ∀ (s : State) (p : PMode) (a : Tgt) (x : Strand) (c : Ctx), s.ready p = true → s.idle = true →
    s.strand? s.fire.k = some x → s.ctx? x.ctx = some c →
    let gives := fun (u : State) (v : Word) => Host.Outcome.next (u.emit a .none (Tok.i64 v.toNat s.fire.marks))
    exec (.csrrd p 0x150 a) s = gives s c.thnd ∧ exec (.csrrd p 0x151 a) s = gives s x.tres ∧
    exec (.csrrd p 0x152 a) s = gives s x.tstat ∧ exec (.csrrd p 0x153 a) s = gives s x.tsav[0] ∧
    exec (.csrrd p 0x156 a) s = gives s x.tsav[3] ∧ exec (.csrrd p 0x187 a) s = gives s x.tcur ∧
    exec (.csrrd p 0x140 a) s = gives s (s.die x.die).mrdloc ∧ exec (.csrrd p 0x190 a) s = gives s c.ptroot ∧
    exec (.csrrd p 0x1B4 a) s = gives s (s.die x.die).retmap[0] ∧ exec (.csrrd p 0x1B8 a) s = gives s s.pwrcap ∧
    exec (.csrrd p 0x000 a) s = gives s 0 ∧
    (∀ n : BitVec 10, exec (.csrrd p n a) s = gives s (s.csr x c n.toNat)) ∧
    ∀ v : Nat, wordOperand s.fire.left = .ok v →
      let w := BitVec.ofNat 64 v
      exec (.csrwr p 0x151 a) s = gives (((s.modStrand s.fire.k fun y => { y with tres := w }).modCtx x.ctx id).modDie x.die
        id) x.tres ∧
      (∃ u, exec (.csrwr p 0x150 a) s = .next u ∧ s.answers u a c.thnd.toNat ∧
        (u.ctx? x.ctx).map (·.thnd) = some ((c.thnd &&& ~~~0x00FFFFFFFFFFFFF0#64) ||| (w &&& 0x00FFFFFFFFFFFFF0#64))) ∧
      (∃ u, exec (.csrwr p 0x190 a) s = .next u ∧ s.answers u a c.ptroot.toNat ∧
        (u.ctx? x.ctx).map (·.ptroot) = some ((c.ptroot &&& ~~~0x00FFFFFFFFF00000#64) ||| (w &&& 0x00FFFFFFFFF00000#64))) ∧
      (∃ u, exec (.csrwr p 0x196 a) s = .next u ∧ s.answers u a c.ctxpriv.toNat ∧
        (u.ctx? x.ctx).map (·.ctxpriv) = some c.ctxpriv) ∧
      (s.kcopying x.ctx = false → ∀ n ∈ [0x148#10, 0x149#10], ∃ u, exec (.csrwr p n a) s = .next u ∧
        u.run? s.fire.k = (s.run? s.fire.k).map (fun r => r.park s.fire .ksegment none [(s.csr x c n.toNat).toNat]) ∧
        (u.ctx? x.ctx).map (fun y => (y.ksegb, y.ksegl)) = some (if n = 0x148 then
            ((c.ksegb &&& ~~~0x00FFFFFFFFFFFFF0#64) ||| (w &&& 0x00FFFFFFFFFFFFF0#64), c.ksegl)
          else (c.ksegb, (c.ksegl &&& ~~~0x1FFFF#64) ||| (BitVec.ofNat 64 (min (v % 2 ^ 17) 65536) &&& 0x1FFFF#64))) ∧
        ∀ d, ((u.die d).kpair x.ctx).wanted = true) ∧
      ∀ n : BitVec 10, n ≠ 0x148 → n ≠ 0x149 → let m := csrwrMask n.toNat
        exec (.csrwr p n a) s = gives (((s.modStrand s.fire.k fun y => y.setCsr n.toNat m w).modCtx x.ctx fun y =>
          y.setCsr n.toNat m w).modDie x.die fun y => y.setCsr n.toNat m w) (s.csr x c n.toNat)

/-- INJERR arms an error; SELFT and SCAN test a tile of no region; ELOGRD copies log entries to memory and ATTEST a report
(R350, R351, R354 to R356). SCAN's range of 4,096 bytes and tests that end in one step are the model's choice (log 21); that ELOGRD's
word holds the next sequence number to be read is its reading (log 30). -/
def Obligations.FleetMembers : Prop :=
  ∀ (s : State) (p : PMode) (a : Tgt) (x : Strand) (c : Ctx), s.ready p = true → s.strand? s.fire.k = some x →
    s.ctx? x.ctx = some c →
    (∀ (v : Nat) (u : Bool) (n : BitVec 3), s.idle = true → wordOperand s.fire.left = .ok v →
      (s.injOwn x c n.toNat v = true ∨ c.super = true) → (n.toNat ≤ 3 ∨ u = false) → injRange n.toNat v = true →
      exec (.injerr p u n a) s = .next ((s.modDie (injDie n.toNat v) fun y =>
        { y with armed := y.armed ++ [(n.toNat, v, u)] }).emit a .none (Tok.i64 0 s.fire.marks))) ∧
    (∀ v : Nat, wordOperand s.fire.left = .ok v → c.super = true →
      (∀ g ∈ (s.die (bits v 1 0)).regions, g.holds (bits v 9 2) = false) →
      let tested := fun (u : State) => (u.die (bits v 1 0)).opwin (bits v 9 2) = OpWin.reset
      (s.idle = true → ∃ u, exec (.selft p a) s = .next u ∧ (s.answers u a 0 ∨ s.answers u a 5) ∧ tested u) ∧
      ∀ n : Nat, s.myTurn false none = true → spliceAddr 4096 s.fire.right = .ok n →
        s.readable x x.stamp n scanBytes = true → ∃ u, exec (.scan p a) s = .next u ∧
          (((s.answers u a 0 ∨ s.answers u a 5) ∧ tested u) ∨ s.answers u a 6)) ∧
    (∀ (m v : Nat) (e : Bool) (n : BitVec 6) (l : BitVec 3), s.myTurn true none = true →
      spliceAddr 64 s.fire.left = .ok m → wordOperand s.fire.right = .ok v →
      let r := s.elogUnits x c e l.toNat (n.toNat + 1) (v % 2 ^ 32) (bits v 33 32)
      let word := r.1.length % 2 ^ 16 + r.2 % 2 ^ 32 * 2 ^ 16
      (r.1 = [] → exec (.elogrd p e n l a) s = .next (s.emit a .none (Tok.i64 word s.fire.marks))) ∧
      (r.1 ≠ [] → s.reachable x x.lead x.stamp m r.1.flatten.length = true → ∃ (j : Nat) (st : Stamp) (u : State),
        s.dwrite x.ctx x.die ⟨x.lead, s.fire.req⟩ x.stamp s.fire.req true m r.1.flatten = .ok (j, st, u) ∧
        exec (.elogrd p e n l a) s =
          .next ((u.modStrand s.fire.k fun y => { y with stamp := st }).park .memory none [j, word]))) ∧
    ∀ m n : Nat, s.myTurn true none = true → spliceAddr 4096 s.fire.left = .ok m → spliceAddr 64 s.fire.right = .ok n →
      s.readable x x.stamp n 64 = true →
      let rep := s.report (s.vpeek x.ctx x.die n 64)
      s.reachable x x.lead (x.stamp.join s.depAll) m rep.length = true → ∃ (j : Nat) (st : Stamp) (u v : State),
        s.dwrite x.ctx x.die ⟨x.lead, s.fire.req⟩ (x.stamp.join s.depAll) s.fire.req true m rep = .ok (j, st, u) ∧
        exec (.attest p a) s = .next v ∧
        v.run? s.fire.k = (s.run? s.fire.k).map (fun r => r.park s.fire .memory none [j, 0]) ∧
        ∀ d h, (v.die d).path h = (u.die d).path h

/-- BRKR sets and clears a comparator, TRCMK marks the trace, CYCRD reads a cycle account, VCHK reads a row's valid bits or
an accumulator's (R325, R326, R330 to R332, R338). -/
def Obligations.DebugMembers : Prop :=
  ∀ (s : State) (p : PMode) (a : Tgt) (x : Strand), s.ready p = true → s.idle = true → s.strand? s.fire.k = some x →
    let k := s.fire.k
    let done := fun (u : State) => Host.Outcome.next (u.emit a .none (Tok.done s.fire.its))
    let gives := fun (v : Nat) => Host.Outcome.next (s.emit a .none (Tok.i64 v s.fire.marks))
    (∀ (n : BitVec 2) (l : Tok), s.fire.left = some l →
      exec (.brkr p .off n a) s = done (s.modStrand k fun y => { y with brkr := del n.toNat y.brkr }) ∧
      (l.tag = .i64 ∨ l.tag = .idx → exec (.brkr p .addr n a) s =
        done (s.modStrand k fun y => { y with brkr := put n.toNat (false, l.word.toNat) y.brkr })) ∧
      (l.isIntScalar = true → exec (.brkr p .rsid n a) s = done (s.modStrand k fun y =>
        { y with brkr := put n.toNat (true, l.lane l.tag.width 0 % 2 ^ 8) y.brkr }))) ∧
    (∀ t : BitVec 8, let blk := ((s.run? k).map fun r => r.blk.addr).getD 0
      (s.fire.left = none → exec (.trcmk p t a) s = done (s.trace k 3 blk t.toNat 0)) ∧
      ∀ v : Nat, wordOperand s.fire.left = .ok v → exec (.trcmk p t a) s = done (s.trace k 3 blk t.toNat v)) ∧
    ∀ v : Nat, wordOperand s.fire.left = .ok v →
      let tile := 16 * (x.region.r + bits v 7 4) + x.region.c + bits v 3 0
      let outside := x.region.rows ≤ bits v 7 4 ∨ x.region.cols ≤ bits v 3 0
      (∀ z : BitVec 4,
        (2 ^ 11 ≤ v ∨ outside → exec (.cycrd p z a) s = gives (2 ^ 64 - 1)) ∧
        (v < 2 ^ 11 → ¬ outside →
          exec (.cycrd p z a) s = gives (((s.die x.die).account tile (bits v 10 8)).select z.toNat))) ∧
      (∀ (w : BitVec 10) (u : Win), look w.toNat x.wins = some u → v / u.rpe < u.cap →
        (u.extent ≤ v / u.rpe → exec (.vchk p false w a) s = gives 0) ∧
        (v / u.rpe < u.extent → exec (.vchk p false w a) s = gives
          ((u.row (v / u.rpe) (v % u.rpe)).valid.toNat % 2 ^ (u.rowBytes / 4) + 2 ^ 32))) ∧
      ∀ w : BitVec 10,
        (outside ∨ isMTile tile = true ∨ 4095 < v / 2 ^ 8 → exec (.vchk p true w a) s = gives (2 ^ 64 - 1)) ∧
        (¬ outside → isMTile tile = false → v / 2 ^ 8 ≤ 4095 → exec (.vchk p true w a) s =
          gives (if ((s.die x.die).acc tile (v / 2 ^ 8)).tag = 15 then 0 else 1))

/-! ### The package's own acts: the rows of the opcode table that no program holds -/

/-- PACKAGE_RESET leaves reset state with the image set that was loaded last, booted with the tiles retired and logged that failed
their test, or in recovery; CONTEXT_OPEN and CONTEXT_CLOSE begin and end a context, a launch that has not started being refused; LDOOR
takes a doorbell up to the ring's size past LHEAD, in recovery none, and of a closed context refuses the record posted; PWRCAP, RETMAP and REGISTER_WRITE write their registers; and
CONSTANT_SEGMENT_COPY makes a new constant store current and answers the CSRWR that waits for it (R6, R16, R59, R340, R342, R346,
R348, R349, R352, R354). That reset keeps the agenda, which firmware is accepted and which tile fails, and that the host's
software sets up a context's own registers, are the model's (log 1, log 6, log 8); that a tile that failed is logged with flags 4, an
M-tile in array 0 and a C-tile in array 1 (log 30), that an unstarted launch of a closing context is refused, and which of a host's
writes are a record posted to a closed one (log 26), and that the copy of the constant segment reads with the writer's stamp (log 31)
are deduced. -/
def Obligations.ContextsAndRegisters : Prop :=
  ∀ s : State,
    (∃ t : State, exec .packageReset s = .next t ∧ t.ctxs = [] ∧ t.strands = [] ∧ t.mem = State.reset.mem ∧ t.image = s.image ∧
      t.pwrcap = 2200 ∧ ((t.boot = 4 ∧ t.recovery = false ∧ ∀ d,
          let failed := (List.range 256).filter fun n => Config.tileTestFails s.free (256 * (d % 4) + n)
          t.die d = { Die.reset with retmap := (t.die d).retmap, logs := (t.die d).logs } ∧
          (∀ n, n < 256 → (t.die d).retired n = failed.contains n) ∧
          ((t.die d).logs[0].ents.map fun e => (e.tile.toNat, e.flags.toNat)) =
            (failed.filter isMTile).map (fun n => (4 * n + d % 4, 4)) ∧
          ((t.die d).logs[1].ents.map fun e => (e.tile.toNat, e.flags.toNat)) =
            (failed.filter fun n => !isMTile n).map fun n => (4 * n + d % 4, 4)) ∨
        (t.boot = 1 ∧ t.recovery = true ∧ ∀ d, t.die d = Die.reset))) ∧
    (∀ (c q : Nat) (priv super : Bool) (fs : List (Nat × Nat)), s.boot = 4 → c < 64 → s.ctx? c = none →
      ∃ t : State, exec (.contextOpen c q priv super fs) s = .next t ∧
        t.ctx? c = some
          { Ctx.start with
            rgnq := BitVec.ofNat 64 (q % 2 ^ 10)
            ctxpriv := BitVec.ofNat 64 ((if priv then 1 else 0) + if super then 2 else 0)
            frames := fs } ∧
        (∀ e, e ≠ c → t.ctx? e = s.ctx? e) ∧ ∀ d, look c (t.die d).ksegs = none) ∧
    (∀ c x, s.ctx? c = some x → ringSize x.lring = 0 → (∀ e ∈ s.strands, e.2.ctx = c → 1024 ≤ e.1) →
      ∃ t : State, exec (.contextClose c) s = .next t ∧ t.ctx? c = none ∧ (∀ e, e ≠ c → t.ctx? e = s.ctx? e) ∧
        (∀ e ∈ t.strands, e.2.ctx ≠ c) ∧
        (∀ i ∈ t.images, i.ctx ≠ c ∧ ∀ k z, i.key = some k → s.strand? k = some z → z.ctx ≠ c) ∧
        (∀ q ls l, (q, ls) ∈ x.queues → l ∈ ls → l.started = false → l.comp ≠ 0 → refusal c l.comp l.lhead ∈ t.done) ∧
        ∀ d, (∀ g ∈ (t.die d).regions, g.ctx ≠ c) ∧ (∀ e ∈ (t.die d).store, e.2.ctx ≠ c) ∧
          (∀ e ∈ (t.die d).tickets, e.2.ctx ≠ c) ∧ ∀ e ∈ (t.die d).tlb, e.ctx ≠ c) ∧
    (s.recovery = true → ∀ c v w, exec (.ldoor c v w) s = .next s) ∧
    (s.recovery = false → ∀ (c a : Nat) (v : BitVec 32) (bs : List Byte), s.ctx? c = none → bs.length = 320 → a % 64 = 0 →
      (∀ i, i < 320 → s.backed (a + i) 1 = true ∧ s.backing (a + i) = a + i) →
      leNat ((bs.drop 24).take 8) ≠ 0 → ∃ t : State, exec (.ldoor c v (bs.zipIdx.map fun e => (a + e.2, e.1))) s = .next t ∧
        t.done = s.done ++ [refusal c (leNat ((bs.drop 24).take 8)) (v - 1).toNat]) ∧
    (s.recovery = false → ∀ c x v (w : List (Nat × BitVec 8)), s.ctx? c = some x → ∃ t : State, exec (.ldoor c v w) s = .next t ∧
      t.ctx? c = some { x with
        ldoor := if (v - x.lhead.setWidth 32).toNat ≤ 2 ^ ringSize x.lring then v.setWidth 64 else x.ldoor } ∧
      (∀ a, (∀ b ∈ w, s.backing b.1 ≠ a) → t.mem.read a = s.mem.read a) ∧
      ∀ a b, w = [(a, b)] → s.backed a 1 = true → t.mem.read (s.backing a) = b) ∧
    (s.recovery = false → ∀ w, ∃ t : State, exec (.pwrcap w) s = .next t ∧ t.pwrcap = w.setWidth 64 ∧ t.strands = s.strands ∧ t.mem = s.mem) ∧
    (∀ d tile, ∃ t : State, exec (.retmap d tile) s = .next t ∧
      ∀ n, (t.die d).retired n = ((s.die d).retired n || n % 256 == tile % 256)) ∧
    (s.recovery = false → ∀ (c d : Nat) (x : Ctx) (v : Word), s.ctx? c = some x →
      let masked := fun (m old : Word) => (old &&& ~~~m) ||| (v &&& m)
      (∀ w ∈ [Writer.host, Writer.jasper], ∃ t : State, exec (.registerWrite w 0x1B0 c d v) s = .next t ∧
        t.ctx? c = some { x with lring := masked 0x00FFFFFFFFFFF01F x.lring } ∧ t.mem = s.mem) ∧
      (∃ t : State, exec (.registerWrite .host 0x190 c d v) s = .next t ∧
        t.ctx? c = some { x with ptroot := masked 0x00FFFFFFFFF00000 x.ptroot } ∧ t.mem = s.mem) ∧
      (∃ t : State, exec (.registerWrite .host 0x150 c d v) s = .next t ∧
        t.ctx? c = some { x with thnd := masked 0x00FFFFFFFFFFFFF0 x.thnd } ∧ t.mem = s.mem) ∧
      (∃ t : State, exec (.registerWrite .beryl 0x195 c d v) s = .next t ∧
        t.ctx? c = some { x with rgnq := masked 0x3FF x.rgnq } ∧ t.mem = s.mem) ∧
      (∃ t : State, exec (.registerWrite .jasper 0x1B3 c d v) s = .next t ∧
        t.ctx? c = some { x with hamode := masked 7 x.hamode } ∧ t.mem = s.mem) ∧
      ∃ t : State, exec (.registerWrite .jasper 0x182 c d v) s = .next t ∧
        (t.die d).wfring = masked 0x00FFFFFFFFFFF01F (s.die d).wfring ∧ t.mem = s.mem) ∧
    ∀ (c d : Nat) (x : Ctx), s.ctx? c = some x → ((s.die d).kpair c).wanted = true →
      (∀ e, e % 4 ≠ d % 4 → ((s.die e).kpair c).wanted = false) →
      s.kuses d c (1 - ((s.die d).kpair c).cur) = false →
      let va := bits x.ksegb.toNat 55 4 * 16
      let len := bits x.ksegl.toNat 16 0
      let current := fun (t : State) =>
        (∀ e, ((t.die e).kpair c).wanted = false ∧ ((t.die e).kpair c).cur = 1 - ((s.die e).kpair c).cur) ∧
        let q := (t.die d).kpair c
        (if q.cur = 0 then q.s0 else q.s1) = { bytes := s.vpeek c d va len, len := len }
      (s.kwaiters c = [] → s.readable (engineStrand c d) Stamp.zero va len = true →
        ∃ t : State, exec (.constantSegmentCopy d c) s = .next t ∧ current t) ∧
      ∀ (p : Pend) (y : Strand) (r : Run) (pm : PMode) (n : BitVec 10) (a : Tgt), s.kwaiters c = [p] →
        s.holds p y r (.csrwr pm n a) → s.readable (engineStrand c d) y.stamp va len = true →
        ∃ t : State, exec (.constantSegmentCopy d c) s = .next t ∧ current t ∧ t.run? p.fire.k =
          some ((r.settle p.fire a .none (some (.tok (Tok.i64 (p.prog.headD 0) p.fire.marks))) none).settleFences)

/-- LAUNCH_TAKE queues the record at LHEAD or refuses it with end 3; LAUNCH_DISPATCH starts the next launch's strand on the
rectangle found for it, or pre-empts for one, or asks Jasper, and then blocks what is not before it; WINDOW_PRELOAD fills a
declared element; LAUNCH_COMPLETION writes the record; and REGION_GRANT answers the waiting RGNAL served first (R35, R109, R239,
R309 to R311, R320, R340, R342, R343). That a ring or completion address in the aperture that the table does not map stops the act
under the name physicalHole is the model's choice: R339 gives cause 0x06, and the act has no strand to take it (log 22). -/
def Obligations.LaunchesStartStrands : Prop :=
  ∀ s : State,
    (∀ (c : Nat) (x : Ctx), s.ctx? c = some x → s.boot = 4 → ringSize x.lring ≠ 0 →
      x.lhead.setWidth 32 ≠ (x.ldoor.setWidth 32 : BitVec 32) →
      let head := x.lhead.toNat
      let pa := ringBase x.lring + head % 2 ^ ringSize x.lring * 320
      let y : Ctx := { x with lhead := BitVec.ofNat 64 ((head + 1) % 2 ^ 32) }
      let bs := s.mem.readN (s.backing pa) 320
      (s.backed pa 320 = false → exec (.launchTake c) s = .fault (.physicalHole pa)) ∧
      (s.backed pa 320 = true → (s.die 0).armed = [] → ∃ t : State, exec (.launchTake c) s = .next t ∧
        (∀ l, launchOf bs head = some l → t.ctx? c = some (y.enqueue l) ∧ t.done = s.done) ∧
        (launchOf bs head = none → t.ctx? c = some y ∧ t.done = s.done ++
          if leNat ((bs.drop 24).take 8) = 0 then []
          else [{ ctx := c, comp := leNat ((bs.drop 24).take 8), code := 3, cause := 0, ident := 0, lhead := head, tres := 0,
                  q := 0 }]))) ∧
    (∀ (c : Nat) (x : Ctx) (l : Launch) (q : Request), s.ctx? c = some x → x.nextLaunch = some l →
      requestOf l.req.toNat = some q →
      s.heldFor (launchWho c) = none →
      let prio := x.queuePrio l.q
      let freed := fun (_ : Nat) (g : Region) => !(g.strand.any (s.freeables prio).contains)
      let block := fun (u : State) => u.modCtx c fun y =>
        { y with blocked := if y.blocked.contains l.q then y.blocked else y.blocked ++ [l.q] }
      (s.findRect (launchWho c) prio c q allCount anyRect = none →
        (∀ d g, s.findRect (launchWho c) prio c q freed anyRect = some (d, g) → exec (.launchDispatch c) s =
          .next (block (s.preemptAt (launchWho c) d g (s.freeables prio)))) ∧
        (s.findRect (launchWho c) prio c q freed anyRect = none →
          exec (.launchDispatch c) s = .next (block (s.postRequest prio q)))) ∧
      ∀ d g, s.findRect (launchWho c) prio c q allCount anyRect = some (d, g) → l.regs.length = 31 →
        ∃ (t : State) (y : Strand), exec (.launchDispatch c) s = .next t ∧ t.strand? (strandKey d g.lead) = some y ∧
          y.ctx = c ∧ y.die = d ∧ y.lead = g.lead ∧ y.phase = .preload 0 ∧ y.bc = BitVec.ofNat 64 l.entry ∧
          y.base = x.queuePrio l.q ∧ y.region = { g with strand := some (strandKey d g.lead) } ∧
          y.region ∈ (t.die d).regions ∧ (∀ z, t.ctx? c = some z → z.blocked.contains l.q = false) ∧ ∀ i v, l.regs[i]? = some v → y.readReg (i + 1) = (v, .i64)) ∧
    (∀ (k n : Nat) (x : Strand), s.strand? k = some x → x.phase = .preload n →
      let ps := preloads (((s.ctx? x.ctx).bind fun c => look x.launch.entry c.decls).getD [])
      (ps[n]? = none → exec (.windowPreload k) s = .next (s.modStrand k fun y => { y with phase := .enter })) ∧
      ∀ e va len first w, ps[n]? = some (e, va, len, first) → look e x.wins = some w →
        s.readable x x.stamp va len = true → ∃ (t : State) (y : Strand) (v : Win), exec (.windowPreload k) s = .next t ∧
          t.mem = s.mem ∧ t.strand? k = some y ∧ y.phase = .preload (n + 1) ∧
          (∀ d, (x.stamp.join s.depAll).at d ≤ y.stamp.at d) ∧ t.win? k e = some v ∧
          { v with stamps := w.stamps } = (w.rowsFrom w.tag (s.vpeek x.ctx x.die va len)).foldl Win.putRow w) ∧
    (∀ (c j : Nat) (r : Completion), s.done[j]? = some r → r.ctx = c →
      let at_ := s.backing r.comp
      (s.backed r.comp 16 = false → exec (.launchCompletion c j) s = .fault (.physicalHole r.comp)) ∧
      (s.backed r.comp 16 = true → ∃ t : State, exec (.launchCompletion c j) s = .next t ∧ t.done = s.done.eraseIdx j ∧
        t.signals = s.signals ++ [r.comp] ∧
        t.mem.readN at_ 16 = leBytes 1 r.code ++ leBytes 1 r.cause ++ leBytes 2 r.ident ++ leBytes 4 r.lhead
          ++ leBytes 8 r.tres.toNat ∧
        ∀ a, a < at_ ∨ at_ + 16 ≤ a → t.mem.read a = s.mem.read a)) ∧
    ∀ (c : Nat) (p : Pend) (rest : List Pend) (x : Strand) (r : Run) (pm : PMode) (a : Tgt) (v : Nat) (q : Request) (d : Nat) (g : Region),
      s.sysQueue c = p :: rest → s.holds p x r (.rgnal pm a) → x.ctx = c → (s.ctx? c).isSome = true → wordOperand p.fire.left = .ok v → wordOperand p.fire.right = .ok c →
      requestOf v = some q → c ≤ 63 → let who := State.queueNo { s with fire := p.fire }
      s.heldFor who = none → s.findRect who x.eff c q allCount anyRect = some (d, g) →
      ∃ t : State, exec (.regionGrant c) s = .next t ∧ g ∈ (t.die d).regions ∧
        t.run? p.fire.k = some (r.settle p.fire a .none (some (.tok (Tok.i64 (g.handle d) p.fire.marks))) none)

/-- BLOCK_LOAD begins the block at BC where every check of R50 passes, and traps with its first failure otherwise;
FABRIC_RECONFIGURE, SLOT_RESULT_OFFER and SKIP_TOKEN_PASS move a block on, a second token at a skipped position being check 0x0B;
CONTROL_BLOCK_END and FABRIC_BLOCK_COMPLETE bring it to its edge, with cause 0x01 and check 0x10 where it has run dry, at once
where a KSET was refused, and a block of htype 2 with exit 0 (R41, R50, R113, R114, R132 to R134, R136, R138, R141, R142, R183,
R301). That the trap of a block that has run dry has the sequencer's origin with slot 0 is deduced (log 24); which code a load reports
where two fit is the model's choice, inside checkBlock (log 33). -/
def Obligations.BlocksBeginAndEnd : Prop :=
  ∀ (s : State) (k : Nat) (x : Strand), s.strand? k = some x →
    (∀ hd bs : List Byte, x.phase = .enter → x.halted = false → x.save = .running → x.shrunk = false →
      s.quiet x.stamp = true → (s.die 0).armed = [] → s.untraced x = true →
      let a := x.bc.toNat
      a % 16 = 0 → a < 2 ^ 56 → s.fetched x a 16 = some hd → s.fetched x a (blockBytes (leNat hd)) = some bs →
      (s.checkBlock x a bs = none → x.breaksAt true (blockOf a bs).rsid = none →
        ∃ (t : State) (y : Strand), exec (.blockLoad k) s = .next t ∧ t.mem = s.mem ∧ t.strand? k = some y ∧ y.phase = .run ∧
          y.bc = x.bc ∧ y.regs = x.regs ∧
          y.run = some (Run.start (blockOf a bs) x.region x.inputHead (s.kcurrent x) x.hmode)) ∧
      ∀ c e, s.checkBlock x a bs = some (c, e) → ∃ t : State, exec (.blockLoad k) s = .next t ∧ t.mem = s.mem ∧
        t.strand? k = some (x.enterTrap (s.thndOf x) c (seqOrigin k 0) a e a false)) ∧
    ∀ r : Run, x.run = some r →
      (s.runs k x r → ∀ copy slot, exec (.fabricReconfigure k copy slot) s =
        .next (s.modRun k fun q => q.modNode copy slot fun n => { n with cfg := true })) ∧
      (x.working = true → ∀ (copy slot : Nat) (n : Node) (o : Out), r.node? copy slot = some n → n.offers = [o] →
        let gone := fun (q : Run) => q.modNode copy slot fun m => { m with out := m.out.erase o }
        (∀ (m : BitVec 5) (v : Tok), o.tgt = .reg m → o.item = .tok v → v.tag ≠ .poison → n.copy = copy → n.slot = slot →
          ∃ t : State, exec (.slotResultOffer k copy slot) s = .next t ∧ t.run? k = some (gone (r.hold
            { reg := m.toNat, slot := slot, copy := copy, val := v.word, tag := v.tag,
              iter := if r.blk.isFabric && (r.blk.instr? slot).any isConst then 0
                else r.globalIter x.region copy o.iter }))) ∧
        ∀ j pos, Tgt.slotPos o.tgt = some (j, pos) → n.copy = copy → n.slot = slot →
          let ls := r.outLinks copy slot o.b
          (r.blk.isFabric = true → (r.blk.instr? slot).any isConst = false → (∀ l ∈ ls, l.items.length < 4) →
            ∃ t : State, exec (.slotResultOffer k copy slot) s = .next t ∧
              t.run? k = some (gone (r.push (fun l => ls.contains l) o.iter o.item))) ∧
          (r.blk.isFabric = true → (r.blk.instr? slot).any isConst = true →
            ∃ t : State, exec (.slotResultOffer k copy slot) s = .next t ∧
              t.run? k = some (gone (r.stand (fun l => ls.contains l) o.item))) ∧
          ∀ v : Tok, r.blk.isFabric = false → o.item = .tok v →
            (∀ l ∈ ls, ∀ m ∈ r.links, m.slot = l.slot → m.pos = l.pos → m.items = []) →
            ∃ t : State, exec (.slotResultOffer k copy slot) s = .next t ∧
              t.run? k = some (gone (r.push (fun l => ls.contains l) o.iter o.item))) ∧
      (s.runs k x r → ∀ (copy slot it : Nat) (n : Node) (i : Instr), r.node? copy slot = some n → r.blk.instr? slot = some i →
        r.mstop = false → (∀ p c, i ≠ .ctlsnd p c) →
        let f : Firing := { Firing.zero with k := k, copy := copy, slot := slot, iter := it }
        let passed := fun (q : Run) => q.finish f (tgtA i) (tgtB i) (some .skip) (some .skip)
        (r.ready k x.region n = .skip it false → exec (.skipTokenPass k copy slot) s = .next (s.modRun k passed)) ∧
        (r.ready k x.region n = .skip it true → ∃ t : State, exec (.skipTokenPass k copy slot) s = .next t ∧
          t.run? k = some (passed { r with traps := r.traps ++ [{ cause := 0x01, origin := State.origin { s with fire := f },
                                                                  extra := checkExtra slot 0x0B, atExit := false }] }))) ∧
      let edge := fun (u : State) => u.modStrand k fun y => { y with phase := .edge, crossed := false }
      let dry := s.addTrap k { cause := 0x01, origin := seqOrigin k 0, extra := checkExtra 0xFF 0x10, atExit := true }
      (s.runs k x r → r.blk.isFabric = false →
        (∀ n ∈ r.nodes, n.pend = [] ∧ n.out = [] ∧ r.ready k x.region n = .no) →
        (r.exits ≠ [] → exec (.controlBlockEnd k) s = .next (edge s)) ∧
        (r.exits = [] → exec (.controlBlockEnd k) s = .next (edge dry))) ∧
      (s.runs k x r → r.blk.isFabric = true →
        ((∀ n ∈ r.nodes, n.cfg = true ∧ n.pend = [] ∧ n.out = [] ∧ r.ready k x.region n = .no) →
          (r.complete x.region = true →
            (r.blk.htype ≠ 2 → exec (.fabricBlockComplete k) s = .next (edge s)) ∧
            (r.blk.htype = 2 → exec (.fabricBlockComplete k) s =
              .next (edge (s.modRun k fun q => { q with exits := [(0, 0, .goto 0)] })))) ∧
          (r.complete x.region = false → r.ksetFailed = false → exec (.fabricBlockComplete k) s = .next (edge dry))) ∧
        (r.ksetFailed = true → r.blk.htype ≠ 2 ∨ r.complete x.region = false →
          exec (.fabricBlockComplete k) s = .next (edge s)))

/-- BLOCK_EDGE applies ENTER, LEAVE and the register writes and takes the exit: to its successor, with the block-link stack pushed
and popped, its overflow and underflow being checks 0x11 and 0x12; to a trap of TRAPI, BRKS or SPLACK outside splice mode; to a halt;
to the end of the strand; to a marker forwarded; or into a task. Or it takes the first pending trap. STRAND_END takes a strand away,
after a trap still owed; JASPER_END_STRAND ends one that has stopped; and a trap stops a strand in handler mode (R114 to R118, R124,
R126, R190, R211, R247, R262, R330, R343). That CALLB's overflow is check 0x11 with the callee in TRES, and that a trap still owed at
STRAND_END is taken there with TRES 0, are deduced (log 24), and so are the end codes 1 and 2 of JASPER_END_STRAND (log 26). -/
def Obligations.BlockEdges : Prop :=
  ∀ (s : State) (k : Nat) (x : Strand), s.strand? k = some x →
    (∀ r : Run, x.run = some r → x.phase = .edge → x.save = .running → x.halted = false → x.crossed = false →
      (∀ n e, bits x.dbgctl.toNat 1 0 = 0 → r.traps = [] → x.owed = [] → r.mstop = false → x.splpost = none →
        x.shrink = none → r.exits = [(n, 0, e)] → n ≠ edgeSlot →
        let z := { x.edgeWrites r with owed := [], run := none, crossed := false }
        let goes := fun (y : Strand) (a : Nat) => x.breaksAt false a = none →
          exec (.blockEdge k) s = .next (s.modStrand k fun _ => { y with phase := .enter, bc := BitVec.ofNat 64 a })
        let trapped := fun (cause extra tres : Nat) => s.untraced x = true → ∃ u : State, exec (.blockEdge k) s = .next u ∧
          u.mem = s.mem ∧
          u.strand? k = some (z.enterTrap (s.thndOf x) cause (seqOrigin k n) r.blk.addr extra tres false)
        let marks := fun (payload : Nat) (after : ExitAct) => ∃ (u : State) (y : Strand) (q : Run) (m : Node) (v : Tok),
          exec (.blockEdge k) s = .next u ∧ u.mem = s.mem ∧ u.strand? k = some y ∧ y.run = some q ∧ q.nodes = [m] ∧
            m.out = [{ iter := 0, tgt := .port (BitVec.ofNat 7 x.outPort), b := false, item := .tok v, reg := false }] ∧
            v.tag = .mark ∧ v.data.toNat = payload % 2 ^ 64 ∧ q.exits = [(edgeSlot, 0, after)] ∧ y.regs = z.regs
        (∀ i, e = .goto i → goes z (r.blk.exitAt i)) ∧
        (∀ a, e = .addr a → goes z a) ∧
        (∀ c i, e = .call c i →
          (x.blink.length < 8 → goes { z with blink := BitVec.ofNat 64 (r.blk.exitAt i) :: x.blink } (r.blk.exitAt c)) ∧
          (8 ≤ x.blink.length → trapped 0x01 (checkExtra n 0x11) (r.blk.exitAt c))) ∧
        (e = .ret →
          (∀ a l, x.blink = a :: l → goes { z with blink := l } a.toNat) ∧
          (x.blink = [] → trapped 0x01 (checkExtra n 0x12) r.blk.addr)) ∧
        (∀ c i, e = .trapi c i → trapped 0x14 c (r.blk.exitAt i)) ∧
        (∀ c i, e = .brks c i →
          (x.attached = false → trapped 0x12 c (r.blk.exitAt i)) ∧
          (x.attached = true → ∃ (u : State) (y : Strand), exec (.blockEdge k) s = .next u ∧ u.strand? k = some y ∧
            y.halted = true ∧ y.tres = BitVec.ofNat 64 (r.blk.exitAt i) ∧ y.bc = y.tres ∧ y.phase = .enter ∧ y.run = none ∧
            y.regs = z.regs)) ∧
        (e = .halts → exec (.blockEdge k) s = .next (s.modStrand k fun _ => { z with phase := .ending 0 })) ∧
        (∀ c, e = .splack c →
          (x.smode = false → trapped 0x01 (checkExtra n 0x17) r.blk.addr) ∧
          (x.smode = true → c ≠ 0 → 5 < c ∨ (s.ctx? x.ctx).any (fun y => bit y.hamode.toNat 2) = false →
            marks (failedPayload x.splcur.toNat c) (.passing x.splstp.toNat true)) ∧
          (x.smode = true → c = 0 → bits x.splcur.toNat 9 8 = 1 → marks (x.splcur.toNat ||| 2 ^ 10) .removing)) ∧
        (∀ h lo hi t, e = .enterTask h lo hi → s.task? h = some t →
          goes { (((z.writeReg 1 t.arg .i64).writeReg 2 (if t.range then BitVec.ofNat 64 (wrap 64 lo) else t.a2) .i64).writeReg 3
              (if t.range then BitVec.ofNat 64 (wrap 64 hi) else 0) .i64) with
            tcur := BitVec.ofNat 64 h, tpiece := { handle := h, lo := lo, hi := hi } } t.entry.toNat) ∧
        ∀ i, e = .tpop i → (s.ctx? x.ctx).any Ctx.playing = false →
          State.takes (s.modStrand k fun _ => { x.edgeWrites r with owed := [], crossed := true }) k false = [] →
          goes z (r.blk.exitAt i)) ∧
      ∀ t : Trap, firstTrap (r.traps ++ x.owed) = some t → s.untraced x = true → r.exits.all (fun e =>
          match e.2.2 with
          | .enterTask _ _ _ => false
          | _ => true) = true →
        ∃ (u : State) (y : Strand), exec (.blockEdge k) s = .next u ∧ u.strand? k = some y ∧ u.mem = s.mem ∧
          let w := x.edgeWrites r
          (s.canTrap x = true → y.readReg 28 = (BitVec.ofNat 64 t.cause, .i64) ∧
            y.readReg 29 = (BitVec.ofNat 64 t.origin, .i64) ∧ y.readReg 30 = (BitVec.ofNat 64 r.blk.addr, .i64) ∧
            y.readReg 31 = (BitVec.ofNat 64 t.extra, .i64) ∧
            y.tsav = #v[(w.readReg 28).1, (w.readReg 29).1, (w.readReg 30).1, (w.readReg 31).1] ∧
            y.tstat = trapStatus t.cause false (w.readReg 28).2 (w.readReg 29).2 (w.readReg 30).2 (w.readReg 31).2 ∧
            y.hmode = true ∧
            y.tres = BitVec.ofNat 64 (if t.atExit then r.blk.addr else r.resumeAt w) ∧
            y.bc = BitVec.ofNat 64 (thndBase (s.thndOf x)) ∧ y.phase = .enter ∧
            (∀ n, n < 28 → y.readReg n = w.readReg n) ∧ y.blink = x.blink ∧ y.wins = x.wins) ∧
          (s.canTrap x = false → y.phase = .stopped ∧ y.regs = w.regs ∧ y.tstat = x.tstat ||| 4)) ∧
    (∀ t : Trap, x.phase = .ending 0 → firstTrap x.owed = some t → s.untraced x = true →
      ∃ u : State, exec (.strandEnd k) s = .next u ∧ u.mem = s.mem ∧ u.strand? k = some
        (({ x with owed := [] } : Strand).enterTrap (s.thndOf x) t.cause t.origin x.bc.toNat t.extra 0 false)) ∧
    (∀ code : Nat, x.phase = .ending code → (code = 0 → x.owed = []) → x.copies = [] → x.colls = [] → s.accessesDone k = true → s.streaming k = false →
      ∃ t : State, exec (.strandEnd k) s = .next t ∧ t.strand? k = none ∧
        (x.launch.comp ≠ 0 → ({ ctx := x.ctx, comp := x.launch.comp, code := code, cause := bits x.tstat.toNat 15 8,
                                ident := strandId k, lhead := x.launch.lhead, tres := x.tres, q := x.launch.q } : Completion)
          ∈ t.done)) ∧
    (x.attached = false → x.save.free = true → x.phase = .stopped ∨ x.halted = true →
      ∃ (t : State) (y : Strand), exec (.jasperEndStrand k) s = .next t ∧ t.strand? k = some y ∧
        y.phase = .ending (if x.phase = .stopped then 1 else 2) ∧ y.run = none ∧ y.susp = none ∧ y.regs = x.regs)

/-- A waiting read or fill that now succeeds is settled; a fill on a channel's link, the row images of a spill ring's oldest entry
and an end of stream enter the window (R146, R150, R154 to R156). -/
def Obligations.WindowWaitsAndChannels : Prop :=
  ∀ s : State,
    (∀ (k copy slot : Nat) (x : Strand) (i : Instr) (p : Pend) (sink : Bool) (t : List Nat → State → Try) (u : State)
        (v w : Option Item), s.oldest? k copy slot = some (x, i, p) → resumeOf i = some (sink, t) →
      t p.prog { s with fire := p.fire } = .done u v w →
      let settled : State := (u.endWait p).settle (tgtA i) (tgtB i) v w
      (∀ j e o, p.why = .winRead j e o → exec (.windowReadWaitEnd k copy slot) s = .next { settled with fire := s.fire }) ∧
      ∀ j e o, p.why = .winFill j e o → exec (.windowFillWaitEnd k copy slot) s = .next { settled with fire := s.fire }) ∧
    (∀ (k copy slot n : Nat) (x : Strand) (p : Pend) (pm : PMode) (w : BitVec 10) (a : Tgt) (v : Win) (j e o : Nat),
      s.oldest? k copy slot = some (x, .wrd pm w a, p) → p.fire.k = k → p.why = .winRead j e o → p.reg = false →
      look w.toNat x.wins = some v → wordOperand p.fire.left = .ok n → n / v.rpe < v.extent → v.extent ≤ v.cap →
      v.eosBelow (n / v.rpe) = false → x.stopsAt w.toNat v (n / v.rpe) = false → (s.die x.die).armed = [] →
      (v.row (n / v.rpe) (n % v.rpe)).bad = false → v.vmode = false →
      let f := fun (r : Run) => r.settle p.fire a .none (some (.tok ((v.row (n / v.rpe) (n % v.rpe)).tok p.fire.marks))) none
      exec (.windowReadWaitEnd k copy slot) s = .next ((s.readElems k v (n / v.rpe) 1).modRun k f)) ∧
    (∀ (k copy slot : Nat) (x : Strand) (p : Pend) (pm : PMode) (w : BitVec 10) (a : Tgt) (v : Win) (j e o : Nat) (l : Tok),
      s.oldest? k copy slot = some (x, .wfl pm w a, p) → p.fire.k = k → p.why = .winFill j e o → p.prog = [] →
      p.reg = false → (x.run.any fun r => r.fillTurn x.region p.fire w.toNat) = true → look w.toNat x.chans = none →
      look w.toNat x.wins = some v → v.filler.toNat = strandId k → v.eos = false → (v.frow ≠ 0 ∨ 1 ≤ v.free) →
      p.fire.left = some l → l.tag ≠ .mark → (l.tag = v.tag ∨ v.tag = .raw) →
      let f := fun (r : Run) => r.settle p.fire a .none (some (.tok (Tok.done p.fire.its))) none
      exec (.windowFillWaitEnd k copy slot) s = .next ((s.fillBy k k w.toNat fun u => u.putRow (u.rowOf l)).modRun k f)) ∧
    ∀ (k w : Nat) (x : Strand) (v : Win), s.strand? k = some x → look w x.wins = some v → x.save.free = true →
      (∀ (f : Fill) (l : List Fill), v.link = f :: l → v.admitsLink = true → v.eos = false →
        let stamped := fun (z : Win) => { z with link := l, stamps := joinStamps (v.touched z) f.stamp v.stamps }
        (f.slot ≠ eosSlot → s.active f = true → f.marker = false → f.fits = true → ∃ t : State,
          exec (.channelFill k w) s = .next t ∧ t.win? k w = some (stamped (v.putRow f.row))) ∧
        (f.slot = eosSlot → f.marker = true → ∃ t : State, exec (.channelEndOfStream k w) s = .next t ∧
          t.win? k w = some { stamped (v.putMarker f.row.data.toNat) with filler := 0, producer := none } ∧
          t.mem = s.mem)) ∧
      (v.free ≠ 0 → v.frow = 0 → v.ring ≠ 0 →
        let va := v.placeAt v.rhead.toNat 0
        let rowLen := 16 + v.rowBytes
        let img := fun (r : Nat) => Row.ofImage (((s.vpeek x.ctx x.die va v.placeBytes).drop (r * rowLen)).take rowLen)
        s.mapped x.ctx x.die .rd va v.placeBytes = true →
        ∃ (t : State) (z : Win), exec (.spillRingDrain k w) s = .next t ∧ t.win? k w = some z ∧ z.tail = v.tail + 1 ∧
          z.rhead = v.rhead + 1 ∧ z.rtail = v.rtail ∧ z.head = v.head ∧ t.mem = s.mem ∧
          ((img 0).tag ≠ .mark → ∀ r, r < v.rpe → z.row v.extent r = img r) ∧
          ((img 0).tag = .mark → z.row v.extent 0 = v.markerRow (img 0).data.toNat))

/-- A wait enters the wait-for table, also where its owner waits in turn; where it closes a cycle its strand takes cause 0x09 at
once: its block is suspended and every entry of it goes, the others stay. A cycle that no walk has reported the sweep charges so, with
the iteration that waits, and Jasper's WFINJ charges the strand it names (R116, R252 to R255, R259, R260, R274). -/
def Obligations.WaitsRegisterAndCycles : Prop :=
  ∀ s : State,
    (∀ (k copy slot n : Nat) (x : Strand) (r : Run) (m : Node) (p : Pend) (i : Nat × Nat × Nat × Nat),
      s.strand? k = some x → x.run = some r → x.working = true → r.node? copy slot = some m →
      m.unregistered? s k = some (p, i) → (s.die x.die).wfhost = false → (s.die x.die).wft.length < 4096 →
      freeKey 4096 (s.die x.die).wft = some n →
      let e0 := waitEntry i (.node k copy slot) x.ctx (s.waitIter p)
      let e := { e0 with hmark := s.haltedId e0.owner.toNat }
      let u := (s.modRun k fun q => q.modNode copy slot fun m =>
        { m with pend := m.pend.map fun v => if v = p then { v with reg := true } else v }).modDie x.die fun y =>
          { y with wft := put n e y.wft }
      let out := exec (.waitforRegister (.node k copy slot)) s
      let charged := fun (cyc : List WfEnt) => ∃ (t : State) (y : Strand), out = .next t ∧ t.strand? k = some y ∧
        y.susp.isSome = true ∧ y.run = none ∧ y.phase = .enter ∧ y.readReg 28 = (0x09, .i64) ∧
        y.readReg 31 = (BitVec.ofNat 64 (deadlockExtra cyc false), .i64) ∧ y.tres = BitVec.ofNat 64 r.blk.addr ∧
        y.suspBit = true ∧ (∀ f ∈ t.entries, f.2.2.nodeOf k = false) ∧
        ∀ f ∈ s.entries, f.2.2.nodeOf k = false → f ∈ t.entries
      (u.cycleOf 32 e = none → out = .next u) ∧
      (e.owner ≠ e.waiter → (∀ f ∈ s.entries, f.2.2.waiter = e.owner → f.2.2.owner ≠ e.waiter ∧
        ∀ g ∈ s.entries, g.2.2.waiter ≠ f.2.2.owner) → out = .next u) ∧
      (x.phase = .run → s.hostDetects x.ctx = false → s.canTrap x = true → s.untraced x = true →
        (∀ cyc, u.cycleOf 32 e = some cyc → (∀ f ∈ cyc, f.hmark = false) → charged cyc) ∧
        (e.owner = e.waiter → e.hmark = false → charged [e]))) ∧
    (∀ (d n k copy slot : Nat) (x : Strand) (r : Run) (e : WfEnt) (cyc : List WfEnt) (before after : List (Nat × Nat × WfEnt)),
      s.entries = before ++ (d, n, e) :: after → look n (s.die d).wft = some e →
      (∀ f ∈ before, s.sweepEntry f.1 f.2.1 = s) → (∀ f ∈ after, (s.sweepEntry d n).sweepEntry f.1 f.2.1 = s.sweepEntry d n) →
      s.cycleOf (s.entries.length + 2) e = some cyc → cyc.any (fun f => !f.told) = true → (∀ f ∈ cyc, f.hmark = false) →
      s.hostDetects e.ctx = false → e.who = .node k copy slot → slot ≠ edgeSlot → e.sw = false → s.strand? k = some x → x.run = some r →
      x.phase = .run → s.canTrap x = true → s.untraced x = true →
      ∃ (t : State) (y : Strand), exec .waitforSweep s = .next t ∧ t.strand? k = some y ∧ y.susp.isSome = true ∧
        y.run = none ∧ y.phase = .enter ∧ y.readReg 28 = (0x09, .i64) ∧
        (let o := r.origin k x.region copy slot e.iter;
          y.readReg 29 = (BitVec.ofNat 64 (if s.loops k slot then loopOrigin o e.iter else o), .i64)) ∧
        y.readReg 31 = (BitVec.ofNat 64 (deadlockExtra cyc true), .i64) ∧ y.tres = BitVec.ofNat 64 r.blk.addr ∧
        y.suspBit = true ∧ look n (t.die d).wft = none) ∧
    ∀ (c k : Nat) (i : BitVec 16) (x : Strand) (r : Run) (z : Ctx), s.ctx? c = some z → idKey i.toNat = k →
      i.toNat / 2 ^ 13 = 1 → s.strand? k = some x → x.ctx = c → x.run = some r → x.phase = .run → s.canTrap x = true →
      s.untraced x = true →
      ∃ (t : State) (y : Strand), exec (.wfinj c i) s = .next t ∧ t.strand? k = some y ∧ y.susp.isSome = true ∧
        y.run = none ∧ y.phase = .enter ∧ y.readReg 28 = (0x09, .i64) ∧ y.tres = BitVec.ofNat 64 r.blk.addr ∧
        y.suspBit = true ∧ (t.ctx? c).map (·.wfinj) = some (i.setWidth 64)

/-- A pending task matures and enters its die's pool; a waiting TIDLE takes a task; a gang's phase, a monitor, a free lock
and a queue with room end the waits on them (R88, R243, R245, R249 to R251, R262, R263). -/
def Obligations.ObjectWaitsEnd : Prop :=
  ∀ s : State,
    (∀ (d e : Nat) (t : Task), d < 4 → e < 2 ^ 13 →
      let h := taskHandle d e ((look e (s.die d).gens).getD 0)
      s.task? h = some t → t.state = .pending → t.preds = 0 → s.winReady t.ctx t.win0 = true →
      s.winReady t.ctx t.win1 = true →
      ∃ u : State, exec (.taskWindowReady d e) s = .next u ∧ u.task? h = some { t with state := .ready } ∧
        (u.die d).pool = (s.die d).pool ++ [t.piece h] ∧ u.strands = s.strands ∧ u.mem = s.mem) ∧
    (∀ (k slot : Nat) (x : Strand) (i : Instr) (p : Pend) (q : Piece) (u : State), s.oldest? k 0 slot = some (x, i, p) →
      p.why = .idle → s.take k true = some (q, u) → exec (.taskTake k slot) s = .next (u.modRun k fun r =>
        { r.settle p.fire .none .none none none with exits := r.exits ++ [(slot, 0, .enterTask q.handle q.lo q.hi)] })) ∧
    ∀ (k slot : Nat) (x : Strand) (r : Run) (n : Node) (i : Instr) (p : Pend), s.strand? k = some x → x.run = some r →
      r.node? 0 slot = some n → r.blk.instr? slot = some i → n.pend = [p] → p.fire.k = k → p.fire.hand = r.hand →
      p.fire.copy = 0 → p.fire.slot = slot → x.save.free = true → (s.die 0).armed = [] →
      let req := p.fire.req
      let gives := fun (u : State) (v : Nat) =>
        Host.Outcome.next (u.settleHeld p (tgtA i) .none (some (.tok (Tok.i64 v p.fire.marks))) none)
      (∀ g ph, p.why = .gang g ph → let q := s.gang x.ctx g
        (q.members.contains k = false → exec (.gangPhaseRelease k slot) s = gives s (2 ^ 64 - 1)) ∧
        (q.members.contains k = true → q.phase.toNat ≠ ph → exec (.gangPhaseRelease k slot) s =
          gives (s.modStrand k fun y => { y with stamp := y.stamp.join q.stamp }) (ph + 1))) ∧
      (∀ pa, p.why = .monitor pa → isMwait i = true → s.logs k = false →
        (∃ d, d < 4 ∧ ∃ m, look k (s.die d).monitors = some m ∧ m.2 = true) ∨ x.wake = true →
        exec (.mwaitWake k slot) s =
          gives ((s.disarm k).modStrand k fun y => { y with wake := false }) (if x.wake then 2 else 0)) ∧
      (∀ pa, p.why = .lock pa → isLock i = true →
        (∀ q : Resp, (s.die x.die).resps.find? (fun q => q.req == req) = some q → q.bad = 0 →
          exec (.lockGrant k slot) s = gives ((s.modDie x.die fun y => { y with resps := y.resps.erase q }).modStrand k
            fun y => { y with stamp := y.stamp.join q.vec }) (leNat q.bytes)) ∧
        ∀ d, (s.die x.die).resps.find? (fun q => q.req == req) = none → d < 4 →
          look pa (s.die d).locks = some [req] → (∀ e, e < d → look pa (s.die e).locks = none) →
          bit (s.mem.readNat pa 8) 63 = false → s.logs k = false →
          let g := (bits (s.mem.readNat pa 8) 47 16 + 1) % 2 ^ 32
          exec (.lockGrant k slot) s = .next (((s.poke pa (leBytes 8 (strandId k + g * 2 ^ 16 + 2 ^ 63))).respond (k / 256) d
            req (leBytes 8 g) 0).modDie d fun y => { y with locks := del pa y.locks })) ∧
      ∀ (d pa ring c h t e : Nat) (test : Bool) (v : Word) (acc : Access), p.acc = some acc → acc.op = .push v test →
        look pa (s.die d).queues = some [req] → s.queueAt pa = some (ring, c, h, t) → queueLen h t ≠ 2 ^ c →
        (∃ h', s.translate x.ctx x.die (ring + 8 * (t % 2 ^ c)) .wr = .ok e h') →
        exec (.queueWaiterServe d pa) s = .next (((((s.poke e (leBytes 8 v.toNat)).poke (pa + 20) (leBytes 4 (t + 1))).respond
          (k / 256) d req (leBytes 8 0) 0)).modDie d fun y => { y with queues := del pa y.queues })

/-- WRITE_APPLY applies the write at a path's head, byte for byte and nowhere else, or an AMOG's new value: the sum, the new
value, the new value where the old one is the one compared, or the greater of the two as signed numbers; READ_SERVE answers a read
with the bytes at its home (any bytes, while a spill ring that holds them is enabled) and MONA with the word, arming a monitor;
PROGRESS_BEAT carries a count (R61, R63, R84, R88, R156). -/
def Obligations.HomesServe : Prop :=
  (∀ (s : State) (src dst : Nat),
    (∀ (m : Msg) (ms : List Msg), (s.die src).path dst = m :: ms → s.covered src dst m = true →
      let popped := fun (t : State) => (t.die src).path dst = ms
      let took := fun (t : State) => m.num ≤ (t.die dst).recv.at src ∧ m.num ≤ (t.die dst).dep.at src ∧
        ∀ d, m.stamp.at d ≤ (t.die dst).dep.at d
      let reply := fun (t : State) (bs : List Byte) => (t.die src).resps = (s.die src).resps ++
        [{ req := m.req, bytes := bs, vec := (t.die dst).dep, home := dst, bad := 0 }]
      (∀ pa bs, m.op = .write pa bs → ∃ t : State, exec (.writeApply src dst) s = .next t ∧ popped t ∧ took t ∧
        (∀ i, i < bs.length → bs[i]? = some (t.mem.read (pa + i))) ∧
        (∀ a, a < pa ∨ pa + bs.length ≤ a → t.mem.read a = s.mem.read a) ∧
        (t.die src).acks = (s.die src).acks ++
          [{ req := m.req, bytes := [], vec := (t.die dst).dep, home := dst, bad := 0 }]) ∧
      ((s.die 0).armed = [] →
        (∀ o pa w r c, m.op = .amog o pa w r c → w ≤ 8 → s.logs m.req.strand = false →
          let old := s.mem.readNat pa w
          ∃ t : State, exec (.writeApply src dst) s = .next t ∧ popped t ∧ took t ∧ reply t (leBytes w old) ∧
            t.mem = s.mem.writeN pa (leBytes w (amoNew o w old r c))) ∧
        (∀ pa n, m.op = .read pa n → ∃ (t : State) (bs : List Byte), exec (.readServe src dst) s = .next t ∧ popped t ∧
          t.mem = s.mem ∧ reply t bs ∧ bs.length = n ∧ (s.inRing pa n = false → bs = s.mem.readN pa n)) ∧
        ∀ pa n k hand copy slot iter, m.op = .mona pa n → m.req = .node k hand copy slot iter →
          ∃ t : State, exec (.readServe src dst) s = .next t ∧ popped t ∧ t.mem = s.mem ∧ reply t (s.mem.readN pa n) ∧
            look k (t.die dst).monitors = some (pa / 64, false) ∧
            ∀ d, d % 4 ≠ dst % 4 → look k (t.die d).monitors = none)) ∧
    (((s.die src).path dst).any (fun m => m.op.isWrite) = false → exec (.progressBeat src dst) s = .next (s.modDie dst fun y =>
      { y with recv := y.recv.raise src (max (y.recv.at src) (s.die src).wcount) }))) ∧
  ∀ w old r c : Nat, 1 ≤ w → old < 2 ^ (8 * w) → r < 2 ^ (8 * w) → c < 2 ^ (8 * w) →
    amoNew .add w old r c = (old + r) % 2 ^ (8 * w) ∧ amoNew .swap w old r c = r ∧
    amoNew .cas w old r c = (if old = c then r else old) ∧
    signed (8 * w) (amoNew .max w old r c) = max (signed (8 * w) old) (signed (8 * w) r)

/-- Responses and acknowledgements settle the operations that asked for them; walks end with a leaf, are declined, or stand in the fault
ring, one record for a page, until Jasper answers; a logged outcome goes on once the log has room; a link's retry is counted (R63,
R65, R79, R80, R304, R305, R335, R351). -/
def Obligations.AnswersArrive : Prop :=
  ∀ s : State,
    (∀ (d j k copy slot iter : Nat) (hand : Bool) (q : Resp) (x : Strand) (r : Run) (i : Instr) (p : Pend) (a : Access),
      q.req = .node k hand copy slot iter → s.held? k hand copy slot iter = some (x, r, i, p) → x.opens hand = true →
      p.acc = some a →
      ((s.die d).resps[j]? = some q → (∀ pa, p.why ≠ .lock pa ∧ p.why ≠ .logged pa) → p.fire.k = k →
        let u := (s.modDie d fun y => { y with resps := y.resps.eraseIdx j }).modStrand k fun x =>
          { x with stamp := x.stamp.join q.vec }
        (q.bad = 0 → s.logs k = false → exec (.readResponse d j) s = .next (u.settleHeld p (tgtA i) (tgtB i)
          (a.items p.fire q.bytes).1 (a.items p.fire q.bytes).2)) ∧
        (q.bad ≠ 0 → exec (.readResponse d j) s = .next (u.failHeld p (tgtA i) (tgtB i) q.bad (leNat q.bytes)))) ∧
      ((s.die d).acks[j]? = some q → exec (.writeAcknowledgement d j) s =
        .next ((s.modDie d fun y => { y with acks := y.acks.eraseIdx j }).settleHeld p (tgtA i) (tgtB i)
          (a.items p.fire q.bytes).1 (a.items p.fire q.bytes).2))) ∧
    (∀ (d j : Nat) (w : Walk) (c : Ctx), j < 32 → (s.die d).active[j]? = some w → s.ctx? w.ctx = some c → w.seq = none →
      s.walkClear w = true → (s.die 0).armed = [] →
      (∀ l, s.walk c.root (w.page * 2 ^ 14) = some l → exec (.translationWalk d j) s =
        .next (((s.waiters w).filter s.unsaved).foldl (fun u p => u.reissue p l)
          (w.who.foldl (fun u r => u.acquire r s.depAll) (s.modDie d fun y => { y with walks := y.walks.erase w })))) ∧
      (s.walk c.root (w.page * 2 ^ 14) = none →
        let n := bits c.fltring.toNat 4 0
        let slot := ringBase c.fltring + c.fltseq % 2 ^ n * 32
        (n = 0 → exec (.translationWalk d j) s = .next (s.declineWalk d w)) ∧
        (∀ q, n ≠ 0 → s.recordOf w.ctx w.page = some q → exec (.translationWalk d j) s = .next (s.modDie d fun y =>
          { y with walks := y.walks.map fun v => if v = w then { v with seq := some q } else v })) ∧
        (n ≠ 0 → s.recordOf w.ctx w.page = none → s.faultRoom w.ctx c = true → ∀ pa h, s.translate w.ctx d slot .wr = .ok pa h →
          ∃ t : State, exec (.translationWalk d j) s = .next t ∧
            (t.ctx? w.ctx).map (·.fltseq) = some (c.fltseq + 1) ∧ t.mem.readN pa 32 = faultRecord w d c.fltseq ∧
            (t.die d).walks = (s.die d).walks.map fun v => if v = w then { v with seq := some c.fltseq } else v))) ∧
    (∀ (c seq st : Nat) (x : Ctx), s.ctx? c = some x → ∃ t : State, exec (.fltack c seq st) s = .next t ∧
      (t.ctx? c).map (·.fltack) = some (BitVec.ofNat 64 (seq % 2 ^ 32)) ∧ (t.ctx? c).map (·.fltseq) = some x.fltseq ∧
      (st ≠ 2 → ∀ d, (t.die d).walks = (s.die d).walks.map (Walk.answered c seq st)) ∧
      (st = 2 → ∀ d, ∀ w ∈ (t.die d).walks, w.ctx = c → w.seq ≠ some seq)) ∧
    (∀ (k copy slot : Nat) (x : Strand) (r : Run) (n : Node) (i : Instr) (p : Pend) (a : Access) (bs out : List Byte)
        (u : State), s.strand? k = some x → x.run = some r → r.node? copy slot = some n → r.blk.instr? slot = some i →
      n.pend.find? (fun p => p.why == .log) = some p → p.acc = some a → a.op = .load → p.fire.k = k →
      p.prog = 1 :: bs.map (·.toNat) → s.logs k = true →
      s.outcome k (if a.vec then 2 else 1) (logPayload a.vec bs) = some (out, u) →
      exec (.logRoomResume k copy slot) s = .next (u.settleHeld p (tgtA i) (tgtB i)
        (a.items p.fire (logBytes a.vec a.w out)).1 (a.items p.fire (logBytes a.vec a.w out)).2)) ∧
    ∀ (d n : Nat) (port : Bool), let at_ := if port then 0 else d
      ∃ (t : State) (q : Pred), exec (.linkRetry d port n) s = .next t ∧ t.mem = s.mem ∧ t.strands = s.strands ∧
        look (linkKey port n) (t.die at_).links = some q ∧ q.cyc = (s.die at_).cyc ∧
        q.count = min (((look (linkKey port n) (s.die at_).links).map (·.count)).getD 0 + 1) (2 ^ 32 - 1)

/-! ### What the engines do -/

/-- STREAM_ELEMENT_FILL fills one element as whole rows and advances, and ends a stream that has been filled in full; an absent
entry posts a task or goes to Jasper, and is read again once that is done (R159, R160, R200, R201, R347). -/
def Obligations.StreamGeneratorEvents : Prop :=
  ∀ (s : State) (d tile g : Nat) (t : Stream) (x : Strand) (w : Win), look (tile * 4 + g) (s.die d).streams = some t →
    s.strand? t.k = some x → s.win? t.k t.w = some w → x.save.free = true → x.die = d → t.reg = false →
    let key := tile * 4 + g
    let end_ := (s.modWin t.k t.w fun v => { v with filler := BitVec.ofNat 16 (strandId t.k) }).modDie d fun y =>
      { y with streams := del key y.streams }
    let posts := fun (o : Host.Outcome State Fault Refusal) => ∃ (u : State) (h : Nat) (q : Task), o = .next u ∧
      look key (u.die d).streams = some { t with wait := 2, handle := h } ∧ u.task? h = some q ∧ q.ctx = x.ctx ∧
      q.entry = BitVec.ofNat 64 (fieldOf t.recd 20 8) ∧ q.arg = BitVec.ofNat 64 t.entryAddr ∧ u.mem = s.mem
    let room := (freeKey 8192 (s.die d).store).isSome
    let host := (s.ctx? x.ctx).any fun c => bit c.hamode.toNat 0
    (t.wait = 0 → t.captured = true → t.atEnd = false → (t.run = true → t.ent ≠ []) → w.eos = false → w.free ≠ 0 →
      let va := if t.run then t.tokenAddr else t.genAddr
      s.readable x t.stamp va t.rowBytes = true →
      ∃ u : State, exec (.streamElementFill d tile g) s = .next u ∧ u.mem = s.mem ∧
        let v := (w.rowsFrom (Tag.ofCode t.tagCode) (s.vpeek x.ctx d va t.rowBytes)).foldl Win.putRow w
        let st := (t.stamp.join s.depAll).join (w.seen (w.touched v))
        look key (u.die d).streams = some { t.advance with stamp := st } ∧
        u.win? t.k t.w = some { v with stamps := joinStamps (w.touched v) st w.stamps }) ∧
    (t.wait = 0 → t.captured = true → t.atEnd = true → bit t.flags 5 = false →
      (s.streamNode? d tile g t = none → exec (.streamElementFill d tile g) s = .next end_) ∧
      ∀ p a, s.streamNode? d tile g t = some (p, a) → exec (.streamElementFill d tile g) s =
        .next (end_.settleHeld p a .none (some (.tok (Tok.done p.fire.its))) none)) ∧
    (t.wait = 1 → host = false → room = true → posts (exec (.sgrunAbsentPage d tile g) s)) ∧
    (t.wait = 1 → host = true → exec (.sgrunAbsentPage d tile g) s =
      .next ((s.setStream d tile g { t with wait := 4 }).modCtx x.ctx fun c =>
        { c with posts := c.posts ++ [(postRegenKind, genId d tile g)] })) ∧
    (t.wait = 3 → room = true → posts (exec (.sgrunPostRetry d tile g) s)) ∧
    (t.wait = 5 ∨ (t.wait = 2 ∧ s.task? t.handle = none) →
      let st := t.stamp.join s.depAll
      s.readable x st t.entryAddr 16 = true →
      let bs := s.vpeek x.ctx d t.entryAddr 16
      t.entryOk bs = true → bit (fieldOf bs 12 1) 0 = false →
      ∃ u : State, exec (.sgrunEntryReread d tile g) s = .next u ∧ u.mem = s.mem ∧
        look key (u.die d).streams = some { t with stamp := st.join s.depAll, wait := 0, ent := bs, tok := 0 }) ∧
    (t.wait = 4 → ∀ present : Bool, exec (.jasperRegeneration d tile g present) s =
      .next (((if present then s.vpoke x.ctx d (t.entryAddr + 12)
          (leBytes 1 (fieldOf (s.vpeek x.ctx d (t.entryAddr + 12) 1) 0 1 / 2 * 2)) else s).setStream d tile g
            { t with wait := 5 }).modCtx x.ctx fun c =>
        { c with posts := c.posts.erase (postRegenKind, genId d tile g) }))

/-- The copy engine captures the next published record, copies or fills a row into memory or a window (R150: an end of stream, then
room, then the tag), holds a row that it has read while its window has no room, goes on once it has, and completes a record: the
counter takes the record's sequence number, an event is pushed where its flag asks for one, and a chain that waits for the event queue
pushes its record once there is room, in the order in which records ended (R203 to R206, R208 to R210). -/
def Obligations.CopyChainEvents : Prop :=
  ∀ (s : State) (k ch : Nat) (x : Strand), s.strand? k = some x → x.save.free = true → (x.copy ch).aborting = false →
    let c := x.copy ch
    (c.cstate = .idle ∨ (c.cstate = .running ∧ c.recd = []) → c.tail ≠ c.pos →
      let st := if c.pos = 0 then c.stamp else c.stamp.join s.depAll
      let a := if c.pos = 0 then c.first else leNat (s.vpeek x.ctx x.die c.pos 8)
      (c.pos ≠ 0 → s.readable x c.stamp c.pos 8 = true) → a % 64 = 0 → s.readable x st a 64 = true →
      let r := s.vpeek x.ctx x.die a 64
      copyRecordOk r = true → fieldOf r 48 1 ≠ 3 → bit (fieldOf r 49 1) 6 = false →
      ∃ (u : State) (y : Strand), exec (.copyRecordCapture k ch) s = .next u ∧ (x.engineWaits = [] → u.mem = s.mem) ∧
        u.strand? k = some y ∧
        y.copy ch = { c with cstate := .running, row := 0, pos := a, recd := r, got := none, stamp := st.join s.depAll,
                             serv := false }) ∧
    (c.cstate = .running → c.recd ≠ [] → c.row < fieldOf c.recd 28 4 →
      let rb := fieldOf c.recd 24 4
      let src := wrap 64 ((fieldOf c.recd 8 8 : Int) + c.row * signed 64 (fieldOf c.recd 32 8))
      let dst := wrap 64 ((fieldOf c.recd 16 8 : Int) + c.row * signed 64 (fieldOf c.recd 40 8))
      let kind := fieldOf c.recd 48 1
      let written := fun (n : Nat) (st : Stamp) (c : CopyChain) =>
        { c with row := c.row + 1, got := none, stamp := st, outst := c.outst + n, serv := false }
      (c.win = none →
        (∀ bs st u, c.got = none → kind = 0 → src + rb ≤ 2 ^ 56 → dst + bs.length ≤ 2 ^ 56 →
          s.dread x.ctx x.die ⟨x.lead, .chain k ch⟩ c.stamp .rd false src rb = .ok (bs, st, u) → ∀ n st' v,
          ((u.modCopy k ch fun c => { c with stamp := st, serv := false }).countRange x.ctx x.die .rd src rb).dwrite x.ctx x.die
            ⟨x.lead, .chain k ch⟩ st (.chain k ch) true dst bs = .ok (n, st', v) →
          exec (.copyRow k ch) s = .next (v.modCopy k ch (written n st'))) ∧
        ∀ bs, c.got = some bs ∨ (c.got = none ∧ kind = 2 ∧ bs = (List.range rb).map fun b => (c.recd.drop 8).getD (b % 8) 0) →
          dst + bs.length ≤ 2 ^ 56 → ∀ n st' v,
          s.dwrite x.ctx x.die ⟨x.lead, .chain k ch⟩ c.stamp (.chain k ch) true dst bs = .ok (n, st', v) →
          exec (.copyRow k ch) s = .next (v.modCopy k ch (written n st'))) ∧
      ∀ j e w, c.win = some (j, e) → s.win? j e = some w → w.eos = false → s.openTo j = true →
        let fills := fun (bs : List Byte) (st : Stamp) => ∃ u : State, exec (.copyRow k ch) s = .next u ∧ u.mem = s.mem ∧
          let v := (w.rowsFrom (Tag.ofCode (fieldOf c.recd 50 2)) bs).foldl Win.putRow w
          let st := st.join (w.seen (w.touched v))
          u.win? j e = some { v with stamps := joinStamps (w.touched v) st w.stamps } ∧
          (u.strand? k).map (fun y => (y.copy ch).row) = some (c.row + 1)
        let stays := fun (bs : List Byte) => ∃ u : State, exec (.copyRow k ch) s = .next u ∧ u.mem = s.mem ∧ u.win? j e = some w ∧
          (u.strand? k).map (fun y => ((y.copy ch).cstate, (y.copy ch).got, (y.copy ch).row)) = some (.waiting, some bs, c.row)
        (w.free = 0 → x.engineWaits = [] →
          (∀ bs, c.got = some bs → stays bs) ∧
          (c.got = none → kind = 0 → s.readable x c.stamp src rb = true → stays (s.vpeek x.ctx x.die src rb))) ∧
        (w.free ≠ 0 → w.tag = Tag.ofCode (fieldOf c.recd 50 2) ∨ w.tag = .raw →
          (∀ bs, c.got = some bs → fills bs c.stamp) ∧
          (c.got = none → kind = 0 → s.readable x c.stamp src rb = true →
            fills (s.vpeek x.ctx x.die src rb) (c.stamp.join s.depAll)))) ∧
    (c.cstate = .waiting → ∀ j e w, c.win = some (j, e) → s.win? j e = some w → w.eos = true ∨ w.free ≠ 0 →
      exec (.copyFillResume k ch) s = .next (s.modCopy k ch fun c => { c with cstate := .running })) ∧
    let next : CState := if c.pos = c.tail then .idle else .running
    x.engineWaits = [] →
    (c.cstate = .running → c.recd ≠ [] → fieldOf c.recd 28 4 ≤ c.row → c.outst = 0 → c.win = none →
      let seq := fieldOf c.recd 52 4
      let ended := { c with cseq := BitVec.ofNat 32 seq, cstat := 0, recd := [], row := 0, got := none, cstate := next }
      ∃ (u : State) (y : Strand), exec (.copyRecordComplete k ch) s = .next u ∧ u.mem = s.mem ∧ u.strand? k = some y ∧
        (bit c.flags 5 = false → y.copy ch = ended ∧ y.events = x.events) ∧
        (bit c.flags 5 = true → x.eventTurn ch = true → y.copy ch = ended ∧
          y.events = x.events ++ [BitVec.ofNat 64 (eventRecord seq ch 0)]) ∧
        (bit c.flags 5 = true → x.eventTurn ch = false → (y.copy ch).cstate = .eventq ∧ y.events = x.events ∧
          y.evq = x.evq ++ [ch])) ∧
    (c.cstate = .eventq → c.cstat = 0 → ch < 128 → x.eventTurn ch = true →
      ∃ (u : State) (y : Strand), exec (.eventQueueResume k ch) s = .next u ∧ u.mem = s.mem ∧ u.strand? k = some y ∧
        y.copy ch = { c with recd := [], row := 0, got := none, cstate := next } ∧
        y.events = x.events ++ [BitVec.ofNat 64 (eventRecord (fieldOf c.recd 52 4) ch 0)] ∧ y.evq = x.evq.erase ch)

/-- The collective engine captures the next published record with its descriptor and sends the ready notice; a notice, data and
an abort reach the step they belong to or are held; a barrier step completes on its notice; and a silent peer owes the strand a trap
(R222, R223, R226, R227, R229, R232). That an abort which no step matches is held, and data that no step expects dropped, is deduced
(log 28). -/
def Obligations.CollectiveEvents : Prop :=
  ∀ s : State,
    (∀ (k ch : Nat) (x : Strand), s.strand? k = some x →
      let c := x.coll ch
      (x.save = .running → c.aborting = false → c.step = none → c.cstate = .idle ∨ c.cstate = .running → c.tail ≠ c.pos →
        c.pos = 0 → c.first % 64 = 0 → s.readable x c.stamp c.first 64 = true →
        let st := c.stamp.join s.depAll
        let r := s.vpeek x.ctx x.die c.first 64
        let g := fieldOf r 8 8
        g % 64 = 0 → s.readable x st g 64 = true →
        let p := fieldOf (s.vpeek x.ctx x.die g 64) 0 4
        2 ≤ p → p ≤ 2 ^ 18 → s.readable x st g (64 + 8 * p) = true →
        ∀ t : CollStep, stepOf (s.jobmap.map (·.1)) r (s.vpeek x.ctx x.die g (64 + 8 * p)) = some t →
          heldFor t (s.die x.die).notices = (none, none) →
          let m := NetMsg.notice t.qpkg t.qdie t.key t.kind t.s t.n t.tag t.r
          ∃ (u : State) (y : Strand), exec (.collectiveStepStart k ch) s = .next u ∧ (x.engineWaits = [] → u.mem = s.mem) ∧
            u.strand? k = some y ∧
            y.coll ch = { c with step := some t, cstate := .waiting, pos := c.first, wait := 0, serv := false,
                                 stamp := (y.coll ch).stamp } ∧
            (t.qpkg = s.pkg → u.net = s.net ++ [m] ∧ u.sent = s.sent) ∧
            (t.qpkg ≠ s.pkg → u.net = s.net ∧ u.sent = s.sent ++ [m])) ∧
      ∀ t : CollStep, c.step = some t → c.cstate = .waiting → bit t.flags.toNat 5 = false →
        let bound := ((s.ctx? x.ctx).map fun z => bits z.clbnd.toNat 47 0).getD 0
        bound ≠ 0 → bound ≤ c.wait →
        exec (.peerSilent k ch) s = .next ((s.modColl k ch fun c => { c with wait := 0 }).oweTrap k
          { cause := 0x15, origin := seqOrigin k 0, extra := 0x48 + ch * 2 ^ 8 + t.s % 256 * 2 ^ 16, atExit := false })) ∧
    ∀ (d j : Nat) (key : BitVec 64) (kind st frm : Nat), s.behind j = false →
      let off := { s with net := s.net.eraseIdx j }
      let hold := fun (m : NetMsg) => off.modDie d fun y => { y with notices := y.notices ++ [m] }
      let at_ := fun (k ch : Nat) (x : Strand) (t : CollStep) => s.strand? k = some x ∧ (x.coll ch).step = some t ∧
        (x.coll ch).aborting = false ∧ ((x.coll ch).cstate = .running ∨ (x.coll ch).cstate = .waiting)
      (∀ n tag, s.net[j]? = some (.notice s.pkg d key kind st n tag frm) →
        let hit := (s.stepsOf d false).find? fun t => t.2.2.matches key kind st frm && !t.2.2.notice
        (hit = none → exec (.readyNotice d j) s = .next (hold (.notice s.pkg d key kind st n tag frm))) ∧
        ∀ k ch t x, hit = some (k, ch, t) → at_ k ch x t → t.n = n → t.tag = tag → t.kind = 3 →
          bit t.flags.toNat 5 = false →
          ∃ (u : State) (y : Strand), exec (.readyNotice d j) s = .next u ∧ u.strand? k = some y ∧
            y.coll ch = { x.coll ch with step := none, wait := 0, event := none, cseq := t.seqv, cstat := 0x40,
                                         cstate := if (x.coll ch).pos = (x.coll ch).tail then .idle else .running }) ∧
      (∀ bs, s.net[j]? = some (.data s.pkg d key kind st frm bs) →
        let hit := (s.stepsOf d true).find? fun t => t.2.2.matches key kind st frm && t.2.2.notice && !t.2.2.got
        (hit = none → exec (.collectiveDataArrival d j) s = .next off) ∧
        ∀ k ch t x, hit = some (k, ch, t) → at_ k ch x t → x.save.free = true → t.sent = true → t.kind = 2 →
          s.reachable x x.lead (x.coll ch).stamp t.dst bs.length = true → t.dst + bs.length ≤ 2 ^ 56 →
          ∃ (u : State) (y : Strand), exec (.collectiveDataArrival d j) s = .next u ∧ u.net = off.net ∧ u.mem = s.mem ∧
            u.strand? k = some y ∧
            y.coll ch = { x.coll ch with step := some { t with got := true }, cstate := .running, wait := 0, serv := false,
                                         outst := (x.coll ch).outst + (pieces t.dst bs.length).length,
                                         stamp := (y.coll ch).stamp }) ∧
      (s.net[j]? = some (.abort s.pkg d key kind st frm) →
        let hit := (s.stepsOf d false).find? fun t => t.2.2.matches key kind st frm && !t.2.2.got
        (hit = none → exec (.abortNotice d j) s = .next (hold (.abort s.pkg d key kind st frm))) ∧
        ∀ k ch t x, hit = some (k, ch, t) → at_ k ch x t → bit t.flags.toNat 5 = false →
          ∃ (u : State) (y : Strand), exec (.abortNotice d j) s = .next u ∧ u.strand? k = some y ∧
            y.owed = x.owed ++ [{ cause := 0x15, origin := seqOrigin k 0, atExit := false,
                                  extra := 0x49 + ch * 2 ^ 8 + t.s % 256 * 2 ^ 16 }] ∧
            (y.coll ch).cstate = .halted ∧ (y.coll ch).cstat = 0x49 ∧ (y.coll ch).step = none)

/-- A Geode command of several steps performs one step at a time: GTDESC makes a ticket for the leaf that its descent reaches and
adds a virtual loss to every record on the way, GTEXP writes the records of an element's children and of their parent, GTBACK and GTVL
withdraw a ticket and write every record of its path, from the leaf to the root; a stale ticket
is skipped; and after its last step the command ends with its counts and gives the window back (R277, R278, R281, R282, R285 to R288,
R293). -/
def Obligations.GeodeSteps : Prop :=
  ∀ (s : State) (k slot : Nat) (x : Strand) (i : Instr) (p : Pend) (pm : PMode) (w : BitVec 6) (t : BitVec 4) (a : Tgt) (v : Win)
      (j nd ns : Nat) (c : Nat × Nat × Nat × Nat × Nat), s.oldest? k 0 slot = some (x, i, p) → p.fire.k = k → p.reg = false →
    p.why = .geode c.1 c.2.1 c.2.2.1 c.2.2.2.1 c.2.2.2.2 → s.logs k = false → p.prog = [j, nd, ns] → look w.toNat x.wins = some v →
    let ends := fun (o : Host.Outcome State Fault Refusal) (n : Nat) (u' : Win) => ∃ u, o = .next u ∧ u.mem = s.mem ∧
      u.win? k w.toNat = some u' ∧
      u.run? k = (s.run? k).map fun r => r.settle p.fire a .none (some (.tok (Tok.i64 n p.fire.marks))) none
    let goes := fun (u : State) (prog : List Nat) => u.run? k = (s.run? k).map fun r =>
      r.modNode p.fire.copy p.fire.slot fun n => { n with pend := n.pend.map fun q => if q = p then
        { q with why := .geode t.toNat 0 0 k w.toNat, acc := none, prog := prog, reg := false } else q }
    let me := BitVec.ofNat 16 (engineIdent 3 (k / 256) v.tile)
    let mine := BitVec.ofNat 16 (strandId k)
    (stepCount p.fire ≤ j →
      (i = .gtdesc pm w t a → nd = 0 → v.filler = me →
        ends (exec (.geodeDescent k slot) s) (geoStatus 0 j 0) { v with filler := mine }) ∧
      (v.drainer = me →
        (i = .gtexp pm w t a → ends (exec (.geodeExpandElement k slot) s) (geoStatus 0 nd ns) { v with drainer := mine }) ∧
        (i = .gtback pm w t a → ends (exec (.geodeBackupElement k slot) s) (geoStatus 0 nd ns) { v with drainer := mine }) ∧
        (i = .gtvl pm w t a → ends (exec (.geodeVlElement k slot) s) (geoStatus 0 nd ns) { v with drainer := mine }))) ∧
    ∀ g : Tree, j < stepCount p.fire → s.tree? x.ctx x.die t.toNat = some g →
      let quiet := fun (t : Stamp) => s.quiet ((g.stamp.join t).join s.depAll) = true
      let read := fun (va n : Nat) => s.readable x x.stamp va n = true
      let node := fun (n : Nat) => GNode.ofBytes (s.vpeek x.ctx x.die (g.at n) 32)
      let kids := fun (n : GNode) => nodesOf n.count (s.vpeek x.ctx x.die (g.at n.first) (32 * n.count))
      let tree := fun (u : State) (h : Tree) => ∃ st, u.tree? x.ctx x.die t.toNat = some { h with stamp := st }
      (∀ n : Nat, i = .gtdesc pm w t a → nd = 0 → g.root = true → freeKey 64 (s.die x.die).tickets = some n →
        quiet x.stamp → read (g.at 0) 32 →
        let path := g.route kids g.cap [(0, node 0)]
        let leaf := (path.headD (0, node 0)).1
        (∀ e ∈ path.drop 1, read (g.at e.2.first) (32 * e.2.count)) →
        (∀ e ∈ path, s.writable x (g.at e.1 + 14) 2 = true) →
        let y := s.die x.die
        ∃ u, exec (.geodeDescent k slot) s = .next u ∧ u.mem = s.mem ∧ tree u g ∧
          (∀ e ∈ path, s.sends u x (g.at e.1 + 14) (leBytes 2 (e.2.vl + 1))) ∧
          (u.die x.die).serial = y.serial + 1 ∧ look n (u.die x.die).tickets = some
            { serial := y.serial.toNat, ctx := x.ctx, tree := t.toNat % 16, leaf := leaf, issuer := k, order := y.order } ∧
          goes u ([j, 1, 0] ++ descriptorLanes n y.serial.toNat t.toNat leaf (path.reverse.map (·.2)))) ∧
      ((s.die 0).armed = [] → (s.die x.die).armed = [] → v.vmode = false → ∀ e : GElem,
        (∀ src ps, i = .gtexp pm w t a → j < v.extent → (v.row j 0).bad = false → elemOf (v.row j 0) = some e →
          childrenAt (v.row j 0) e.k = some src →
          (match src with
           | .inl qs => ps = qs
           | .inr va => ps = (List.range e.k).map fun n => fieldOf (s.vpeek x.ctx x.die va (4 * e.k)) (4 * n) 4) →
          (s.ticket? x.ctx x.die t.toNat e = none → ∃ u, exec (.geodeExpandElement k slot) s = .next u ∧ u.mem = s.mem ∧
            tree u g ∧ goes u [j + 1, nd, ns + 1]) ∧
          ∀ (tk : Ticket) (first : Nat) (h : Tree), s.ticket? x.ctx x.die t.toNat e = some tk →
            quiet (x.stamp.join (v.seen (v.slots (v.head + BitVec.ofNat 32 j) 1))) →
            read (g.at tk.leaf) 32 → (node tk.leaf).expanded = false → (node tk.leaf).terminal = false →
            e.k ≠ 0 → g.queue = [] → g.alloc e.k = some (first, h) →
            (∀ va, src = .inr va → read va (4 * e.k)) →
            (∀ r ∈ expandWrites g h first ps tk.leaf (node tk.leaf) e.term, s.writable x r.1 r.2.length = true) →
            ∃ u, exec (.geodeExpandElement k slot) s = .next u ∧ u.mem = s.mem ∧ tree u h ∧ goes u [j + 1, nd + 1, ns] ∧
              s.sends u x (g.at first)
                (ps.flatMap fun v => (GNode.fresh (v % 2 ^ 16) (v / 2 ^ 16 % 2 ^ 16) tk.leaf g.gen).bytes) ∧
              s.sends u x (g.at tk.leaf) ({ node tk.leaf with
                first := first, count := ps.length, expanded := true, terminal := e.term } : GNode).bytes) ∧
        ∀ tk : Ticket, 0 < v.extent → (v.row 0 0).bad = false → elemOf (v.row 0 0) = some e →
          s.ticket? x.ctx x.die t.toNat e = some tk → quiet (x.stamp.join (v.seen (v.slots (v.head + 0) 1))) →
          let path := climb node (g.cap + 1) tk.leaf
          (∀ m ∈ path, read (g.at m.1) 32 ∧ s.writable x (g.at m.1) 32 = true) →
          let withdraws := fun (o : Host.Outcome State Fault Refusal) (f : Nat → GNode → GNode) => ∃ u, o = .next u ∧
            u.mem = s.mem ∧ tree u g ∧ (∀ m ∈ path.zipIdx, s.sends u x (g.at m.1.1) (f m.2 m.1.2).bytes) ∧
            look e.slot (u.die x.die).tickets = none ∧ (∃ st, u.win? k w.toNat = some (v.shrink 1 st)) ∧
            goes u [j + 1, nd + 1, ns]
          (∀ q, i = .gtback pm w t a → q32 e.v = some q →
            withdraws (exec (.geodeBackupElement k slot) s) fun d n => n.backup g.alt d q) ∧
          (i = .gtvl pm w t a →
            withdraws (exec (.geodeVlElement k slot) s) fun _ n => { n with vl := n.vl - 1 }))

/-- The engine frees the blocks of a tree's queue one at a time; Jasper raises a tree's capacity or declines, and resolves a
splice; a replay that diverges asks every strand of the context to halt. A save that is asked for starts where the strand stands at
a save point, inside a block 256 cycles after the request, and its end leaves the strand saved and clean with its image kept; a
shrink is made; DBGCTL sets the three control bits and a clear halt request resumes the strand; a requested halt takes effect at a
quiescent point (R192, R278, R292, R312 to R314, R316, R317, R327, R328, R337, R347). One counter of 256 cycles for saves, shrinks and
halts and images kept as plain data are the model's choice (log 26); that the record of a divergence advances RECTAIL in replay is
deduced (log 31). -/
def Obligations.HostEventsAndSaves : Prop :=
  (∀ s : State,
    (∀ (d c t first n issuer : Nat) (g : Tree) (q : List (Nat × Nat × Nat)), s.tree? c d t = some g →
      (g.queue = (first, n, issuer) :: q →
        let x : Strand := { Strand.init with ctx := c, die := d }
        s.readable x ((g.stamp.join x.stamp).join s.depAll) (g.at first) (32 * n) = true →
        let kids := nodesOf n (s.vpeek c d (g.at first) (32 * n))
        let h := { g.freeRun first n with
          queue := q ++ (kids.filter fun m => m.expanded).map fun m => (m.first, m.count, issuer) }
        (∀ r ∈ headWrites g h, s.writable x r.1 r.2.length = true) →
        ∃ (u : State) (st : Stamp), exec (.lazyFree d c t) s = .next u ∧ u.mem = s.mem ∧
          u.tree? c d t = some { h with stamp := st }) ∧
      (g.growing = true →
        (∀ m, g.cap < m → m ≤ g.limit → ∃ u : State, exec (.hostGrowth d c t (some m)) s = .next u ∧
          u.tree? c d t = some { g with growing := false, cap := m }) ∧
        ∃ u : State, exec (.hostGrowth d c t none) s = .next u ∧ u.tree? c d t = some { g with growing := false })) ∧
    (∀ (k c : Nat) (x : Strand), s.strand? k = some x → x.phase = .edge → x.save.free = true → x.splpost = some c →
      let u := (s.modStrand k fun y => { y with splpost := none }).modCtx x.ctx fun y =>
        { y with posts := y.posts.erase (postSpliceKind, strandId k + c * 2 ^ 16) }
      (∀ bs, exec (.spliceHostResolve k (some bs)) s =
        .next ((u.vpoke x.ctx x.die (descAddr x.splcur.toNat) (bs.take 64)).edgeAct k .resplice)) ∧
      exec (.spliceHostResolve k none) s =
        .next (u.forward k (failedPayload x.splcur.toNat c) (.passing x.splstp.toNat true))) ∧
    ∀ (c k reason : Nat) (x : Ctx) (y : Strand), s.ctx? c = some x → s.strand? k = some y → y.ctx = c → x.playing = true →
      (s.diverges k reason = false → exec (.replayDivergence c k reason) s = .next s) ∧
      (s.diverges k reason = true →
        ∃ (u : State) (z : Ctx), exec (.replayDivergence c k reason) s = .next u ∧ u.ctx? c = some z ∧
          z.rectail = x.rectail + 1 ∧ (postDivergeKind, strandId k + reason * 2 ^ 16) ∈ z.posts ∧
          ∀ (j : Nat) (q : Strand), s.strand? j = some q → u.strand? j = some (if q.ctx = c then
            { q with dbgctl := q.dbgctl ||| 1, asked := if q.awaitsPoint then q.asked else 0 } else q))) ∧
  ∀ (s : State) (k : Nat) (x : Strand), s.strand? k = some x →
    (x.quiescent = true → (x.phase = .run → 256 ≤ x.asked) →
      (∀ a free by_, x.save = .asked a free by_ → (∀ d, (s.die d).wfover = []) → ∃ (u : State) (y : Strand), exec (.savePoint k) s = .next u ∧ u.mem = s.mem ∧
        u.strand? k = some y ∧ y.save = .saving a free by_ ∧ y.regs = x.regs ∧ y.wins = x.wins ∧ y.phase = x.phase ∧
        ∀ d, look k (u.die d).monitors = none) ∧
      (∀ rows cols z, x.save = .running → x.shrink = some (rows, cols, z) → x.phase = .run → x.shrinks rows cols = true →
        let g := x.region.shrunk rows cols
        let j := strandKey x.die g.lead
        let made := fun (f : Strand → Prop) => ∃ (u : State) (y : Strand), exec (.savePoint k) s = .next u ∧
          u.strand? j = some y ∧ y.region = { x.region with rows := rows, cols := cols, strand := some j } ∧ y.lead = g.lead ∧
          y.shrink = none ∧ f y
        (x.unsettled g = [] → j = k → made fun y => y.regs = x.regs ∧ y.run = x.run) ∧
        (x.unsettled g = [] → s.strand? j = none → made fun _ => True) ∧
        ∀ (r : Run) (u : State), j = k → x.run = some r → x.unsettled g = [r] → r.pristine = true →
          s.foldsOn x g [r.blk.addr] = .ok (true, u) → u.strands = s.strands →
          made fun y => y.regs = x.regs ∧ y.run = none ∧ y.phase = .enter ∧ y.bc = BitVec.ofNat 64 r.blk.addr) ∧
      (bit x.dbgctl.toNat 0 = true → x.halted = false → x.save = .running → exec (.strandHalt k) s =
        .next (s.modStrand k fun y => { y with dbgctl := y.dbgctl ||| 16 }).refreshAll)) ∧
    (∀ a by_, x.save = .saving a false by_ → ∃ (u : State) (y : Strand), exec (.saveComplete k) s = .next u ∧
      u.strand? k = some y ∧ y.save = .saved a ∧ y.home = some (s.saveCtx x by_, a) ∧ y.dirty = [] ∧ y.regs = x.regs ∧
      ∃ m ∈ u.images, m.ctx = s.saveCtx x by_ ∧ m.addr = a ∧ m.key = some k) ∧
    ∀ v : Word,
      let w := (x.dbgctl &&& ~~~7#64) ||| (v &&& 7#64)
      (bit v.toNat 0 = true → exec (.dbgctl k v) s = .next (s.modStrand k fun y =>
        { y with dbgctl := w, asked := if x.haltAsked then x.asked else 0 })) ∧
      (bit v.toNat 0 = false → exec (.dbgctl k v) s =
        .next (s.modStrand k fun y => { y with dbgctl := w &&& ~~~16#64 }).refreshAll)


/-! ### Returns from traps, poison, and what instructions leave alone -/

/-- TRAPRET at a block edge: s28 to s31 come back where its form restores them, hmode and susp are cleared, and the strand goes to
TRES or the left operand, resumes its suspended block, whose accesses translate again, results arrive and waits register at once, or ends
at address 0 (R115, R116, R119, R272, R306). -/
def Obligations.TrapReturn : Prop :=
  ∀ (s : State) (k n : Nat) (x : Strand) (r : Run) (restore : Bool) (at_ : Option Nat), s.strand? k = some x → x.run = some r →
    x.phase = .edge → x.save = .running → x.halted = false → x.crossed = false → bits x.dbgctl.toNat 1 0 = 0 → r.traps = [] →
    x.owed = [] → r.mstop = false → x.splpost = none → x.shrink = none → n ≠ edgeSlot →
    r.exits = [(n, 0, .trapret restore at_)] →
    let a := at_.getD x.tres.toNat
    let w := x.edgeWrites r
    let tag := fun (i : Nat) => Tag.ofCode (bits x.tstat.toNat (19 + 4 * i) (16 + 4 * i))
    a < 2 ^ 64 → x.breaksAt false a = none →
    let back := fun (y : Strand) =>
      y.hmode = false ∧ y.suspBit = false ∧ y.tres = x.tres ∧ y.tsav = x.tsav ∧ (∀ m, m < 28 → y.readReg m = w.readReg m) ∧
      y.readReg 28 = (if restore then (x.tsav[0], tag 0) else w.readReg 28) ∧
      y.readReg 29 = (if restore then (x.tsav[1], tag 1) else w.readReg 29) ∧
      y.readReg 30 = (if restore then (x.tsav[2], tag 2) else w.readReg 30) ∧
      y.readReg 31 = (if restore then (x.tsav[3], tag 3) else w.readReg 31)
    let ends := fun (f : Strand → Prop) => ∃ (u : State) (y : Strand), exec (.blockEdge k) s = .next u ∧ u.strand? k = some y ∧
      back y ∧ f y
    (a = 0 → ends fun y => y.phase = .ending 0 ∧ y.run = none) ∧
    (a ≠ 0 → x.suspBit = false ∨ a ≠ x.tres.toNat → ends fun y => y.phase = .enter ∧ y.bc = BitVec.ofNat 64 a ∧ y.run = none) ∧
    ∀ q : Run, a ≠ 0 → x.suspBit = true → x.susp = some q → a = x.tres.toNat →
      ∃ y : Strand, exec (.blockEdge k) s = .next ((s.modStrand k fun _ => y).resumeRun k) ∧ back y ∧
        y.phase = .run ∧ y.run = some q ∧ y.susp = none ∧ y.bc = x.bc

/-- A node that receives POISON copies the first one in the order left, right, predicate, third to its targets and computes
nothing; a sink also records a trap of cause 0x04 with the token's origin and, in s31, the token's cause (R95, R143, R180); a memory
instruction of a control block puts its virtual address there, or 0 where the address itself is POISON (R79). -/
def Obligations.PoisonPasses : Prop :=
  ∀ (s : State) (p : PMode) (a b : Tgt) (t : Tok), s.here?.isSome = true → s.fire.sense p = true → s.fire.poison? = some t →
    s.fire.left.isSome = true → s.fire.right.isSome = true → s.fire.third.isSome = true →
    (∀ i ∈ [Instr.movt p a b, .add p a b, .sub p a b, .mul p a b, .mulh p .uu a b, .and p a b, .or p a b, .xor p a b, .shl p a b,
        .shr p a b, .sra p a b, .min p true a b, .max p true a b, .cmps p .eq a b, .cmpu p .eq a b, .sel p a b, .divs p true a b,
        .divu p true a b, .abs p a b, .neg p a b, .clz p a b, .popc p a b, .addsat p true a b, .subsat p true a b, .idx p a b,
        .andn p a b, .rotl p a b, .fadd p .rne a b, .fsub p .rne a b, .fmul p .rne a b, .fma p .rne a b, .fmin p true a b,
        .fmax p true a b, .fcmp p .eq a b, .fabs p a b, .fneg p a b, .frcp p .rne a b, .fsqrt p .rne a b, .frsq p .rne a b,
        .fexp2 p .rne a b, .flog2 p .rne a b, .fscale p .rne a b, .fclass p a b, .rmax p true a b, .rmin p true a b, .shuf p a b,
        .maskl p a b, .cntl p a b, .firstl p a b, .zip p a b, .unzip p a b], exec i s = .next (s.emit a b t)) ∧
    (∀ i ∈ [Instr.addi p 0 a, .exts p 0 a, .extz p 0 a, .lea p 0 a, .last p 0 a, .bfx p true 0 a, .cvt p 0 .f32 a,
        .cvtr p .rne 0 .f32 a, .cvti p .rne 0 .i32 a, .cvtf p .rne 0 .f32 a, .packb p true 0 0 a, .unpackb p 0 a,
        .retag p .i8 a, .tagq p a, .sati p .ss 0 .i8 a, .rand p 0 a, .ror p 0 a, .bcastl p 0 a, .slide p 0 a, .wrd p 0 a,
        .wrdb p 0 a], exec i s = .next (s.emit a .none t)) ∧
    (∀ i ∈ [Instr.mldb p a, .mclm p 0 a, .mrel p 0 a, .mrow p .none true 0 0 a, .mrowt p .none true 0 0 a, .macr p 0 0 a,
        .manc p 0 0 a, .mdrn p 0 .f32 a, .mdrk p 0 .f32 a, .mstat p 0 0 a, .wup p 0 a, .wfl p 0 a, .wsh p 0 a, .wflb p 0 a,
        .wopen p 0 a, .psrc p 0 a, .psnk p 0 0 a, .ldg p true .i64 a, .ldgv p false .i64 a, .stg p true .i64 a,
        .stgv p false .i64 a, .acq p .tile .i64 a, .rel p .tile .i64 a, .amog p .add .relaxed .tile .i64 a, .mona p .i64 a],
      exec i s = .next ((s.addTrap s.fire.k { cause := 0x04, origin := t.origin, extra := s.poisonExtra t, atExit := false }).emit
        a .none t)) ∧
    ∀ r : Run, s.run? s.fire.k = some r →
      (r.blk.isFabric = true ∨ (∀ i, r.blk.instr? s.fire.slot = some i → Instr.memory i = false) → s.poisonExtra t = t.cause) ∧
      ∀ (i : Instr) (l : Tok), r.blk.isFabric = false → r.blk.instr? s.fire.slot = some i → Instr.memory i = true →
        s.fire.left = some l → s.poisonExtra t = if l.tag = .poison then 0 else l.word.toNat

/-- An instruction of groups 0x0 to 0x5 changes nothing but its strand's running block and the traps owed to it: no byte of memory, no
register before the block's edge, no window, no engine, no other strand (R112, R133). -/
def Obligations.DataflowFrame : Prop :=
  ∀ (i : Instr) (s t : State), Instr.dataflow i = true → exec i s = .next t → s.sameOuter t ∧ s.sameOthers t s.fire.k

/-- A memory instruction writes no byte when it fires, a store's bytes arriving at WRITE_APPLY, and changes no register, window,
trap register or context; MWAIT does so where outcomes are neither logged nor replayed (R60 to R63, R83 to R88). -/
def Obligations.MemoryIssueFrame : Prop :=
  ∀ (i : Instr) (s t : State), Instr.memory i = true → exec i s = .next t → (isMwait i = true → s.logs s.fire.k = false) →
    s.sameMemory t ∧ t.ctxs = s.ctxs ∧ s.sameOthers t s.fire.k ∧
    ∀ x y : Strand, s.strand? s.fire.k = some x → t.strand? s.fire.k = some y →
      { y.outer with stamp := x.stamp, wake := x.wake } = x.outer
end

