-- ==== Sys2Proof/Laws/Fabric.lean ====
section
/-! SUPPORT. Laws/Fabric.lean: the targets of an instruction are those it was written with, and an event's meaning is its row's. -/

namespace Sys2Proof.Machine

open Sys2Proof

theorem targetOf_toNat (t : Tgt) : targetOf t.toNat = t := by
  have small : ∀ (k : Nat) (n : BitVec 7), (128 * k + n.toNat) / 128 = k ∧ (128 * k + n.toNat) % 128 = n.toNat := by
    intro k n
    have := n.isLt
    omega
  cases t with
  | none => rfl
  | left n =>
    have h := small 1 n
    simp only [Tgt.toNat, targetOf]
    rw [show 128 + n.toNat = 128 * 1 + n.toNat from rfl, h.1, h.2]
    simp
  | right n =>
    have h := small 2 n
    simp only [Tgt.toNat, targetOf]
    rw [show 256 + n.toNat = 128 * 2 + n.toNat from rfl, h.1, h.2]
    simp
  | pred n =>
    have h := small 3 n
    simp only [Tgt.toNat, targetOf]
    rw [show 384 + n.toNat = 128 * 3 + n.toNat from rfl, h.1, h.2]
    simp
  | third n =>
    have h := small 4 n
    simp only [Tgt.toNat, targetOf]
    rw [show 512 + n.toNat = 128 * 4 + n.toNat from rfl, h.1, h.2]
    simp
  | reg n =>
    have h := n.isLt
    have d : (640 + n.toNat) / 128 = 5 := by omega
    have m : (640 + n.toNat) % 128 = n.toNat := by omega
    simp [Tgt.toNat, targetOf, d, m]
  | port n =>
    have h := small 6 n
    simp only [Tgt.toNat, targetOf]
    rw [show 768 + n.toNat = 128 * 6 + n.toNat from rfl, h.1, h.2]
    simp
  | bus n =>
    have h := small 7 n
    simp only [Tgt.toNat, targetOf]
    rw [show 896 + n.toNat = 128 * 7 + n.toNat from rfl, h.1, h.2]
    simp

/-- An event does what its row of the opcode table does. -/
theorem Event.run_row {e : Event} {i : Instr} (s : State) (h : Event.isRow e i) : Event.run s e = exec i s := by
  cases e <;> (simp only [Event.isRow] at h; subst h; rfl)

end Sys2Proof.Machine
end

