-- ==== Sys2Proof/Laws/Memory.lean ====
section
/-! SUPPORT. Laws/Memory.lean: finite maps with rising keys, and memory in its canonical form: a read after a write, the
bytes that a write leaves alone, and the canonical form kept by every memory operation. -/

namespace Sys2Proof.Machine

open Sys2Proof

/-! ### Finite maps -/

theorem look_put_same {α : Type} (k : Nat) (v : α) (l : List (Nat × α)) : look k (put k v l) = some v := by
  induction l with
  | nil => simp [put, look]
  | cons e l ih =>
    obtain ⟨j, w⟩ := e
    simp only [put]
    split
    · simp [look]
    · split
      · simp [look]
      · rename_i h1 h2
        have : ¬ j = k := fun h => h2 h.symm
        simp [look, this, ih]

theorem look_put_other {α : Type} {k j : Nat} (h : j ≠ k) (v : α) (l : List (Nat × α)) :
    look j (put k v l) = look j l := by
  induction l with
  | nil => simp [put, look, Ne.symm h]
  | cons e l ih =>
    obtain ⟨i, w⟩ := e
    simp only [put]
    split
    · simp [look, Ne.symm h]
    · split
      · rename_i h1 h2
        subst h2
        simp [look, Ne.symm h]
      · simp [look, ih]

theorem look_del_same {α : Type} (k : Nat) (l : List (Nat × α)) : look k (del k l) = none := by
  induction l with
  | nil => simp [del, look]
  | cons e l ih =>
    obtain ⟨j, w⟩ := e
    by_cases h : j = k
    · subst h
      simpa [del] using ih
    · simpa [del, h, look] using ih

theorem look_del_other {α : Type} {k j : Nat} (h : j ≠ k) (l : List (Nat × α)) : look j (del k l) = look j l := by
  induction l with
  | nil => simp [del, look]
  | cons e l ih =>
    obtain ⟨i, w⟩ := e
    by_cases hi : i = k
    · subst hi
      simpa [del, look, Ne.symm h] using ih
    · have : del k ((i, w) :: l) = (i, w) :: del k l := by simp [del, hi]
      rw [this]
      simp [look, ih]

theorem look_modAt_same {α : Type} (k : Nat) (f : α → α) (l : List (Nat × α)) :
    look k (modAt k f l) = (look k l).map f := by
  induction l with
  | nil => simp [modAt, look]
  | cons e l ih =>
    obtain ⟨j, w⟩ := e
    by_cases h : j = k
    · subst h
      simp [modAt, look]
    · have : modAt k f ((j, w) :: l) = (j, w) :: modAt k f l := by simp [modAt, h]
      rw [this]
      simp [look, h, ih]

theorem look_modAt_other {α : Type} {k j : Nat} (h : j ≠ k) (f : α → α) (l : List (Nat × α)) :
    look j (modAt k f l) = look j l := by
  induction l with
  | nil => simp [modAt, look]
  | cons e l ih =>
    obtain ⟨i, w⟩ := e
    by_cases hi : i = k
    · subst hi
      have : modAt i f ((i, w) :: l) = (i, f w) :: modAt i f l := by simp [modAt]
      rw [this]
      simp [look, Ne.symm h, ih]
    · have : modAt k f ((i, w) :: l) = (i, w) :: modAt k f l := by simp [modAt, hi]
      rw [this]
      simp [look, ih]

/-! ### Rising keys -/

theorem rising_tail {a : Nat} {l : List Nat} (h : rising (a :: l) = true) : rising l = true := by
  cases l with
  | nil => rfl
  | cons b l => simp [rising] at h; exact h.2

theorem rising_cons {a : Nat} {l : List Nat} (h : rising l = true) (h' : ∀ b, l.head? = some b → a < b) :
    rising (a :: l) = true := by
  cases l with
  | nil => rfl
  | cons b l => simp [rising, h' b rfl, h]

theorem rising_head_lt {a : Nat} {l : List Nat} (h : rising (a :: l) = true) : ∀ b ∈ l, a < b := by
  induction l generalizing a with
  | nil => simp
  | cons c l ih =>
    simp only [rising, Bool.and_eq_true, decide_eq_true_eq] at h
    intro b hb
    rcases List.mem_cons.mp hb with rfl | hb
    · exact h.1
    · exact Nat.lt_trans h.1 (ih h.2 b hb)

theorem put_keys_head {α : Type} (k : Nat) (v : α) (l : List (Nat × α)) :
    ∀ b, ((put k v l).map (·.1)).head? = some b → b = k ∨ (l.map (·.1)).head? = some b := by
  cases l with
  | nil => intro b hb; left; simpa [put, eq_comm] using hb
  | cons e l =>
    obtain ⟨j, w⟩ := e
    intro b hb
    simp only [put] at hb
    split at hb
    · left; simpa [eq_comm] using hb
    · split at hb
      · left; simpa [eq_comm] using hb
      · right; simpa using hb

theorem put_rising {α : Type} (k : Nat) (v : α) (l : List (Nat × α)) (h : rising (l.map (·.1)) = true) :
    rising ((put k v l).map (·.1)) = true := by
  induction l with
  | nil => rfl
  | cons e l ih =>
    obtain ⟨j, w⟩ := e
    simp only [put]
    split
    · rename_i hk
      simp only [List.map_cons] at h ⊢
      exact rising_cons h (by intro b hb; simp at hb; omega)
    · split
      · rename_i hk
        subst hk
        simpa using h
      · rename_i h1 h2
        simp only [List.map_cons] at h ⊢
        refine rising_cons (ih (rising_tail h)) ?_
        intro b hb
        rcases put_keys_head k v l b hb with rfl | hb
        · omega
        · exact rising_head_lt h b (List.mem_of_mem_head? hb)

theorem filter_rising (p : Nat → Bool) (l : List Nat) (h : rising l = true) : rising (l.filter p) = true := by
  induction l with
  | nil => rfl
  | cons a l ih =>
    rw [List.filter_cons]
    split
    · refine rising_cons (ih (rising_tail h)) ?_
      intro b hb
      exact rising_head_lt h b ((List.mem_filter.mp (List.mem_of_mem_head? hb)).1)
    · exact ih (rising_tail h)

theorem del_rising {α : Type} (k : Nat) (l : List (Nat × α)) (h : rising (l.map (·.1)) = true) :
    rising ((del k l).map (·.1)) = true := by
  have e : (del k l).map (·.1) = (l.map (·.1)).filter fun i => i != k := by
    simp only [del, List.filter_map]
    rfl
  rw [e]
  exact filter_rising _ _ h

theorem put_all {α : Type} (p : α → Bool) (k : Nat) (v : α) (l : List (Nat × α)) (hv : p v = true)
    (h : l.all (fun c => p c.2) = true) : (put k v l).all (fun c => p c.2) = true := by
  induction l with
  | nil => simp [put, hv]
  | cons e l ih =>
    obtain ⟨j, w⟩ := e
    simp only [List.all_cons, Bool.and_eq_true] at h
    simp only [put]
    split
    · simp only [List.all_cons, Bool.and_eq_true]
      exact ⟨hv, h⟩
    · split
      · simp only [List.all_cons, Bool.and_eq_true]
        exact ⟨hv, h.2⟩
      · simp only [List.all_cons, Bool.and_eq_true]
        exact ⟨h.1, ih h.2⟩

/-! ### Memory -/

/-- A byte written is the byte read. -/
@[simp] theorem Memory.read_write_same (m : Memory) (a : Nat) (b : Byte) : (m.write a b).read a = b := by
  simp only [Memory.write, Memory.read]
  split
  · rename_i h
    simp [look_del_same, h]
  · simp [look_put_same]

/-- A write leaves every other byte alone. -/
theorem Memory.read_write_other {a c : Nat} (h : c ≠ a) (m : Memory) (b : Byte) : (m.write a b).read c = m.read c := by
  simp only [Memory.write, Memory.read]
  split
  · rw [look_del_other h]
  · rw [look_put_other h]

/-- A write keeps the canonical form. -/
theorem Memory.wf_write (m : Memory) (a : Nat) (b : Byte) (h : m.wf = true) : (m.write a b).wf = true := by
  simp only [Memory.wf, Bool.and_eq_true] at h ⊢
  simp only [Memory.write]
  split
  · refine ⟨del_rising a _ h.1, ?_⟩
    simp only [List.all_eq_true] at h ⊢
    intro c hc
    exact h.2 c ((List.mem_filter.mp hc).1)
  · rename_i hb
    exact ⟨put_rising a b _ h.1, put_all (fun v : Byte => v != 0) a b _ (by simpa using hb) h.2⟩

/-- A list of bytes written keeps the canonical form. -/
theorem Memory.wf_writeN (m : Memory) (a : Nat) (bs : List Byte) (h : m.wf = true) : (m.writeN a bs).wf = true := by
  induction bs generalizing m a with
  | nil => exact h
  | cons b bs ih => exact ih (m.write a b) (a + 1) (m.wf_write a b h)

/-- Bytes outside those written read as before. -/
theorem Memory.read_writeN_other (m : Memory) (a c : Nat) (bs : List Byte) (h : c < a ∨ a + bs.length ≤ c) :
    (m.writeN a bs).read c = m.read c := by
  induction bs generalizing m a with
  | nil => rfl
  | cons b bs ih =>
    simp only [List.length_cons] at h
    rw [show m.writeN a (b :: bs) = (m.write a b).writeN (a + 1) bs from rfl,
      ih (m.write a b) (a + 1) (by omega), Memory.read_write_other (by omega)]

/-- Byte i of a list written reads as the list has it. -/
theorem Memory.read_writeN_at (m : Memory) (a i : Nat) (bs : List Byte) (h : i < bs.length) :
    (m.writeN a bs).read (a + i) = bs[i] := by
  induction bs generalizing m a i with
  | nil => simp at h
  | cons b bs ih =>
    rw [show m.writeN a (b :: bs) = (m.write a b).writeN (a + 1) bs from rfl]
    cases i with
    | zero => simp [Memory.read_writeN_other (m.write a b) (a + 1) a bs (by omega)]
    | succ i =>
      have := ih (m.write a b) (a + 1) i (by simpa using h)
      rw [show a + (i + 1) = a + 1 + i by omega, this]
      rfl

/-- Memory after reset is in its canonical form. -/
theorem State.reset_mem_wf : State.reset.mem.wf = true := rfl

end Sys2Proof.Machine
end

