-- ==== Sys2Proof/Laws/State.lean ====
section
/-! SUPPORT. Laws/State.lean: what each update of a state or a strand leaves alone, one lemma a field, and what the parts
of a state read after an update of theirs. -/

namespace Sys2Proof.Machine

open Sys2Proof

/-! ### Updates of a state -/

@[simp] theorem State.modDie_mem (s : State) (d : Nat) (f : Die → Die) : (s.modDie d f).mem = s.mem := rfl
@[simp] theorem State.modDie_frames (s : State) (d : Nat) (f : Die → Die) : (s.modDie d f).frames = s.frames := rfl
@[simp] theorem State.modDie_boot (s : State) (d : Nat) (f : Die → Die) : (s.modDie d f).boot = s.boot := rfl
@[simp] theorem State.modDie_recovery (s : State) (d : Nat) (f : Die → Die) : (s.modDie d f).recovery = s.recovery := rfl
@[simp] theorem State.modDie_image (s : State) (d : Nat) (f : Die → Die) : (s.modDie d f).image = s.image := rfl
@[simp] theorem State.modDie_pwrcap (s : State) (d : Nat) (f : Die → Die) : (s.modDie d f).pwrcap = s.pwrcap := rfl
@[simp] theorem State.modDie_aperture (s : State) (d : Nat) (f : Die → Die) : (s.modDie d f).aperture = s.aperture := rfl
@[simp] theorem State.modDie_pkg (s : State) (d : Nat) (f : Die → Die) : (s.modDie d f).pkg = s.pkg := rfl
@[simp] theorem State.modDie_jobmap (s : State) (d : Nat) (f : Die → Die) : (s.modDie d f).jobmap = s.jobmap := rfl
@[simp] theorem State.modDie_net (s : State) (d : Nat) (f : Die → Die) : (s.modDie d f).net = s.net := rfl
@[simp] theorem State.modDie_sent (s : State) (d : Nat) (f : Die → Die) : (s.modDie d f).sent = s.sent := rfl
@[simp] theorem State.modDie_ctxs (s : State) (d : Nat) (f : Die → Die) : (s.modDie d f).ctxs = s.ctxs := rfl
@[simp] theorem State.modDie_strands (s : State) (d : Nat) (f : Die → Die) : (s.modDie d f).strands = s.strands := rfl
@[simp] theorem State.modDie_images (s : State) (d : Nat) (f : Die → Die) : (s.modDie d f).images = s.images := rfl
@[simp] theorem State.modDie_done (s : State) (d : Nat) (f : Die → Die) : (s.modDie d f).done = s.done := rfl
@[simp] theorem State.modDie_signals (s : State) (d : Nat) (f : Die → Die) : (s.modDie d f).signals = s.signals := rfl
@[simp] theorem State.modDie_fire (s : State) (d : Nat) (f : Die → Die) : (s.modDie d f).fire = s.fire := rfl
@[simp] theorem State.modDie_agenda (s : State) (d : Nat) (f : Die → Die) : (s.modDie d f).agenda = s.agenda := rfl
@[simp] theorem State.modDie_free (s : State) (d : Nat) (f : Die → Die) : (s.modDie d f).free = s.free := rfl
@[simp] theorem State.modDie_arrived (s : State) (d : Nat) (f : Die → Die) : (s.modDie d f).arrived = s.arrived := rfl

@[simp] theorem State.modStrand_mem (s : State) (k : Nat) (f : Strand → Strand) : (s.modStrand k f).mem = s.mem := rfl
@[simp] theorem State.modStrand_frames (s : State) (k : Nat) (f : Strand → Strand) : (s.modStrand k f).frames = s.frames := rfl
@[simp] theorem State.modStrand_boot (s : State) (k : Nat) (f : Strand → Strand) : (s.modStrand k f).boot = s.boot := rfl
@[simp] theorem State.modStrand_recovery (s : State) (k : Nat) (f : Strand → Strand) : (s.modStrand k f).recovery = s.recovery := rfl
@[simp] theorem State.modStrand_image (s : State) (k : Nat) (f : Strand → Strand) : (s.modStrand k f).image = s.image := rfl
@[simp] theorem State.modStrand_pwrcap (s : State) (k : Nat) (f : Strand → Strand) : (s.modStrand k f).pwrcap = s.pwrcap := rfl
@[simp] theorem State.modStrand_aperture (s : State) (k : Nat) (f : Strand → Strand) : (s.modStrand k f).aperture = s.aperture := rfl
@[simp] theorem State.modStrand_pkg (s : State) (k : Nat) (f : Strand → Strand) : (s.modStrand k f).pkg = s.pkg := rfl
@[simp] theorem State.modStrand_jobmap (s : State) (k : Nat) (f : Strand → Strand) : (s.modStrand k f).jobmap = s.jobmap := rfl
@[simp] theorem State.modStrand_net (s : State) (k : Nat) (f : Strand → Strand) : (s.modStrand k f).net = s.net := rfl
@[simp] theorem State.modStrand_sent (s : State) (k : Nat) (f : Strand → Strand) : (s.modStrand k f).sent = s.sent := rfl
@[simp] theorem State.modStrand_dies (s : State) (k : Nat) (f : Strand → Strand) : (s.modStrand k f).dies = s.dies := rfl
@[simp] theorem State.modStrand_ctxs (s : State) (k : Nat) (f : Strand → Strand) : (s.modStrand k f).ctxs = s.ctxs := rfl
@[simp] theorem State.modStrand_images (s : State) (k : Nat) (f : Strand → Strand) : (s.modStrand k f).images = s.images := rfl
@[simp] theorem State.modStrand_done (s : State) (k : Nat) (f : Strand → Strand) : (s.modStrand k f).done = s.done := rfl
@[simp] theorem State.modStrand_signals (s : State) (k : Nat) (f : Strand → Strand) : (s.modStrand k f).signals = s.signals := rfl
@[simp] theorem State.modStrand_fire (s : State) (k : Nat) (f : Strand → Strand) : (s.modStrand k f).fire = s.fire := rfl
@[simp] theorem State.modStrand_agenda (s : State) (k : Nat) (f : Strand → Strand) : (s.modStrand k f).agenda = s.agenda := rfl
@[simp] theorem State.modStrand_free (s : State) (k : Nat) (f : Strand → Strand) : (s.modStrand k f).free = s.free := rfl
@[simp] theorem State.modStrand_arrived (s : State) (k : Nat) (f : Strand → Strand) : (s.modStrand k f).arrived = s.arrived := rfl

@[simp] theorem State.modCtx_mem (s : State) (c : Nat) (f : Ctx → Ctx) : (s.modCtx c f).mem = s.mem := rfl
@[simp] theorem State.modCtx_frames (s : State) (c : Nat) (f : Ctx → Ctx) : (s.modCtx c f).frames = s.frames := rfl
@[simp] theorem State.modCtx_boot (s : State) (c : Nat) (f : Ctx → Ctx) : (s.modCtx c f).boot = s.boot := rfl
@[simp] theorem State.modCtx_recovery (s : State) (c : Nat) (f : Ctx → Ctx) : (s.modCtx c f).recovery = s.recovery := rfl
@[simp] theorem State.modCtx_image (s : State) (c : Nat) (f : Ctx → Ctx) : (s.modCtx c f).image = s.image := rfl
@[simp] theorem State.modCtx_pwrcap (s : State) (c : Nat) (f : Ctx → Ctx) : (s.modCtx c f).pwrcap = s.pwrcap := rfl
@[simp] theorem State.modCtx_aperture (s : State) (c : Nat) (f : Ctx → Ctx) : (s.modCtx c f).aperture = s.aperture := rfl
@[simp] theorem State.modCtx_pkg (s : State) (c : Nat) (f : Ctx → Ctx) : (s.modCtx c f).pkg = s.pkg := rfl
@[simp] theorem State.modCtx_jobmap (s : State) (c : Nat) (f : Ctx → Ctx) : (s.modCtx c f).jobmap = s.jobmap := rfl
@[simp] theorem State.modCtx_net (s : State) (c : Nat) (f : Ctx → Ctx) : (s.modCtx c f).net = s.net := rfl
@[simp] theorem State.modCtx_sent (s : State) (c : Nat) (f : Ctx → Ctx) : (s.modCtx c f).sent = s.sent := rfl
@[simp] theorem State.modCtx_dies (s : State) (c : Nat) (f : Ctx → Ctx) : (s.modCtx c f).dies = s.dies := rfl
@[simp] theorem State.modCtx_strands (s : State) (c : Nat) (f : Ctx → Ctx) : (s.modCtx c f).strands = s.strands := rfl
@[simp] theorem State.modCtx_images (s : State) (c : Nat) (f : Ctx → Ctx) : (s.modCtx c f).images = s.images := rfl
@[simp] theorem State.modCtx_done (s : State) (c : Nat) (f : Ctx → Ctx) : (s.modCtx c f).done = s.done := rfl
@[simp] theorem State.modCtx_signals (s : State) (c : Nat) (f : Ctx → Ctx) : (s.modCtx c f).signals = s.signals := rfl
@[simp] theorem State.modCtx_fire (s : State) (c : Nat) (f : Ctx → Ctx) : (s.modCtx c f).fire = s.fire := rfl
@[simp] theorem State.modCtx_agenda (s : State) (c : Nat) (f : Ctx → Ctx) : (s.modCtx c f).agenda = s.agenda := rfl
@[simp] theorem State.modCtx_free (s : State) (c : Nat) (f : Ctx → Ctx) : (s.modCtx c f).free = s.free := rfl
@[simp] theorem State.modCtx_arrived (s : State) (c : Nat) (f : Ctx → Ctx) : (s.modCtx c f).arrived = s.arrived := rfl

@[simp] theorem State.modRun_mem (s : State) (k : Nat) (f : Run → Run) : (s.modRun k f).mem = s.mem := rfl
@[simp] theorem State.modRun_frames (s : State) (k : Nat) (f : Run → Run) : (s.modRun k f).frames = s.frames := rfl
@[simp] theorem State.modRun_boot (s : State) (k : Nat) (f : Run → Run) : (s.modRun k f).boot = s.boot := rfl
@[simp] theorem State.modRun_recovery (s : State) (k : Nat) (f : Run → Run) : (s.modRun k f).recovery = s.recovery := rfl
@[simp] theorem State.modRun_image (s : State) (k : Nat) (f : Run → Run) : (s.modRun k f).image = s.image := rfl
@[simp] theorem State.modRun_pwrcap (s : State) (k : Nat) (f : Run → Run) : (s.modRun k f).pwrcap = s.pwrcap := rfl
@[simp] theorem State.modRun_aperture (s : State) (k : Nat) (f : Run → Run) : (s.modRun k f).aperture = s.aperture := rfl
@[simp] theorem State.modRun_pkg (s : State) (k : Nat) (f : Run → Run) : (s.modRun k f).pkg = s.pkg := rfl
@[simp] theorem State.modRun_jobmap (s : State) (k : Nat) (f : Run → Run) : (s.modRun k f).jobmap = s.jobmap := rfl
@[simp] theorem State.modRun_net (s : State) (k : Nat) (f : Run → Run) : (s.modRun k f).net = s.net := rfl
@[simp] theorem State.modRun_sent (s : State) (k : Nat) (f : Run → Run) : (s.modRun k f).sent = s.sent := rfl
@[simp] theorem State.modRun_dies (s : State) (k : Nat) (f : Run → Run) : (s.modRun k f).dies = s.dies := rfl
@[simp] theorem State.modRun_ctxs (s : State) (k : Nat) (f : Run → Run) : (s.modRun k f).ctxs = s.ctxs := rfl
@[simp] theorem State.modRun_images (s : State) (k : Nat) (f : Run → Run) : (s.modRun k f).images = s.images := rfl
@[simp] theorem State.modRun_done (s : State) (k : Nat) (f : Run → Run) : (s.modRun k f).done = s.done := rfl
@[simp] theorem State.modRun_signals (s : State) (k : Nat) (f : Run → Run) : (s.modRun k f).signals = s.signals := rfl
@[simp] theorem State.modRun_fire (s : State) (k : Nat) (f : Run → Run) : (s.modRun k f).fire = s.fire := rfl
@[simp] theorem State.modRun_agenda (s : State) (k : Nat) (f : Run → Run) : (s.modRun k f).agenda = s.agenda := rfl
@[simp] theorem State.modRun_free (s : State) (k : Nat) (f : Run → Run) : (s.modRun k f).free = s.free := rfl
@[simp] theorem State.modRun_arrived (s : State) (k : Nat) (f : Run → Run) : (s.modRun k f).arrived = s.arrived := rfl

/-! ### What a part reads after an update -/

theorem State.die_modDie_same (s : State) (d : Nat) (f : Die → Die) : (s.modDie d f).die d = f (s.die d) := by
  simp [State.die, State.modDie]

theorem State.die_modDie_other (s : State) {d e : Nat} (h : e % 4 ≠ d % 4) (f : Die → Die) :
    (s.modDie d f).die e = s.die e := by
  simp only [State.die, State.modDie]
  exact Vector.getElem_set_ne _ _ (by omega)

theorem State.strand_modStrand_same (s : State) (k : Nat) (f : Strand → Strand) :
    (s.modStrand k f).strand? k = (s.strand? k).map f := look_modAt_same k f s.strands

theorem State.strand_modStrand_other (s : State) {j k : Nat} (h : j ≠ k) (f : Strand → Strand) :
    (s.modStrand k f).strand? j = s.strand? j := look_modAt_other h f s.strands

theorem State.ctx_modCtx_same (s : State) (c : Nat) (f : Ctx → Ctx) : (s.modCtx c f).ctx? c = (s.ctx? c).map f :=
  look_modAt_same c f s.ctxs

theorem State.ctx_modCtx_other (s : State) {c e : Nat} (h : e ≠ c) (f : Ctx → Ctx) : (s.modCtx c f).ctx? e = s.ctx? e :=
  look_modAt_other h f s.ctxs

@[simp] theorem State.die_modStrand (s : State) (k d : Nat) (f : Strand → Strand) : (s.modStrand k f).die d = s.die d := rfl
@[simp] theorem State.die_modCtx (s : State) (c d : Nat) (f : Ctx → Ctx) : (s.modCtx c f).die d = s.die d := rfl
@[simp] theorem State.strand_modDie (s : State) (d k : Nat) (f : Die → Die) : (s.modDie d f).strand? k = s.strand? k := rfl
@[simp] theorem State.strand_modCtx (s : State) (c k : Nat) (f : Ctx → Ctx) : (s.modCtx c f).strand? k = s.strand? k := rfl
@[simp] theorem State.ctx_modDie (s : State) (d c : Nat) (f : Die → Die) : (s.modDie d f).ctx? c = s.ctx? c := rfl
@[simp] theorem State.ctx_modStrand (s : State) (k c : Nat) (f : Strand → Strand) : (s.modStrand k f).ctx? c = s.ctx? c := rfl

/-! ### Updates of a strand -/

@[simp] theorem Strand.writeReg_ctx (x : Strand) (n : Nat) (v : Word) (t : Tag) : (x.writeReg n v t).ctx = x.ctx := by
  simp only [Strand.writeReg]; split <;> rfl
@[simp] theorem Strand.writeReg_die (x : Strand) (n : Nat) (v : Word) (t : Tag) : (x.writeReg n v t).die = x.die := by
  simp only [Strand.writeReg]; split <;> rfl
@[simp] theorem Strand.writeReg_lead (x : Strand) (n : Nat) (v : Word) (t : Tag) : (x.writeReg n v t).lead = x.lead := by
  simp only [Strand.writeReg]; split <;> rfl
@[simp] theorem Strand.writeReg_region (x : Strand) (n : Nat) (v : Word) (t : Tag) : (x.writeReg n v t).region = x.region := by
  simp only [Strand.writeReg]; split <;> rfl
@[simp] theorem Strand.writeReg_phase (x : Strand) (n : Nat) (v : Word) (t : Tag) : (x.writeReg n v t).phase = x.phase := by
  simp only [Strand.writeReg]; split <;> rfl
@[simp] theorem Strand.writeReg_bc (x : Strand) (n : Nat) (v : Word) (t : Tag) : (x.writeReg n v t).bc = x.bc := by
  simp only [Strand.writeReg]; split <;> rfl
@[simp] theorem Strand.writeReg_blink (x : Strand) (n : Nat) (v : Word) (t : Tag) : (x.writeReg n v t).blink = x.blink := by
  simp only [Strand.writeReg]; split <;> rfl
@[simp] theorem Strand.writeReg_rstack (x : Strand) (n : Nat) (v : Word) (t : Tag) : (x.writeReg n v t).rstack = x.rstack := by
  simp only [Strand.writeReg]; split <;> rfl
@[simp] theorem Strand.writeReg_rovf (x : Strand) (n : Nat) (v : Word) (t : Tag) : (x.writeReg n v t).rovf = x.rovf := by
  simp only [Strand.writeReg]; split <;> rfl
@[simp] theorem Strand.writeReg_base (x : Strand) (n : Nat) (v : Word) (t : Tag) : (x.writeReg n v t).base = x.base := by
  simp only [Strand.writeReg]; split <;> rfl
@[simp] theorem Strand.writeReg_eff (x : Strand) (n : Nat) (v : Word) (t : Tag) : (x.writeReg n v t).eff = x.eff := by
  simp only [Strand.writeReg]; split <;> rfl
@[simp] theorem Strand.writeReg_events (x : Strand) (n : Nat) (v : Word) (t : Tag) : (x.writeReg n v t).events = x.events := by
  simp only [Strand.writeReg]; split <;> rfl
@[simp] theorem Strand.writeReg_evq (x : Strand) (n : Nat) (v : Word) (t : Tag) : (x.writeReg n v t).evq = x.evq := by
  simp only [Strand.writeReg]; split <;> rfl
@[simp] theorem Strand.writeReg_tres (x : Strand) (n : Nat) (v : Word) (t : Tag) : (x.writeReg n v t).tres = x.tres := by
  simp only [Strand.writeReg]; split <;> rfl
@[simp] theorem Strand.writeReg_tstat (x : Strand) (n : Nat) (v : Word) (t : Tag) : (x.writeReg n v t).tstat = x.tstat := by
  simp only [Strand.writeReg]; split <;> rfl
@[simp] theorem Strand.writeReg_tsav (x : Strand) (n : Nat) (v : Word) (t : Tag) : (x.writeReg n v t).tsav = x.tsav := by
  simp only [Strand.writeReg]; split <;> rfl
@[simp] theorem Strand.writeReg_stgcfg (x : Strand) (n : Nat) (v : Word) (t : Tag) : (x.writeReg n v t).stgcfg = x.stgcfg := by
  simp only [Strand.writeReg]; split <;> rfl
@[simp] theorem Strand.writeReg_stghnd (x : Strand) (n : Nat) (v : Word) (t : Tag) : (x.writeReg n v t).stghnd = x.stghnd := by
  simp only [Strand.writeReg]; split <;> rfl
@[simp] theorem Strand.writeReg_stgser (x : Strand) (n : Nat) (v : Word) (t : Tag) : (x.writeReg n v t).stgser = x.stgser := by
  simp only [Strand.writeReg]; split <;> rfl
@[simp] theorem Strand.writeReg_splcur (x : Strand) (n : Nat) (v : Word) (t : Tag) : (x.writeReg n v t).splcur = x.splcur := by
  simp only [Strand.writeReg]; split <;> rfl
@[simp] theorem Strand.writeReg_splstp (x : Strand) (n : Nat) (v : Word) (t : Tag) : (x.writeReg n v t).splstp = x.splstp := by
  simp only [Strand.writeReg]; split <;> rfl
@[simp] theorem Strand.writeReg_spldesc (x : Strand) (n : Nat) (v : Word) (t : Tag) : (x.writeReg n v t).spldesc = x.spldesc := by
  simp only [Strand.writeReg]; split <;> rfl
@[simp] theorem Strand.writeReg_splpost (x : Strand) (n : Nat) (v : Word) (t : Tag) : (x.writeReg n v t).splpost = x.splpost := by
  simp only [Strand.writeReg]; split <;> rfl
@[simp] theorem Strand.writeReg_tcur (x : Strand) (n : Nat) (v : Word) (t : Tag) : (x.writeReg n v t).tcur = x.tcur := by
  simp only [Strand.writeReg]; split <;> rfl
@[simp] theorem Strand.writeReg_tpiece (x : Strand) (n : Nat) (v : Word) (t : Tag) : (x.writeReg n v t).tpiece = x.tpiece := by
  simp only [Strand.writeReg]; split <;> rfl
@[simp] theorem Strand.writeReg_dbgctl (x : Strand) (n : Nat) (v : Word) (t : Tag) : (x.writeReg n v t).dbgctl = x.dbgctl := by
  simp only [Strand.writeReg]; split <;> rfl
@[simp] theorem Strand.writeReg_brkr (x : Strand) (n : Nat) (v : Word) (t : Tag) : (x.writeReg n v t).brkr = x.brkr := by
  simp only [Strand.writeReg]; split <;> rfl
@[simp] theorem Strand.writeReg_folds (x : Strand) (n : Nat) (v : Word) (t : Tag) : (x.writeReg n v t).folds = x.folds := by
  simp only [Strand.writeReg]; split <;> rfl
@[simp] theorem Strand.writeReg_deque (x : Strand) (n : Nat) (v : Word) (t : Tag) : (x.writeReg n v t).deque = x.deque := by
  simp only [Strand.writeReg]; split <;> rfl
@[simp] theorem Strand.writeReg_victim (x : Strand) (n : Nat) (v : Word) (t : Tag) : (x.writeReg n v t).victim = x.victim := by
  simp only [Strand.writeReg]; split <;> rfl
@[simp] theorem Strand.writeReg_wins (x : Strand) (n : Nat) (v : Word) (t : Tag) : (x.writeReg n v t).wins = x.wins := by
  simp only [Strand.writeReg]; split <;> rfl
@[simp] theorem Strand.writeReg_chans (x : Strand) (n : Nat) (v : Word) (t : Tag) : (x.writeReg n v t).chans = x.chans := by
  simp only [Strand.writeReg]; split <;> rfl
@[simp] theorem Strand.writeReg_copies (x : Strand) (n : Nat) (v : Word) (t : Tag) : (x.writeReg n v t).copies = x.copies := by
  simp only [Strand.writeReg]; split <;> rfl
@[simp] theorem Strand.writeReg_colls (x : Strand) (n : Nat) (v : Word) (t : Tag) : (x.writeReg n v t).colls = x.colls := by
  simp only [Strand.writeReg]; split <;> rfl
@[simp] theorem Strand.writeReg_run (x : Strand) (n : Nat) (v : Word) (t : Tag) : (x.writeReg n v t).run = x.run := by
  simp only [Strand.writeReg]; split <;> rfl
@[simp] theorem Strand.writeReg_susp (x : Strand) (n : Nat) (v : Word) (t : Tag) : (x.writeReg n v t).susp = x.susp := by
  simp only [Strand.writeReg]; split <;> rfl
@[simp] theorem Strand.writeReg_owed (x : Strand) (n : Nat) (v : Word) (t : Tag) : (x.writeReg n v t).owed = x.owed := by
  simp only [Strand.writeReg]; split <;> rfl
@[simp] theorem Strand.writeReg_stamp (x : Strand) (n : Nat) (v : Word) (t : Tag) : (x.writeReg n v t).stamp = x.stamp := by
  simp only [Strand.writeReg]; split <;> rfl
@[simp] theorem Strand.writeReg_save (x : Strand) (n : Nat) (v : Word) (t : Tag) : (x.writeReg n v t).save = x.save := by
  simp only [Strand.writeReg]; split <;> rfl
@[simp] theorem Strand.writeReg_asked (x : Strand) (n : Nat) (v : Word) (t : Tag) : (x.writeReg n v t).asked = x.asked := by
  simp only [Strand.writeReg]; split <;> rfl
@[simp] theorem Strand.writeReg_overdue (x : Strand) (n : Nat) (v : Word) (t : Tag) : (x.writeReg n v t).overdue = x.overdue := by
  simp only [Strand.writeReg]; split <;> rfl
@[simp] theorem Strand.writeReg_home (x : Strand) (n : Nat) (v : Word) (t : Tag) : (x.writeReg n v t).home = x.home := by
  simp only [Strand.writeReg]; split <;> rfl
@[simp] theorem Strand.writeReg_dirty (x : Strand) (n : Nat) (v : Word) (t : Tag) : (x.writeReg n v t).dirty = x.dirty := by
  simp only [Strand.writeReg]; split <;> rfl
@[simp] theorem Strand.writeReg_shrink (x : Strand) (n : Nat) (v : Word) (t : Tag) : (x.writeReg n v t).shrink = x.shrink := by
  simp only [Strand.writeReg]; split <;> rfl
@[simp] theorem Strand.writeReg_launch (x : Strand) (n : Nat) (v : Word) (t : Tag) : (x.writeReg n v t).launch = x.launch := by
  simp only [Strand.writeReg]; split <;> rfl
@[simp] theorem Strand.writeReg_seqc (x : Strand) (n : Nat) (v : Word) (t : Tag) : (x.writeReg n v t).seqc = x.seqc := by
  simp only [Strand.writeReg]; split <;> rfl
@[simp] theorem Strand.writeReg_wake (x : Strand) (n : Nat) (v : Word) (t : Tag) : (x.writeReg n v t).wake = x.wake := by
  simp only [Strand.writeReg]; split <;> rfl
@[simp] theorem Strand.writeReg_crossed (x : Strand) (n : Nat) (v : Word) (t : Tag) : (x.writeReg n v t).crossed = x.crossed := by
  simp only [Strand.writeReg]; split <;> rfl
@[simp] theorem Strand.writeReg_shrunk (x : Strand) (n : Nat) (v : Word) (t : Tag) : (x.writeReg n v t).shrunk = x.shrunk := by
  simp only [Strand.writeReg]; split <;> rfl

/-- s0 reads 0 with tag I64, whatever was written (R110). -/
@[simp] theorem Strand.readReg_zero (x : Strand) : x.readReg 0 = (0, .i64) := rfl

/-- A register written is the register read, s0 apart (R110). -/
theorem Strand.readReg_writeReg_same (x : Strand) (n : Nat) (v : Word) (t : Tag) (h : n % 32 ≠ 0) :
    (x.writeReg n v t).readReg n = (v, t) := by
  simp [Strand.writeReg, Strand.readReg, h]

/-- A write of s0 is discarded (R39, R110). -/
theorem Strand.writeReg_zero (x : Strand) (v : Word) (t : Tag) : x.writeReg 0 v t = x := by
  simp [Strand.writeReg]

/-- Every other register is left alone. -/
theorem Strand.readReg_writeReg_other (x : Strand) {m n : Nat} (v : Word) (t : Tag) (h : m % 32 ≠ n % 32) :
    (x.writeReg n v t).readReg m = x.readReg m := by
  by_cases hn : n % 32 = 0
  · simp [Strand.writeReg, hn]
  · by_cases hm : m % 32 = 0
    · simp [Strand.readReg, hm]
    · simp only [Strand.writeReg, Strand.readReg, hn, hm, if_false]
      rw [Vector.getElem_set_ne _ _ (by omega), Vector.getElem_set_ne _ _ (by omega)]

end Sys2Proof.Machine
end

