-- ==== Sys2Proof/Laws/Ops.lean ====
section
/-! SUPPORT. Laws/Ops.lean: what each shared operation of a firing does, once: when a firing runs its own effect, and what
stays as it was when it runs, fails or receives POISON. -/

namespace Sys2Proof.Machine

open Sys2Proof

/-! ### What agrees beside running blocks and owed traps -/

theorem State.sameOuter_refl (s : State) : s.sameOuter s := ⟨rfl, fun _ => rfl⟩

theorem State.sameOuter_trans {s t u : State} (h : s.sameOuter t) (g : t.sameOuter u) : s.sameOuter u :=
  ⟨g.1.trans h.1, fun k => (g.2 k).trans (h.2 k)⟩

/-- A change of strand k that keeps what its strand holds beside the block and owed traps. -/
theorem State.sameOuter_modStrand (s : State) (k : Nat) (f : Strand → Strand) (h : ∀ x, (f x).outer = x.outer) :
    s.sameOuter (s.modStrand k f) := by
  refine ⟨rfl, fun j => ?_⟩
  by_cases hj : j = k
  · subst hj
    rw [State.strand_modStrand_same]
    cases s.strand? j with
    | none => rfl
    | some x => simp [h]
  · rw [State.strand_modStrand_other s hj]

theorem State.sameOuter_modRun (s : State) (k : Nat) (f : Run → Run) : s.sameOuter (s.modRun k f) :=
  s.sameOuter_modStrand k _ fun _ => rfl

theorem State.sameOuter_addTrap (s : State) (k : Nat) (t : Trap) : s.sameOuter (s.addTrap k t) :=
  s.sameOuter_modStrand k _ fun x => by cases hx : x.run <;> simp [Strand.outer]

theorem State.sameOuter_give (s : State) (a b : Tgt) (x y : Option Item) : s.sameOuter (s.give a b x y) :=
  s.sameOuter_modRun _ _

theorem State.sameOuter_emit (s : State) (a b : Tgt) (t : Tok) : s.sameOuter (s.emit a b t) := s.sameOuter_give a b _ _

theorem State.sameOuter_failBoth (s : State) (sink : Bool) (a b : Tgt) (c e : Nat) :
    s.sameOuter (s.failBoth sink a b c e) := by
  simp only [State.failBoth]
  split
  · exact State.sameOuter_trans (s.sameOuter_addTrap _ _) (State.sameOuter_emit _ a b _)
  · exact s.sameOuter_emit a b _

theorem State.sameOuter_poisoned (s : State) (sink : Bool) (a b : Tgt) (t : Tok) :
    s.sameOuter (s.poisoned sink a b t) := by
  simp only [State.poisoned]
  split
  · exact State.sameOuter_trans (s.sameOuter_addTrap _ _) (State.sameOuter_emit _ a b _)
  · exact s.sameOuter_emit a b _

/-- A firing keeps what its body keeps. -/
theorem State.sameOuter_firingWith (s : State) (lanes : Bool) (p : PMode) (need : Firing → Bool) (sink : Bool) (a b : Tgt)
    (body : State) (h : s.sameOuter body) : s.sameOuter (s.firingWith lanes p need sink a b body) := by
  simp only [State.firingWith]
  split
  · exact s.sameOuter_refl
  · split
    · split
      · exact s.sameOuter_poisoned ..
      · split
        · split
          · exact h
          · exact s.sameOuter_failBoth ..
        · exact h
    · exact s.sameOuter_refl

theorem State.sameOuter_firing (s : State) (p : PMode) (need : Firing → Bool) (sink : Bool) (a b : Tgt) (body : State)
    (h : s.sameOuter body) : s.sameOuter (s.firing p need sink a b body) := s.sameOuter_firingWith false p need sink a b body h

/-- A meaning that computes one token changes nothing beside running blocks and owed traps. -/
theorem State.sameOuter_compute (s : State) (p : PMode) (need : Firing → Bool) (sink : Bool) (a b : Tgt)
    (f : Firing → Except Nat Tok) : s.sameOuter (s.compute p need sink a b f) := by
  refine s.sameOuter_firing p need sink a b _ ?_
  cases f s.fire with
  | ok t => exact s.sameOuter_emit a b t
  | error c => exact s.sameOuter_failBoth sink a b c c

theorem State.sameOuter_float (s : State) (p : PMode) (need : Firing → Bool) (a b : Tgt) (f : Firing → Except Nat Tok) :
    s.sameOuter (s.float p need a b f) := by
  refine s.sameOuter_firingWith true p need false a b _ ?_
  cases f s.fire with
  | ok t => exact s.sameOuter_emit a b t
  | error c => exact s.sameOuter_failBoth false a b c c

theorem State.sameOuter_exitFault (s : State) (r : Run) (final : Bool) (t : Trap) :
    s.sameOuter (s.exitFault r final t) :=
  State.sameOuter_trans (s.sameOuter_addTrap _ t) (State.sameOuter_modRun _ _ _)

/-- An exit that fires only joins the exits of its block. -/
theorem State.sameOuter_exiting (s : State) (p : PMode) (needLeft : Bool) (act : Strand → Firing → Except Nat ExitAct) :
    s.sameOuter (s.exiting p needLeft act) := by
  simp only [State.exiting]
  split
  · exact s.sameOuter_refl
  · split
    · split
      · exact s.sameOuter_exitFault ..
      · split
        · exact s.sameOuter_modRun _ _
        · split
          · exact s.sameOuter_exitFault ..
          · split
            · exact s.sameOuter_exitFault ..
            · exact s.sameOuter_modRun _ _
    · exact s.sameOuter_refl

/-! ### When a firing runs its own effect -/

theorem State.ready_here {s : State} {p : PMode} (h : s.ready p = true) : ∃ x r n, s.here? = some (x, r, n) := by
  simp only [State.ready, Bool.and_eq_true] at h
  cases e : s.here? with
  | none => simp [e] at h
  | some v => exact ⟨v.1, v.2.1, v.2.2, rfl⟩

/-- A ready firing whose operands are there runs its body. -/
theorem State.firingWith_ready {s : State} {p : PMode} (h : s.ready p = true) (lanes : Bool) (need : Firing → Bool)
    (hn : need s.fire = true) (sink : Bool) (a b : Tgt) (body : State) :
    s.firingWith lanes p need sink a b body = body := by
  obtain ⟨x, r, n, e⟩ := State.ready_here h
  simp only [State.ready, Bool.and_eq_true, Option.isNone_iff_eq_none, Firing.plainPred] at h
  obtain ⟨⟨⟨-, hs⟩, hp⟩, hq⟩ := h
  simp only [State.firingWith, e, hs, hn, hp, Bool.and_self, if_true]
  cases hd : s.fire.pred with
  | none => rfl
  | some t =>
    simp only [hd, Option.all_some, Bool.and_eq_true, beq_iff_eq] at hq
    simp [hq.1, hq.2]

theorem State.firing_ready {s : State} {p : PMode} (h : s.ready p = true) (need : Firing → Bool)
    (hn : need s.fire = true) (sink : Bool) (a b : Tgt) (body : State) : s.firing p need sink a b body = body :=
  State.firingWith_ready h false need hn sink a b body

theorem State.compute_ready {s : State} {p : PMode} (h : s.ready p = true) {need : Firing → Bool}
    (hn : need s.fire = true) (sink : Bool) (a b : Tgt) {f : Firing → Except Nat Tok} {t : Tok} (hf : f s.fire = .ok t) :
    s.compute p need sink a b f = s.emit a b t := by
  simp only [State.compute, State.firing_ready h need hn, hf]

theorem State.float_ready {s : State} {p : PMode} (h : s.ready p = true) {need : Firing → Bool}
    (hn : need s.fire = true) (a b : Tgt) {f : Firing → Except Nat Tok} {t : Tok} (hf : f s.fire = .ok t) :
    s.float p need a b f = s.emit a b t := by
  simp only [State.float, State.firingWith_ready h true need hn, hf]

/-- A ready firing in iteration order begins its operation. -/
theorem State.tries_ready {s : State} {p : PMode} (h : s.ready p = true) (hi : s.idle = true) {need : Firing → Bool}
    (hn : need s.fire = true) (sink : Bool) (a b : Tgt) (t : State → Try) :
    s.tries p need sink a b t = State.begin sink a b (t s) := by
  simp only [State.tries, State.firing_ready h need hn, State.inOrder]
  obtain ⟨x, r, n, e⟩ := State.ready_here h
  simp only [State.idle, e] at hi
  simp [e, hi]

/-- A ready member whose turn has come begins its operation. -/
theorem State.member_ready {s : State} {p : PMode} (h : s.ready p = true) {store : Bool} {rel : Option Scope}
    (ht : s.myTurn store rel = true) {need : Firing → Bool} (hn : need s.fire = true) (sink : Bool) (a b : Tgt)
    (t : State → Try) : s.member p need sink a b store rel t = State.begin sink a b (t s) := by
  simp only [State.member, State.firing_ready h need hn]
  obtain ⟨x, r, n, e⟩ := State.ready_here h
  simp only [State.myTurn, e] at ht
  simp [e, ht]

/-- A ready exit in its final iteration records its act. -/
theorem State.exiting_ready {s : State} {p : PMode} (h : s.ready p = true) {x : Strand} {r : Run} {n : Node}
    (e : s.here? = some (x, r, n)) {needLeft : Bool}
    (hl : s.fire.left.isSome = true ∨ needLeft = false ∧ r.blk.isFabric = false)
    (hfin : r.isFinal x.region s.fire = true) {act : Strand → Firing → Except Nat ExitAct} {v : ExitAct}
    (ha : act x s.fire = .ok v) :
    s.exiting p needLeft act = s.modRun s.fire.k fun q => q.exited s.fire v := by
  simp only [State.ready, Bool.and_eq_true, Option.isNone_iff_eq_none, Firing.plainPred] at h
  obtain ⟨⟨⟨-, hs⟩, hp⟩, hq⟩ := h
  have hany : (s.fire.pred.any fun t => !(t.tag == .pred && t.scalar)) = false := by
    cases hd : s.fire.pred with
    | none => rfl
    | some t => simpa [hd] using hq
  have hc : ((!needLeft && !r.blk.isFabric) || s.fire.left.isSome) = true := by
    rcases hl with hl | ⟨h1, h2⟩
    · simp [hl]
    · simp [h1, h2]
  have hbad : s.fire.badPred = false := hany
  simp only [State.exiting, e, hs, hc, hp, hbad, ha, hfin, Bool.and_self, if_true, not_true, if_false, Bool.false_eq_true]

end Sys2Proof.Machine
end

