-- ==== Sys2Proof/Laws/Lanes.lean ====
section
/-! SUPPORT. Laws/Lanes.lean: the lanes of a number and of a vector token are those it was made of. -/

namespace Sys2Proof.Machine

open Sys2Proof

theorem lanesNat_lt (w : Nat) (l : List Nat) : lanesNat w l < 2 ^ (w * l.length) := by
  induction l with
  | nil => simp [lanesNat]
  | cons x xs ih =>
    have hx : x % 2 ^ w < 2 ^ w := Nat.mod_lt _ (Nat.two_pow_pos w)
    have he : 2 ^ (w * (x :: xs).length) = 2 ^ w * 2 ^ (w * xs.length) := by
      rw [← Nat.pow_add, List.length_cons, Nat.mul_add, Nat.mul_one, Nat.add_comm]
    rw [lanesNat, he]
    calc x % 2 ^ w + 2 ^ w * lanesNat w xs < 2 ^ w + 2 ^ w * lanesNat w xs := Nat.add_lt_add_right hx _
      _ = 2 ^ w * (lanesNat w xs + 1) := by rw [Nat.mul_add, Nat.mul_one, Nat.add_comm]
      _ ≤ 2 ^ w * 2 ^ (w * xs.length) := Nat.mul_le_mul_left _ ih

theorem lanesNat_lane (w : Nat) (l : List Nat) (i : Nat) :
    lanesNat w l / 2 ^ (w * i) % 2 ^ w = l.getD i 0 % 2 ^ w := by
  induction l generalizing i with
  | nil => simp [lanesNat]
  | cons x xs ih =>
    have hx : x % 2 ^ w < 2 ^ w := Nat.mod_lt _ (Nat.two_pow_pos w)
    cases i with
    | zero => simp [lanesNat, Nat.add_mul_mod_self_left]
    | succ i =>
      have he : w * (i + 1) = w + w * i := by rw [Nat.mul_add, Nat.mul_one, Nat.add_comm]
      rw [lanesNat, he, Nat.pow_add, ← Nat.div_div_eq_div_mul, Nat.add_mul_div_left _ _ (Nat.two_pow_pos w),
        Nat.div_eq_of_lt hx, Nat.zero_add, ih]
      simp

/-- A vector token of as many lanes as its tag has holds them. -/
theorem Tok.vectorOf_lane (t : Tag) (l : List Nat) (m : BitVec 5) (i : Nat) (h : t.width * l.length ≤ 1024) :
    (Tok.vectorOf t l m).lane t.width i = l.getD i 0 % 2 ^ t.width := by
  have hl := lanesNat_lt t.width l
  have hp : 2 ^ (t.width * l.length) ≤ 2 ^ 1024 := Nat.pow_le_pow_right (by decide) h
  simp only [Tok.lane, Tok.vectorOf, BitVec.toNat_ofNat]
  rw [Nat.mod_eq_of_lt (Nat.lt_of_lt_of_le hl hp), lanesNat_lane]

theorem Tag.lanes_fit (t : Tag) : t.width * Tag.lanes t ≤ 1024 := by cases t <;> decide

/-- A lane is below the lane width's power. -/
theorem Tok.lane_lt (t : Tok) (w i : Nat) : t.lane w i < 2 ^ w := Nat.mod_lt _ (Nat.two_pow_pos w)

end Sys2Proof.Machine
end

