-- ==== Sys2Proof/Laws/Space.lean ====
section
/-! SUPPORT. Laws/Space.lean: what a direct read or write of a range does where the range translates: the pieces that it
touches, the bytes that it reads, and all that it leaves alone. -/

namespace Sys2Proof.Machine

open Sys2Proof

/-- Where every piece of a range translates, the physical pieces are those of the translations, whoever asks. -/
theorem State.physPieces_ok (s : State) (c d : Nat) (k : AccK) (l : List (Nat × Nat))
    (h : ∀ q ∈ l, ∃ pa home, s.translate c d q.1 k = .ok pa home) :
    ∃ ps, ps.length = l.length ∧ ps.map (·.2.2) = l.map (·.2) ∧ ∀ w st, s.physPieces c d w st k l = .ok ps := by
  induction l with
  | nil => exact ⟨[], rfl, rfl, fun _ _ => rfl⟩
  | cons q l ih =>
    obtain ⟨ps, hn, hm, hp⟩ := ih fun r hr => h r (List.mem_cons_of_mem _ hr)
    obtain ⟨pa, home, ht⟩ := h q List.mem_cons_self
    exact ⟨(pa, home, q.2) :: ps, by simp [hn], by simp [hm], fun w st => by
      simp only [State.physPieces, State.physAddr, ht, hp w st]⟩

/-- A range that is mapped has its physical pieces. -/
theorem State.physPieces_mapped {s : State} {c d va n : Nat} {k : AccK} (h : s.mapped c d k va n = true) :
    ∃ ps, ps.length = (pieces va n).length ∧ ps.map (·.2.2) = (pieces va n).map (·.2) ∧
      ∀ w st, s.physPieces c d w st k (pieces va n) = .ok ps := by
  refine s.physPieces_ok c d k _ fun q hq => ?_
  have := List.all_eq_true.mp h q hq
  revert this
  cases s.translate c d q.1 k <;> simp

theorem State.sense_none {s : State} {d : Nat} (h : (s.die d).armed = []) (array : Nat) (hit : Nat → Bool)
    (home addr tile ctx : Nat) : s.sense d array hit home addr tile ctx = (s, false) := by
  simp [State.sense, h]

theorem State.senseTile_none {s : State} {d : Nat} (h : (s.die d).armed = []) (array tile lo hi ctx : Nat) :
    s.senseTile array d tile lo hi ctx = (s, false) := by
  simp [State.senseTile, h]

theorem State.sensePieces_none {s : State} (h : (s.die 0).armed = []) (d tile ctx : Nat) (ps : List (Nat × Nat × Nat)) :
    s.sensePieces d tile ctx ps = (s, none) := by
  induction ps with
  | nil => rfl
  | cons p ps ih => simp [State.sensePieces, State.sense_none h, ih]

/-- What counting a die's reads leaves as it was: everything but two counters of one die. -/
theorem State.die_modDie_count (s : State) (d e : Nat) (b : Bool) (n : Nat) :
    ∃ y : Die, (s.modDie d fun y => y.countReads b n).die e = { s.die e with mrdloc := y.mrdloc, mrdrem := y.mrdrem } := by
  by_cases h : e % 4 = d % 4
  · have h1 : ∀ t : State, t.die e = t.die d := fun t => by simp only [State.die, h]
    rw [h1, h1, State.die_modDie_same]
    exact ⟨(s.die d).countReads b n, by cases b <;> simp [Die.countReads]⟩
  · rw [State.die_modDie_other s h]
    exact ⟨s.die e, rfl⟩

theorem State.countPieces_dies (s : State) (d : Nat) (ps : List (Nat × Nat × Nat)) :
    ∃ ds, s.countPieces d ps = { s with dies := ds } := by
  induction ps generalizing s with
  | nil => exact ⟨s.dies, rfl⟩
  | cons p ps ih =>
    obtain ⟨ds, h⟩ := ih (s.modDie d fun y => y.countReads (p.2.1 == d % 4) 1)
    exact ⟨ds, h⟩

theorem State.countPieces_keeps (s : State) (d : Nat) (ps : List (Nat × Nat × Nat)) :
    { s.countPieces d ps with dies := s.dies } = s ∧
      ∀ e, ∃ y : Die, (s.countPieces d ps).die e = { s.die e with mrdloc := y.mrdloc, mrdrem := y.mrdrem } := by
  refine ⟨by obtain ⟨ds, h⟩ := s.countPieces_dies d ps; rw [h], ?_⟩
  induction ps generalizing s with
  | nil => exact fun e => ⟨s.die e, rfl⟩
  | cons p ps ih =>
    intro e
    obtain ⟨y, hy⟩ := ih (s.modDie d fun y => y.countReads (p.2.1 == d % 4) 1) e
    obtain ⟨z, hz⟩ := s.die_modDie_count d e (p.2.1 == d % 4) 1
    exact ⟨y, by rw [State.countPieces, List.foldl_cons, ← State.countPieces, hy, hz]⟩

/-- A direct read that goes through gives the bytes at the range, and the stamp of what the homes know; the state differs
from what it was in the counts of reads alone. -/
theorem State.dread_readable {s : State} {x : Strand} {st : Stamp} {va n : Nat} (h : s.readable x st va n = true)
    (count : Bool) (w : Asker) :
    ∃ u, s.dread x.ctx x.die w st .rd count va n = .ok (s.vpeek x.ctx x.die va n, st.join s.depAll, u) ∧
      { u with dies := s.dies } = s ∧
      ∀ e, ∃ y : Die, u.die e = { s.die e with mrdloc := y.mrdloc, mrdrem := y.mrdrem } := by
  simp only [State.readable, Bool.and_eq_true, List.isEmpty_iff] at h
  obtain ⟨⟨⟨hq, hm⟩, ha⟩, -⟩ := h
  obtain ⟨ps, -, -, hp⟩ := State.physPieces_mapped hm
  have hc : { (if count then s.countPieces x.die ps else s) with dies := s.dies } = s ∧
      ∀ e, ∃ y : Die, (if count then s.countPieces x.die ps else s).die e =
        { s.die e with mrdloc := y.mrdloc, mrdrem := y.mrdrem } := by
    cases count with
    | false => exact ⟨rfl, fun e => ⟨s.die e, rfl⟩⟩
    | true => exact s.countPieces_keeps x.die ps
  obtain ⟨hs, hd⟩ := hc
  generalize hu : (if count then s.countPieces x.die ps else s) = u at hs hd
  have ha' : (u.die 0).armed = [] := by
    obtain ⟨y, hy⟩ := hd 0
    rw [hy]
    exact ha
  have hdep : u.depAll = s.depAll := by
    have : ∀ e, (u.die e).dep = (s.die e).dep := fun e => by
      obtain ⟨y, hy⟩ := hd e
      rw [hy]
    simp only [State.depAll, this]
  have hmem : u.mem = s.mem := by rw [← hs]
  refine ⟨u, ?_, hs, hd⟩
  simp [State.dread, State.senseWalks, hq, hp, ha, hu, State.sensePieces_none ha', State.vpeek, hdep, hmem]

end Sys2Proof.Machine
end

