-- ==== Sys2Proof/Tests/Slice0.lean ====
section
/-! SUPPORT. Tests/Slice0.lean: ill-formed terms that are refused, words of the spec's tables that decode, results that the
spec states, and for every obligation a state and operands that meet its hypotheses. -/

namespace Sys2Proof.Tests

set_option Elab.async false

open Sys2Proof Sys2Proof.Machine

/-! ### Well-formedness: a term that each check refuses -/

theorem test_wf_register_target_zero : (Instr.movt .always (.reg 0) .none).wf = false := by decide
theorem test_wf_nullw_targets : (Instr.nullw .always (.left 1) .none).wf = false := by decide
theorem test_wf_lit_value : (Instr.lit .always .f 0x1000_0000000#42 .none).wf = false := by decide
theorem test_wf_lit_tag : (Instr.lit .always .f 0xF00000001#42 .none).wf = false := by decide
theorem test_wf_last_bit : (Instr.last .always 5 .none).wf = false := by decide
theorem test_wf_cvt_tag : (Instr.cvt .always 0 .i32 .none).wf = false := by decide
theorem test_wf_cvtr_mode : (Instr.cvtr .always .rne 0 .f32 .none).wf = false := by decide
theorem test_wf_cvti_tag : (Instr.cvti .always .rz 0 .f32 .none).wf = false := by decide
theorem test_wf_cvtf_tag : (Instr.cvtf .always .rz 0 .i32 .none).wf = false := by decide
theorem test_wf_packb_count : (Instr.packb .always false 0 0 .none).wf = false := by decide
theorem test_wf_retag_tag : (Instr.retag .always .poison .none).wf = false := by decide
theorem test_wf_sati_tag : (Instr.sati .always .ss 0 .f16 .none).wf = false := by decide
theorem test_wf_mclm_count : (Instr.mclm .always 33 .none).wf = false := by decide
theorem test_wf_mrel_count : (Instr.mrel .always 0 .none).wf = false := by decide
theorem test_wf_mrow_bit : (Instr.mrow .always .db true 5 0 .none).wf = false := by decide
theorem test_wf_mrowt_bit : (Instr.mrowt .always .none true 7 0 .none).wf = false := by decide
theorem test_wf_macr_rows : (Instr.macr .always 1 63 .none).wf = false := by decide
theorem test_wf_manc_rows : (Instr.manc .always 15 49 .none).wf = false := by decide
theorem test_wf_mdrn_tag : (Instr.mdrn .always 0 .i16 .none).wf = false := by decide
theorem test_wf_mdrk_tag : (Instr.mdrk .always 0 .raw .none).wf = false := by decide
theorem test_wf_ldg_tag : (Instr.ldg .always false .raw .none).wf = false := by decide
theorem test_wf_stgv_tag : (Instr.stgv .always false .bfx8 .none).wf = false := by decide
theorem test_wf_ldk_tag : (Instr.ldk .always false .raw .none).wf = false := by decide
theorem test_wf_amog_tag : (Instr.amog .always .add .relaxed .tile .i16 .none).wf = false := by decide
theorem test_wf_acq_tag : (Instr.acq .always .tile .f32 .none).wf = false := by decide
theorem test_wf_rel_tag : (Instr.rel .always .tile .i8 .none).wf = false := by decide
theorem test_wf_mona_tag : (Instr.mona .always .idx .none).wf = false := by decide
theorem test_wf_kset_extent : (Instr.kset .always .oper false 1).wf = false := by decide
theorem test_wf_kchain_number : (Instr.kchain .always 7).wf = false := by decide
theorem test_wf_klast_chain : (Instr.klast .always 7 0 .none).wf = false := by decide
theorem test_wf_psnk_bit : (Instr.psnk .always 6 0 .none).wf = false := by decide
theorem test_wf_gtread_field : (Instr.gtread .always 10 0 .none).wf = false := by decide
theorem test_wf_gtstat_item : (Instr.gtstat .always 6 0 .none).wf = false := by decide
theorem test_wf_gtparm_item : (Instr.gtparm .always 4 0 .none).wf = false := by decide
theorem test_wf_wreg_kind : (Instr.wreg .always 10 .none).wf = false := by decide
theorem test_wf_splack_code : (Instr.splack .always 6).wf = false := by decide
theorem test_wf_mapset_place : (Instr.mapset .always 7 .none).wf = false := by decide
theorem test_wf_prmt_save : (Instr.prmt .always true 1 0 .none).wf = false := by decide
theorem test_wf_csrrd_number : (Instr.csrrd .always 0x143 .none).wf = false := by decide
theorem test_wf_csrwr_number : (Instr.csrwr .always 0x1B9 .none).wf = false := by decide
theorem test_wf_elogrd_log : (Instr.elogrd .always false 0 4 .none).wf = false := by decide
theorem test_wf_cycrd_class : (Instr.cycrd .always 13 .none).wf = false := by decide
theorem test_wf_vchk_window : (Instr.vchk .always true 1 .none).wf = false := by decide
theorem test_wf_event : (Instr.packageReset).wf = false := by decide

/-! ### Decoding: words of the spec's tables of worked encodings, and of the programs of its chapters -/

/-- Every word of a list decodes to the instruction beside it. -/
def decodes (l : List (BitVec 32 × Instr)) : Bool := l.all fun e => (decodeSlot [e.1] 0).toOption == some e.2

theorem test_decode_control : decodes [(0x07020401, .reads .always 1 (.left 1)),
    (0x0A020C85, .movt .always (.left 3) (.left 5)),
    (0x01800001, .exit .onFalse 1),
    (0x0D000053, .trapi .always 5 3),
    (0x0E000000, .halts .always),
    (0x04000012, .callb .always 1 2)] = true := by decide +kernel

theorem test_decode_integer : decodes [(0x144A07FF, .addi .onTrue (-1) (.reg 1)),
    (0x1E121185, .cmpu .always .ne (.left 4) (.pred 5)),
    (0x19021286, .shr .always (.left 4) (.reg 6)),
    (0x1F022C8C, .sel .always (.left 11) (.left 12)),
    (0x20122400, .divs .always true (.left 9) .none),
    (0x200A1000, .divs .always false (.reg 4) .none),
    (0x2604080F, .exts .always 15 (.right 2)),
    (0x2704541F, .extz .always 31 (.right 21)),
    (0x2C061800, .last .always 0 (.pred 6))] = true := by decide +kernel

theorem test_decode_float : decodes [(0x30046400, .fadd .always .rne (.right 25) .none),
    (0x33123000, .fma .always .rz (.left 12) .none),
    (0x36161400, .fcmp .always .lt (.pred 5) .none),
    (0x3542AC00, .fmax .onTrue false (.left 43) .none)] = true := by decide +kernel

theorem test_decode_convert : decodes [(0x40087816, .cvt .always 1 .bf16 (.third 30)),
    (0x44083C24, .packb .always false 2 4 (.third 15))] = true := by decide +kernel

theorem test_decode_lane : decodes [(0x53022C00, .rand .always 0 (.left 11)),
    (0x5802243F, .slide .always 63 (.left 9)),
    (0x59022800, .maskl .always (.left 10) .none),
    (0x5C023000, .zip .always (.left 12) .none),
    (0x5E021D09, .segsc .always .add (.left 7) (.right 9)),
    (0x5F046C9D, .rtree .always .add (.right 27) (.left 29)),
    (0x580C0C02, .slide .always 2 (.port 3))] = true := by decide +kernel

theorem test_decode_matrix : decodes [(0x60000000, .mldb .always .none),
    (0x63122500, .mrow .always .db true 0 0 (.left 9)),
    (0x63122400, .mrow .always .db false 0 0 (.left 9)),
    (0x65000000, .macr .always 0 0 .none),
    (0x67020815, .mdrn .always 1 .f32 (.left 2))] = true := by decide +kernel

theorem test_decode_window : decodes [(0x70022000, .wrd .always 0 (.left 8)),
    (0x71021000, .wup .always 0 (.left 4)),
    (0x72027003, .wfl .always 3 (.left 28)),
    (0x73021001, .wsh .always 1 (.left 4)),
    (0x7C400001, .wsave .onTrue 1 .none),
    (0x7E022C01, .wlink .always 1 (.left 11)),
    (0x7F000001, .wspl .always false 1 .none)] = true := by decide +kernel

theorem test_decode_memory : decodes [(0x88023034, .acq .always .package .i64 (.left 12)),
    (0x81121C05, .stg .always true .f32 (.left 7)),
    (0x862A15B4, .amog .always .cas .both .package .i64 (.reg 5)),
    (0x86000134, .amog .always .add .release .package .i64 .none),
    (0x80149002, .ldg .always true .i16 (.right 36)),
    (0x81000004, .stg .always false .i64 .none)] = true := by decide +kernel

theorem test_decode_fabric : decodes [(0x90000202, .kset .always .plus true 2),
    (0x90300000, .kset .always .oper false 0),
    (0x92020883, .kidx .always 0 (.left 2) (.left 3)),
    (0x95000001, .sgrun .always 0 1 .none),
    (0x94221003, .sgen .always 2 3 (.left 4)),
    (0x96022001, .psrc .always 1 (.left 8))] = true := by decide +kernel

theorem test_decode_engine : decodes [(0xA7082800, .clapp .always 0 (.third 10)),
    (0xA8000000, .cltail .always 0 .none),
    (0xAA0A1800, .clwait .always 0 (.reg 6)),
    (0xA30A1803, .cqwait .always 3 (.reg 6))] = true := by decide +kernel

theorem test_decode_geode : decodes [(0xB2021420, .gtdesc .always 2 0 (.left 5)),
    (0xB40A1830, .gtback .always 3 0 (.reg 6)),
    (0xB6021010, .gtread .always 1 0 (.left 4)),
    (0xB8022400, .gtreroot .always 0 (.left 9)),
    (0xBB000000, .gtparm .always 0 0 .none),
    (0xB7020800, .gtbest .always 0 (.left 2))] = true := by decide +kernel

theorem test_decode_task : decodes [(0xC00A1400, .tspawn .always false (.reg 5)),
    (0xC1121000, .trange .always true (.left 4)),
    (0xC2000001, .tpop .always 1),
    (0xC3000000, .tidle .always),
    (0xC4100000, .tdone .always true .none),
    (0xC5221800, .tdep .always .w (.left 6)),
    (0xC8020803, .gbar .always 3 (.left 2)),
    (0xC9021C00, .lkacq .always false (.left 7)),
    (0xCC120C84, .qpop .always true (.left 3) (.left 4)),
    (0xCD0A2403, .wreg .always 3 (.reg 9)),
    (0xCF020400, .prio .always (.left 1))] = true := by decide +kernel

theorem test_decode_splice : decodes [(0xD2020C01, .splbnd .always 1 (.left 3)),
    (0xD3000021, .splack .always 0x21),
    (0xD4000005, .stglnk .always 5 .none),
    (0xD71A1C00, .splq .always true (.reg 7))] = true := by decide +kernel

theorem test_decode_system : decodes [(0xE0121000, .ctxsv .always .free (.left 4)),
    (0xE4020831, .prmt .always false 3 1 (.left 2)),
    (0xE3021803, .mapset .always 3 (.left 6)),
    (0xE2100000, .tlbinv .always .ctx .none),
    (0xE80A2587, .csrrd .always 0x187 (.reg 9)),
    (0xE7100001, .trapret .always true true),
    (0xE7000001, .trapret .always false true),
    (0xEA121003, .injerr .always true 3 (.left 4)),
    (0xEB0A2400, .selft .always (.reg 9)),
    (0xEC021800, .scan .always (.left 6)),
    (0xED02143B, .elogrd .always false 7 3 (.left 5)),
    (0xEE020800, .attest .always (.left 2))] = true := by decide +kernel

theorem test_decode_debug : decodes [(0xF0100002, .brkr .always .rsid 2 .none),
    (0xF1000005, .trcmk .always 5 .none),
    (0xF2020C00, .cycrd .always 0 (.left 3)),
    (0xF30A2404, .vchk .always false 4 (.reg 9)),
    (0xF3120800, .vchk .always true 0 (.left 2))] = true := by decide +kernel

/-- The worked LOOPN of the matrix chapter, word by word. -/
theorem test_decode_loopn : (decodeWords [0x98025201#32, 0x0000001F#32, 0x00000000#32, 0x20400000#32, 0x00000000#32, 0x00000040#32,
    0x00080000#32, 0x00000000#32]).toOption = some (.loopn
      { op := .add, tag := .f32, nlev := 1, ext := #v[31, 0, 0, 0, 0], win := #v[0, 1, 2],
        str := #v[1, 0, 0, 0, 0, 1, 0, 0, 0, 0, 1, 0, 0, 0, 0] }, []) := by decide +kernel

theorem test_decode_lit : (decodeWords [0x09322007#32, 0x00000000#32]).toOption = some (.lit .always .f 0x700000000 (.left 8), []) := by
  decide +kernel

/-! ### States that stand ready -/

/-- A page table that maps the first 1 GiB of a context's addresses onto themselves, readable, writable and executable (R302,
R303). -/
def table : Memory :=
  { cells := [(0x100000, 0x81), (0x100001, 0x11), (0x100002, 0x10), (0x101000, 0x0F), (0x101001, 0x01)] }

/-- A privileged context with that table, with an instruction's word at a node that fires next. -/
def base (w : Nat) : State :=
  { (State.reset.withFetchWord 32 w).modCtx 0 fun c => { c with ptroot := 0x100000, rgnq := 0x3FF } with mem := table }

/-- The node's slot for a word. -/
def slotOf (w : Nat) : Nat := placedSlot (w / 2 ^ 24)

/-- That state with operands in the firing latch. -/
def st (w : Nat) (l r p t : Option Tok) : State :=
  { base w with fire := { Firing.zero with slot := slotOf w, left := l, right := r, pred := p, third := t } }

/-- An operand of tag I64. -/
def w64 (v : Nat) : Option Tok := some (Tok.i64 v 0)

/-- A scalar operand. -/
def sc (t : Tag) (v : Nat) : Option Tok := some (Tok.scalarOf t v 0)

/-- A vector operand whose lane i holds i + 1. -/
def vec (t : Tag) : Option Tok := some (Tok.vectorOf t ((List.range (Tag.lanes t)).map (· + 1)) 0)

/-- What holds of the strand, block and node of the firing under way. -/
def hereIs (s : State) (f : Strand → Run → Node → Bool) : Bool :=
  match s.here? with
  | some (x, r, n) => f x r n
  | none => false

/-- What holds of the strand 0 x. -/
def strandIs (s : State) (f : Strand → Bool) : Bool := (s.strand? 0).any f

/-- The token that the node of a slot offers first after an instruction of strand 0. -/
def first (slot : Nat) (o : Host.Outcome State Fault Refusal) : Option Tok :=
  match o with
  | .next s => ((s.run? 0).bind fun r => r.node? 0 slot).bind fun n => n.out.head?.bind fun q =>
      match q.item with
      | .tok t => some t
      | .skip => none
  | _ => none

/-! ### Results that the spec states -/

/-- R130: 7 divided by -2 is -3 with remainder 1, and DIVS.REM gives it. -/
theorem test_divs_rem : (first 0 (exec (.divs .always true (.left 9) .none)
    (st 0x20122400 (sc .i32 7) (sc .i32 0xFFFFFFFE) none none))).map (·.lane 32 0) = some 1 := by decide +kernel

/-- R130: MULH.U of 0xFFFF_FFFF with itself. -/
theorem test_mulh : (first 0 (exec (.mulh .always .uu (.left 9) .none)
    (st 0x20122400 (sc .i32 0xFFFFFFFF) (sc .i32 0xFFFFFFFF) none none))).map (·.lane 32 0) = some 0xFFFFFFFE := by
  decide +kernel

/-- R130: SRA of -8 by 40. -/
theorem test_sra : (first 0 (exec (.sra .always (.left 9) .none)
    (st 0x20122400 (sc .i32 0xFFFFFFF8) (sc .i32 40) none none))).map (·.lane 32 0) = some 0xFFFFFFFF := by decide +kernel

/-- R42: the literal of the worked case, read as a signed number of 42 bits. -/
theorem test_lit : (first 0 (exec (.lit .always .s 0x3FED5FA0E00 (.right 3)) (st 0x0A020C85 none none none none))).map
    (·.lane 64 0) = some (2 ^ 64 - 5000000000) := by decide +kernel

/-- The table of R164: FSQRT of 2.0 in F32. -/
theorem test_fsqrt : (first 8 (exec (.fsqrt .always .rne (.left 9) .none)
    (st 0x30046400 (sc .f32 0x40000000) none none none))).map (·.lane 32 0) = some 0x3FB504F3 := by decide +kernel

/-- The same table: FRCP of that value's square, FRSQ of 2.0. -/
theorem test_frsq : (first 8 (exec (.frsq .always .rne (.left 9) .none)
    (st 0x30046400 (sc .f32 0x40000000) none none none))).map (·.lane 32 0) = some 0x3F3504F3 := by decide +kernel

/-- The same table: FSCALE.RZ of 1.5 by -149. -/
theorem test_fscale : (first 8 (exec (.fscale .always .rz (.left 9) .none)
    (st 0x30046400 (sc .f32 0x3FC00000) (sc .i32 (2 ^ 32 - 149)) none none))).map (·.lane 32 0) = some 1 := by decide +kernel

/-- R98's table: F32 0x3F81_8000 to BF16 rounds to even. -/
theorem test_cvt : (first 15 (exec (.cvt .always 0 .bf16 (.third 30))
    (st 0x40087806 (sc .f32 0x3F818000) none none none))).map (·.lane 16 0) = some 0x3F82 := by decide +kernel

/-- R123: MOVT copies its token, and its step is that of the machine: the left operand of the placed word is I64 0. -/
theorem test_step_movt : first 0 (step (State.reset.withFetchWord 32 0x0A020C85)) = w64 0 := by decide +kernel

/-- R116: TRAPI's cause and origin stand in s28 and s29 at the handler, and the strand is in handler mode. -/
theorem test_trap_entry : let x := ({ Strand.init with phase := .edge } : Strand).enterTrap 0x4000 0x20 0x1240C 0x1000 7 0x1000 false
    x.readReg 28 = (0x20, .i64) ∧ x.readReg 29 = (0x1240C, .i64) ∧ x.bc = 0x4000 ∧ x.hmode = true ∧ x.tres = 0x1000 := by
  decide +kernel

/-- R117: a trap in handler mode stops the strand. -/
theorem test_double_trap : let x := ({ Strand.init with tstat := 1 } : Strand).enterTrap 0x4000 0x20 0 0x1000 7 0x1000 false
    x.phase = .stopped ∧ x.tstat = 5 := by decide +kernel

/-! ### Witnesses: states and operands that meet the hypotheses of the obligations -/

theorem witness_StepRunsDecodedInstruction : let s := State.reset.withFetchWord 32 0x0A020C85
    s.agenda = [.fire 0 0 0] ∧ (s.strand? 0).any (fun x => x.phase == .run && x.save.free && !x.halted && x.starts &&
      x.run.any fun r => (decodeSlot r.blk.words 0).toOption == some (.movt .always (.left 3) (.left 5)) &&
        (r.node? 0 0).any fun n => match r.ready 0 x.region n with
          | .fire _ twice => !twice
          | _ => false) = true := by decide +kernel

theorem witness_StepRunsDecodedInstruction_event : Event.isRow (.waitforSweep) .waitforSweep := rfl

/-- The words of one slot, of LIT's two and of LOOPN's eight. -/
theorem witness_DecodeReadsEncode : (Instr.add .always (.left 127) (.reg 31)).wf = true ∧
    (Instr.lit .onFalse .f 0x5FFFFFFFF .none).wf = true ∧
    (encode (.lit .onFalse .f 0x5FFFFFFFF .none)).length = 2 ∧
    (decodeWords [0x20122400#32, 0#32]).toOption = some (.divs .always true (.left 9) .none, [0#32]) := by decide +kernel

theorem witness_StepKeepsMemoryForm : (base 0x0A020C85).inv = true ∧
    (match step (base 0x0A020C85) with | .next _ => true | _ => false) = true := by decide +kernel

/-- A control block's node with two I32 operands at both ends of their range. -/
def ints : State := st 0x20122400 (sc .i32 0x80000000) (sc .i32 0xFFFFFFFF) none (sc .pred 1)

theorem witness_NopAndMovt : ints.ready .always = true ∧ ints.fire.left.isSome = true ∧
    ((State.reset.withFetchWord 32 0).run? 0).any (fun r => (decodeSlot r.blk.words 0).toOption == some .nop) = true := by
  decide +kernel

/-- WRITES of s31 and of s1, and a token and POISON that a node holds for a register. -/
theorem witness_RegisterReadsAndWrites : let s := st 0x08000000 (w64 31) (sc .f32 0x3F800000) none none
    s.ready .always = true ∧ hereIs s (fun _ r _ => r.blk.wrmask.getLsbD 31 && r.blk.wrmask.getLsbD 1) = true ∧
    (w64 31).any Tok.isIntScalar = true ∧ (Tok.i64 31 0).lane Tag.i64.width 0 = 31 ∧
    ∀ v ∈ [Tok.i64 7 0, Tok.poisonOf 0x11 9 0], let o : Out := { iter := 0, tgt := .reg 31, b := false, item := .tok v, reg := false }
      let t := s.modRun 0 fun r => r.modNode 0 0 fun n => { n with out := [o] }
      strandIs t (fun x => x.working && x.run.any fun r => (r.node? 0 0).any fun n => n.offers == [o]) = true := by
  decide +kernel

theorem witness_ExitsRecordTheirAct : ints.lastExit .always false = true ∧
    (∀ l ∈ [Tok.i64 0x1000 0, Tok.scalarOf .idx 0 0, Tok.pred true 0, Tok.scalarOf .i8 255 0],
      (st 0x01000000 (some l) none none none).lastExit .always true = true) := by decide +kernel

theorem witness_IntegerArithmetic : ints.ready .always = true ∧ ints.fire.left.any Tok.isIntScalar = true ∧
    ints.fire.right.any Tok.isIntScalar = true ∧
    (st 0x10021485 (sc .i64 5) (sc .idx 7) none none).ready .always = true ∧ intTag .i64 = intTag .idx ∧
    (Tok.scalarOf .idx 7 0).isIntScalar = true := by decide +kernel

/-- A divisor of 0, of 1, and the least number divided by -1. -/
theorem witness_IntegerDivision : (∀ y ∈ [0, 1, 0xFFFFFFFF], let s := st 0x20122400 (sc .i32 0x80000000) (sc .i32 y) none none
      s.ready .always = true ∧ s.fire.right.any (·.isIntScalar) = true) ∧
    signed 32 0x80000000 = -(2 ^ (32 - 1) : Nat) ∧ signed 32 0xFFFFFFFF = -1 ∧
    (Tok.scalarOf .i32 0x80000000 0).lane 32 0 = ((-0x80000000 : Int) % (2 ^ 32 : Nat)).toNat ∧
    (Tok.scalarOf .i16 1 0).lane 16 0 = 1 := by decide +kernel

theorem witness_LogicAndComparison : ints.ready .always = true ∧ ints.fire.left.any Tok.isIntScalar = true ∧
    ints.fire.third = some (Tok.pred true 0) ∧ (Tok.pred true 0).lane 1 0 = 1 ∧
    (st 0x10021485 (vec .raw) (vec .raw) none (sc .i8 0)).ready .always = true ∧ (vec .raw).map (·.tag) = some .raw := by
  decide +kernel

/-- Shift counts at and beyond the width. -/
theorem witness_ShiftsAndUnaryIntegers : (∀ u ∈ [0, 31, 32, 2 ^ 32 - 1],
      let s := st 0x19021286 (sc .i32 0x80000001) (sc .i32 u) none none
      s.ready .always = true ∧ s.fire.left.any Tok.isIntScalar = true ∧ s.fire.right.any Tok.isIntScalar = true) ∧
    (st 0x2B000000 (sc .idx (2 ^ 64 - 1)) (sc .i8 255) none none).ready .always = true ∧
    (Tok.scalarOf .idx (2 ^ 64 - 1) 0).isIntScalar = true := by decide +kernel

/-- A vector node with float operands. -/
def floats (p : Option Tok) : State := st 0x30046400 (vec .f32) (vec .f32) p (vec .f32)

theorem witness_FloatArithmetic : (floats none).ready .always = true ∧ ((floats none).fire.left).any (isF3 ·.tag) = true ∧
    (st 0x30046400 (sc .bf16 0x3F80) (vec .bf16) none (vec .bf16)).ready .always = true ∧ isF3 .bf16 = true ∧ isF3 .f16 = true := by
  decide +kernel

/-- A lane mask with lanes of both senses. -/
theorem witness_FloatUnary : (floats none).ready .always = true ∧
    (let s := floats (some (Tok.vectorOf .pred ((List.range 128).map (· % 2)) 0))
     s.here?.isSome = true ∧ s.fire.poison? = none ∧ s.fire.pred.any (fun m => m.tag == .pred && !m.scalar &&
      m.lane 1 0 == 0 && m.lane 1 1 == 1) = true) ∧
    (st 0x30046400 (vec .f16) (sc .i32 (2 ^ 31)) none none).ready .always = true := by decide +kernel

/-- Tags of as many lanes, of fewer and of more, each with its last part, with a third operand of the destination's tag and of
another. -/
theorem witness_Conversions : (∀ e ∈ [(Tag.f32, Tag.i32, 0), (.i32, .f32, 0), (.f16, .bf16, 0), (.i8, .i8, 0), (.f8e4, .f8e5, 0),
      (.f32, .bf16, 1), (.bf16, .f32, 1), (.i32, .i8, 3), (.i16, .i32, 1), (.f16, .i64, 3)],
    ∀ u ∈ [none, vec e.2.1, vec .raw], let s := st 0x40087806 (vec e.1) none none u
    s.ready .always = true ∧ (s.fire.third.all fun t => t.tag == e.2.1 || t.tag == .raw) = true ∧
      e.2.2 < max (Tag.lanes e.1) (Tag.lanes e.2.1) / min (Tag.lanes e.1) (Tag.lanes e.2.1)) ∧
    max (Tag.lanes .i8) (Tag.lanes .f8e5) / min (Tag.lanes .i8) (Tag.lanes .f8e5) ≤ (3#2).toNat ∧
    (st 0x40087806 (sc .f32 0x3F800000) none none none).ready .always = true := by decide +kernel

theorem witness_BlocksAndTags : (∀ u ∈ [none, vec .bfx8, vec .f32],
      (st 0x44083C24 (vec .f32) none none u).ready .always = true) ∧ (vec .bfx8).any (·.tag == .bfx8) = true ∧
    (∀ g ∈ [Tag.i8, .f8e4, .mark, .bf16], (st 0x46083C01 (vec g) none none none).ready .always = true) ∧
    Tag.i8.width = Tag.f8e4.width ∧ Tag.bf16.width ≠ Tag.i8.width ∧
    (st 0x45083C00 (vec .bfx6) none none none).ready .always = true ∧ rawPair .i8 = true ∧
    (st 0x46083C01 (vec .raw) none none none).ready .always = true := by decide +kernel

theorem witness_LaneReductionsAndMovers : (st 0x5802243F (vec .bf16) none none none).ready .always = true ∧
    laneMove .bf16 = true ∧ laneArith .i32 = true ∧ laneFloat .i32 = false ∧ Tag.lanes .bf16 = 64 ∧
    (st 0x5802243F (vec .i8) (sc .i8 127) none none).ready .always = true ∧
    (st 0x5802243F (vec .pred) (vec .pred) none none).ready .always = true := by decide +kernel

theorem witness_ScansAndTrees : laneArith .f32 = true ∧ (st 0x5E021D09 (vec .f32) none none none).ready .always = true ∧
    isCarry .right 8 (.left 7) = false ∧ isCarry .third 8 (.right 9) = false ∧
    (st 0x5E021D09 (vec .f32) (sc .f32 0) none none).ready .always = true ∧
    (∀ c ∈ [none, sc .f32 0x3F800000], let s := st 0x5E021D09 (vec .f32) (vec .pred) none c
      s.ready .always = true ∧ (s.fire.third.all fun t => t.scalar && t.tag == .f32) = true) ∧
    isCarry .third 8 (.third 8) = true ∧ isCarry .right 8 (.right 8) = true ∧
    (base 0x5E021D09).run? 0 ≠ none ∧ ((base 0x5E021D09).run? 0).all (fun r => (r.blk.instr? 8).bind carryPos == some .third &&
      r.links.all fun l => l.slot != 8 || l.pos != .third) = true ∧
    (st 0x5F042101 (vec .f32) (vec .f32) none none).ready .always = true ∧
    (st 0x5F042101 (vec .f32) (vec .f32) none none).fire.slot = 6 ∧ (6#7).toNat = 6 := by decide +kernel

/-- A C-tile whose operand window has its 32 slots free or standing. -/
def matrix (w : Nat) (l r t : Option Tok) (o : OpWin) : State :=
  (st w l r none t).setOpwin 0 1 o

/-- A row of tag F32 in every operand slot. -/
def operand (g : Tag) : OpWin :=
  { OpWin.reset with tail := 32, rows := (List.range 2048).map fun i =>
      (i, { data := BitVec.ofNat 1024 i, side := 0, tag := g, valid := 0xFFFFFFFF, bad := false }) }

theorem witness_OperandWindow : (let s := matrix 0x60000000 (vec .f32) none none OpWin.reset
      s.ready .always = true ∧ s.idle = true ∧ (s.site?.map (·.2)) = some (0, 1) ∧
      ((s.die 0).opwin 1).free = 32 ∧ ((s.die 0).opwin 1).claim + (32#6).toNat ≤ ((s.die 0).opwin 1).free ∧
      ((s.die 0).opwin 1).frow = 0) ∧
    (matrix 0x62000001 (w64 0) none none (operand .f32)).idle = true ∧ (operand .f32).extent = 32 := by decide +kernel

theorem witness_MatrixRows : ∀ e ∈ [(vec .bf16, none, Tag.bf16, 0), (vec .f32, vec .f32, .f32, 63), (vec .f8e4, none, .f8e4, 62)],
    let s := matrix 0x63122400 e.1 e.2.1 (sc .i8 e.2.2.2) (operand e.2.2.1)
    s.ready .always = true ∧ s.idle = true ∧ (s.site?.map (·.2)) = some (0, 1) ∧ (s.die 0).armed = [] ∧
    (e.1.bind fun l => matSlots l.tag).any (· ≤ 32) = true ∧ (wordOperand s.fire.third).toOption = some e.2.2.2 ∧
    e.1.any (fun l => matPair l.tag (((s.die 0).opwin 1).row 0 0).tag) = true ∧
    (((s.die 0).opwin 1).row 0 63).bad = false ∧ ((s.die 0).acc 1 (64 * e.2.2.2)).tag = 15 := by decide +kernel

theorem witness_Accumulators : ∀ v ∈ [0, 63], let s := matrix 0x67020815 (w64 v) none none OpWin.reset
    s.ready .always = true ∧ s.idle = true ∧ s.site?.isSome = true ∧ strandIs s (fun x => !x.dbgctl.getLsbD 3) = true ∧
    (s.die 0).armed = [] ∧ 64 * v + Tag.lanes .f32 * (1#2).toNat + Tag.lanes .f32 ≤ 4096 ∧
    signed 64 v ≥ -512 ∧ signed 64 v ≤ 511 := by decide +kernel

/-- Window w of strand 0 holds v. -/
def withWin (s : State) (w : Nat) (v : Win) : State := s.modStrand 0 fun x => { x with wins := put w v x.wins }

/-- A window of strand 0 in the SRAM of tile 0, of n elements of which f stand filled with rows of its tag. -/
def win (index : Nat) (g : Tag) (esz n f : Nat) : Win :=
  (List.range (f * max 1 (2 ^ esz / 2))).foldl (fun v i => v.putRow (v.rowOf (Tok.scalarOf g i 0)))
    (Win.opened 0 0 index (n - 1) esz g (1024 * index) false)

/-- The worked LOOPN of the matrix chapter with an extent of n. -/
def nest (n : Nat) : LoopN :=
  { op := .add, tag := .f32, nlev := 1, ext := #v[BitVec.ofNat 16 (n - 1), 0, 0, 0, 0], win := #v[0, 1, 2],
    str := #v[1, 0, 0, 0, 0, 1, 0, 0, 0, 0, 1, 0, 0, 0, 0] }

theorem witness_LoopNest : ∀ n ∈ [1, 32],
    let s := (List.range 3).foldl (fun t i => withWin t i (win i .f32 1 1 1)) { State.reset.withFetchWord 256 0x98025201 with
      fire := Firing.zero }
    s.ready .always = true ∧ s.idle = true ∧ LoopN.count (nest n) = n ∧
    hereIs s (fun y r _ => LoopN.tagsOk (nest n) y (r.blk.tileOf y.region 0 0) &&
      (List.range n).all fun i => (List.range 3).all fun k =>
        match LoopN.place (nest n) y (r.blk.tileOf y.region 0 0) k i with
        | some (e, w, some q) => decide (q.elem < w.extent) && (w.row q.elem 0).tag != .mark && look e y.wins == some w &&
            decide (w.drainer.toNat = strandId 0) && !w.eosBelow q.elem && decide (w.rowBytes = 128)
        | _ => false) = true ∧ s.fire = Firing.zero ∧
    ∀ o ∈ [LoopOp.copy, .add, .mul, .mac, .max, .min], (match LoopN.iter { nest n with op := o } s 0 0 with
      | .ok _ => true
      | _ => false) = true := by decide +kernel

/-- Whether a node with the first instruction of a word stands ready and idle. -/
def free (s : State) : Bool := s.ready .always && s.idle

/-- Strand 0 with a window of the same kind at entry 1,023 and at port 127, full. -/
def reader (r : Option Tok) (l : Option Tok) : State :=
  withWin (withWin (st 0x70022000 l r none none) 1023 (win 0 .f32 1 4 4)) 127 (win 1 .f32 1 4 4)

theorem witness_WindowReads : let s := reader (w64 (3 + 29 * 2 ^ 8 + 3 * 2 ^ 16)) (w64 1)
    free s = true ∧ (s.die 0).armed = [] ∧ strandIs s (fun x => (look 1023 x.wins).any fun v =>
      (x.die == 0) && decide (1 / v.rpe < v.extent) && decide (v.extent ≤ v.cap) && !v.eosBelow 3 && !x.stopsAt 1023 v 3 &&
      v.shaped && decide (1 + 3 ≤ v.extent) && ((List.range 4).all fun i => !(v.row i 0).bad) && !v.vmode &&
      decide (v.drainer.toNat = strandId 0)) = true ∧
    shapeOf (3 + 29 * 2 ^ 8 + 3 * 2 ^ 16) 32 = some (3, 29, 3) := by decide +kernel

/-- An operand of WOPEN: window 63 of tile 17, two rows an element, one element, at the end of the SRAM. -/
def openAt : Nat := 2 ^ 28 + 2 ^ 24 + 5 * 2 ^ 19 + 1 * 2 ^ 16 + 63 * 2 ^ 32 + 32766 * 2 ^ 38

theorem witness_WindowUpdates : (∀ n ∈ [0, 3, 4], let s := reader (sc .f32 7) (w64 n)
      free s = true ∧ strandIs s (fun x => (look 1023 x.wins).any fun v =>
        decide (v.drainer.toNat = strandId 0) && !v.filling && decide (n ≤ v.extent) && !x.stopsAt 1023 v 3 &&
        (v.row 3 0).tag != .mark) = true) ∧
    (let s := reader none (w64 openAt)
     free s = true ∧ openAt < 2 ^ 53 ∧ Tag.ofCode (bits openAt 22 19) = .f32 ∧ strandIs s (fun x =>
      (look 5 x.wins).isNone && (look 5 x.chans).isNone && decide (bits openAt 31 28 < x.region.rows) &&
      decide (bits openAt 27 24 < x.region.cols) && !x.sramMeets 17 (32766 * 64) (2 ^ 21) &&
      x.wins.all fun e => e.2.tile != 17) = true ∧ 32766 * 64 + 64 * 2 ^ 1 * (0 + 1) = 2 ^ 21) := by decide +kernel

theorem witness_WindowFills : ∀ l ∈ [sc .f32 1, some (Tok.i64 0x10 1), sc .raw 0x03],
    let s : State := { withWin (st 0x72000001 l (w64 (1 + 31 * 2 ^ 8 + 2 ^ 16)) none none) 1 (win 0 .f32 1 4 3) with boot := 4 }
    free s = true ∧ s.openTo 0 = true ∧ s.myTurn true (some .package) = true ∧ strandIs s (fun x => (look 1 x.wins).any fun v =>
      x.run.any (fun r => r.fillTurn x.region s.fire 1) && (look 1 x.chans).isNone && !v.eos && decide (1 ≤ v.free) &&
      decide (v.filler.toNat = strandId 0) && v.shaped) = true ∧ shapeOf (1 + 31 * 2 ^ 8 + 2 ^ 16) 32 = some (1, 31, 1) := by
  decide +kernel

theorem witness_WindowFills_markers : (Tok.i64 0 1).marker 0 = true ∧ (Tok.i64 0 1).marker 1 = false ∧
    (spliceAddr 64 (w64 0x4000)).toOption = some 0x4000 := by decide +kernel

/-- Memory that holds the image of a window with one element, and an empty window of that shape. -/
def imaged : State :=
  let s := withWin (st 0x7D000001 (w64 0x200000) none none none) 1 (win 0 .f32 1 4 0)
  { s with mem := s.mem.writeN 0x200000 (win 0 .f32 1 4 1).image }

theorem witness_WindowImages : imaged.ready .always = true ∧ imaged.myTurn false none = true ∧ imaged.myTurn true none = true ∧
    (imaged.die 0).armed = [] ∧ imaged.mapped 0 0 .rd 0x200000 176 = true ∧
    strandIs imaged (fun x => imaged.quiet x.stamp && (look 1 x.wins).any fun v =>
      v.takes (imaged.vpeek 0 0 0x200000 32) && decide (v.image.length = 32) &&
      imaged.reachable x x.lead (x.stamp.join (v.seen (v.slots v.head v.extent))) 0x200000 32) = true := by decide +kernel

/-- A second strand, on tile 2. -/
def second : Strand :=
  { Strand.init with lead := 2, phase := .run, region := { placedRegion with c := 2, strand := some 2 },
                     run := some (placedRun [0x0A020C85#32]) }

theorem witness_ChannelsAndSpillRings : (
      let s := withWin (st 0x7E000001 (w64 (2 * 4 + 127 * 2 ^ 10)) none none none) 1 (win 0 .f32 1 4 0)
      let u := { s with strands := put 2 second s.strands }
      free u = true ∧ 2 * 4 + 127 * 2 ^ 10 < 2 ^ 17 ∧ strandKey (bits (2 * 4 + 127 * 2 ^ 10) 1 0)
        (bits (2 * 4 + 127 * 2 ^ 10) 9 2) = 2 ∧ second.lives = true ∧ (look 127 second.wins).isNone = true ∧
      (u.win? 0 1).any (fun v => v.state == .opened) = true) ∧
    (∀ spill ∈ [true, false],
      let s := withWin (st 0x7F000001 (w64 0x4000) (w64 15) none none) 1
        { win 0 .f32 1 4 0 with state := .linked, spill := spill }
      free s = true ∧ (s.win? 0 1).any (fun v => v.state == .linked && !v.closing && v.spill == spill && v.ring == 0 &&
        v.rrow == 0) = true) ∧
    ({ win 0 .f32 1 4 0 with rtail := 1 } : Win).ring ≠ 0 := by decide +kernel

/-- A tile's cache that holds the first 1 GiB. -/
def cached (s : State) : State := s.modDie 0 fun y =>
  { y with
    tlb := [0, 1].map fun tile =>
      { tile := tile, ctx := 0, page := 0, size := 2, pa := 0, place := 0, rd := true, wr := true, fx := true } }

/-- A memory node's access to the last aligned address below a line's end, with and without a translation held. -/
theorem witness_MemoryAccesses : ∀ s ∈ [st 0x86000134 (w64 0x4038) (w64 1) none (w64 2),
      cached (st 0x86000134 (w64 0x4038) (w64 1) none (w64 2)), st 0x82000005 (some (Tok.scalarOf .idx 0x4080 0)) (vec .f32) none none],
    s.ready .always = true ∧ s.myTurn false none = true ∧ s.myTurn true (some .package) = true ∧
    s.fire.right.any (fun r => dataFits r .i64 || dataFits r .f32) = true ∧ strandIs s (fun x =>
      s.canIssue x { va := 0x4038, w := 8, op := .load, tag := .i64, vec := false, acq := false } &&
      s.canIssue x { va := 0x4080, w := 128, op := .store (leBytes 128 7), tag := .i64, vec := true, acq := false }) = true := by
  decide +kernel

theorem witness_MemoryAccesses_constants : let s := (st 0x84000004 (w64 128) none none none).modDie 0 fun y =>
      { y with
        ksegs := [(0, { s0 := { bytes := List.replicate 256 1, len := 256 }, s1 := { bytes := [], len := 0 }, cur := 0,
                        wanted := false })] }
    s.ready .always = true ∧ hereIs s (fun x r _ => decide (128 + 128 ≤ (s.constStore x r).len)) = true := by decide +kernel

theorem witness_OrderAndPlacement : (let s := st 0x8A000000 (w64 0x4000) (w64 1) none none
      s.ready .always = true ∧ s.myTurn false none = true ∧ s.logs 0 = false ∧ s.monitor? 0 = none ∧
      (s.ctx? 0).any (fun c => (s.walk c.root 0x4000).any fun l => l.place != 7) = true ∧
      (s.ctx? 0).any (fun c => (s.walk c.root (2 ^ 30)).isNone) = true ∧
      hereIs s (fun _ r _ => r.fenceDone s.fire .full .domain && !r.arming) = true) ∧
    (∀ set ∈ [true, false], ((st 0x8E000000 (w64 0) none none none).modDie 3 fun y =>
      { y with monitors := [(0, 0x100, set)] }).monitor? 0 = some (0x100, set)) ∧
    (let s := (st 0x87000000 none none none none).modRun 0 fun r => { r with blk := { r.blk with words := [0x81000004#32] } }
     let u := { s with fire := { s.fire with iter := 1 } }
     let v := u.modRun 0 fun r => r.modNode 0 0 fun n =>
       { n with fired := 1, pend := [{ fire := Firing.zero, why := .memory, acc := none, prog := [1], reg := false }] }
     v.ready .always = true ∧ v.myTurn false none = true ∧ hereIs v (fun _ r _ => !r.fenceDone v.fire .full .domain) = true) := by
  decide +kernel

theorem witness_FabricControl : (let s := st 0x90300000 (w64 (2 ^ 32 - 1)) none none none
      s.ready .always = true ∧ s.fire.copy = 0 ∧ hereIs s (fun _ r _ =>
        (ksetLevels r.blk.instrs)[(r.chains.map fun c => c.ext.length).sum]? == some (s.fire.slot, 0, 0)) = true) ∧
    (let s := (st 0x92300000 none none none none).modRun 0 fun r => { r with chains := [{ ext := [2, 3], str := [1, -1] }] }
     s.ready .always = true ∧ hereIs s (fun _ r _ => (r.chains[r.blk.chainSel s.fire.slot]?).isSome) = true) ∧
    (let s := st 0x99000000 (vec .f32) (w64 127) none none
     s.ready .always = true ∧ hereIs s (fun _ r _ => r.busOpen s.fire 127 && r.links.all fun l => decide (l.items.length < 4))
       = true) := by decide +kernel

theorem witness_StreamsStart : ∀ w ∈ [0x94000001, 0x95000001], let s := withWin (st w (w64 0x4040) none none none) 1 (win 0 .f32 1 4 0)
    s.ready .always = true ∧ 0x4040 % 64 = 0 ∧ hereIs s (fun x r _ => r.streamTurn x.region s.fire && (look 1 x.wins).any fun v =>
      decide (v.filler.toNat = strandId 0) && (look (v.tile * 4 + 3) (s.die x.die).streams).isNone) = true := by decide +kernel

/-- The first copy chain of strand 0. -/
def withCopy (s : State) (c : CopyChain) : State := s.modStrand 0 fun x => { x with copies := put 127 c x.copies }

/-- A copy chain as it stands before anything is appended. -/
def chain0 : CopyChain := Strand.init.copy 127

/-- Before the first append and after one; an empty, a filled and a full event queue; a counter reached and not. -/
theorem witness_CopyChainMembers : ∀ append ∈ [0, 0x4000], ∀ events ∈ [[], [(7 : Word)], List.replicate 64 7], ∀ outst ∈ [0, 1],
    let s := (withCopy (st 0xA0000000 (w64 0x4040) none none none) { chain0 with append := append, outst := outst, cseq := 2 ^ 31 }).modStrand
      0 fun x => { x with events := events }
    free s = true ∧ s.myTurn true none = true ∧ s.myTurn false (some .package) = true ∧ strandIs s (fun x => s.reachable x x.lead x.stamp append 8) = true ∧
    strandIs s (fun x => !x.eventsDue && (x.copy 127).append == append && x.eventTurn 127 == decide (events.length < 64)) = true ∧
    ((2 ^ 31 : BitVec 32) - BitVec.ofNat 32 1).toNat < 2 ^ 31 ∧ ¬ ((2 ^ 31 : BitVec 32) - BitVec.ofNat 32 0).toNat < 2 ^ 31 := by
  decide +kernel

theorem witness_CopyChainMembers_events_due : strandIs (withCopy (st 0xA4000000 none none none none)
    { chain0 with cstate := .eventq }) (fun x => x.eventsDue) = true := by decide +kernel

/-- A step of a collective chain that waits for its partner, rank 1 on another package. -/
def step0 : CollStep :=
  { key := 0, kind := 3, s := 0, n := 0, p := 2, r := 0, q := 1, tag := .f32, flags := 0, seqv := 1, src := 0, dst := 0, scr := 0,
    qpkg := 1, qdie := 0, notice := false, sent := false, got := false, kept := none }

/-- The first collective chain of strand 0. -/
def withColl (s : State) (c : CollChain) : State := s.modStrand 0 fun x => { x with colls := put 15 c x.colls }

theorem witness_CollectiveMembers : ∀ append ∈ [0, 0x4000], ∀ step ∈ [none, some step0],
    let s := withColl (st 0xA7000000 (w64 0x4040) none none none)
      { Strand.init.coll 15 with append := append, step := step, cstate := if step.isSome then .waiting else .idle }
    free s = true ∧ s.myTurn true none = true ∧ s.myTurn false (some .package) = true ∧ strandIs s (fun x => s.reachable x x.lead x.stamp append 8) = true ∧
    strandIs s (fun x => (look 15 x.colls).isSome && (x.coll 15).outst == 0 && x.eventTurn (128 + 15) && !(x.coll 15).aborting &&
      step.all fun g => !s.transferring x.die g) = true := by
  decide +kernel

/-- A tree of four records at 64 KiB. -/
def tree0 : Tree :=
  { base := 0x10000, cap := 4, limit := 8, c := 0x40000000, vloss := 0x3F800000, fpu := 0, alt := false, grow := true, root := true,
    next := 3, runs := [], queue := [], gen := 1, owed := [], growing := false, stamp := Stamp.zero }

/-- A root with children 1 and 2. -/
def root0 : GNode := { GNode.fresh 0 0 noIndex 1 with expanded := true, first := 1, count := 2 }

/-- Strand 0's context with that tree bound as tree 0, over a root. -/
def withTree (s : State) (g : Tree) (r : GNode) : State :=
  { s.modCtx 0 fun c => { c with trees := [(0, g)] } with mem := s.mem.writeN 0x10000 r.bytes }

/-- What the members of group 0xB ask of a state. -/
def opens (s : State) : Bool := s.ready .always && hereIs s fun x r _ => s.geodeOpen x r 0

theorem witness_GeodeWholeCommands_unbound : let s := st 0xB0000000 (w64 0x4000) none none none
    let u := { s with mem := s.mem.writeN 0x4000 (leBytes 8 0x10000 ++ leBytes 4 4 ++ leBytes 4 4) }
    opens u = true ∧ u.tree? 0 0 0 = none ∧ hereIs u (fun x _ _ => u.readable x x.stamp 0x4000 64) = true ∧
    (treeOf (u.vpeek 0 0 0x4000 64)).isSome = true := by decide +kernel

/-- Nodes 0 to 3 of a tree, a ticket live and none, and both children of the root. -/
theorem witness_GeodeWholeCommands_bound : (∀ m ∈ [0, 3], ∀ r ∈ [root0, { root0 with expanded := false }],
      let s := withTree (st 0xB6000000 (w64 m) none none none) tree0 r
      opens s = true ∧ s.liveTickets 0 0 0 = 0 ∧ m < tree0.cap ∧ hereIs s (fun x _ _ => s.writable x (tree0.at 0) 32 &&
        s.readable x (tree0.stamp.join x.stamp) (tree0.at m) 32 && s.readable x (tree0.stamp.join x.stamp) (tree0.at 1) 64 &&
        (GNode.ofBytes (s.vpeek 0 0 (tree0.at 0) 32)).expanded == r.expanded) = true) ∧
    (let s := (withTree (st 0xB9000000 (w64 0) none none none) tree0 root0).modDie 0 fun y =>
       { y with tickets := [(0, { serial := 0, ctx := 0, tree := 0, leaf := 0, issuer := 0, order := 0 })] }
     opens s = true ∧ s.liveTickets 0 0 0 = 1) ∧
    (∀ q ∈ [0, 3], (parmOperand q (sc (if q = 3 then .i64 else .f32) 3)).toOption = some 3) ∧ (valF32 3).isNan = false := by decide +kernel

theorem witness_GeodeWholeCommands_reroot : ∀ m ∈ [1, 2], let s := withTree (st 0xB8000000 (w64 m) none none none) tree0 root0
    let root := GNode.ofBytes (s.vpeek 0 0 (tree0.at 0) 32)
    let cs := nodesOf root.count (s.vpeek 0 0 (tree0.at root.first) (32 * root.count))
    let h := { tree0.freeRun root.first root.count with gen := 2, queue := [] }
    opens s = true ∧ root.expanded = true ∧ root.first ≤ m ∧ m < root.first + root.count ∧
    (cs.all fun c => !c.expanded) = true ∧
    hereIs s (fun x _ _ => s.readable x (tree0.stamp.join x.stamp) (tree0.at root.first) (32 * root.count) &&
      s.writable x (tree0.at 0) 32 && (headWrites tree0 h).all fun w => s.writable x w.1 w.2.length) = true := by decide +kernel

theorem witness_GeodeCommandsOfSteps : ∀ m ∈ [1, 64],
    let s := withWin (withTree (st 0xB2000000 (w64 m) none none none) tree0 root0) 63 (win 0 .i64 1 4 0)
    opens s = true ∧ (look 63 ((s.strand? 0).elim [] (·.chans))).isNone = true ∧ (s.win? 0 63).any (fun v => decide (128 ≤ v.elem) &&
      v.state == .opened && v.tag == .i64 && decide (v.filler.toNat = strandId 0) && decide (v.drainer.toNat = strandId 0)) = true := by
  decide +kernel

/-- A task of context 0. -/
def task0 : Task :=
  { ctx := 0, range := false, entry := 0x1000, arg := 0, a2 := 0, grain := 0, win0 := 0, win1 := 0, prio := 0, state := .held,
    preds := 1, succs := [], live := 1, failed := false, stamp := Stamp.zero }

/-- Die 0's store with tasks in entries 0 and 8,191. -/
def withTasks (s : State) : State := s.modDie 0 fun y => { y with store := [(0, task0), (8191, task0)] }

/-- A graph record of zeros, and a range record of the least range. -/
theorem witness_TaskMembers_spawn : (∀ range ∈ [true, false], let s := st 0xC0000000 (w64 0x4000) none none none
    let u := { s with mem := if range then s.mem.writeN 0x4018 (leBytes 8 1 ++ leBytes 8 1 ++ leBytes 16 0 ++ leBytes 1 1) else s.mem }
    u.ready .always = true ∧ u.myTurn false (some .package) = true ∧ strandIs u (fun x => u.readable x x.stamp 0x4000 64 && x.die == 0)
      = true ∧ (taskOf 0 range (u.vpeek 0 0 0x4000 64)).isSome = true ∧ freeKey 8192 (u.die 0).store = some 0) ∧
    freeKey 2 [(0, task0), (1, task0)] = none := by decide +kernel

theorem witness_TaskMembers_takes : let s := withTasks (st 0xC3000000 none none none none)
    let u := s.modStrand 0 fun x => { x with deque := [{ handle := taskHandle 0 8191 0, lo := 0, hi := 0 }] }
    s.ready .always = true ∧ s.lastExit .always false = true ∧ (s.take 0 true).isNone = true ∧ (u.take 0 true).isSome = true ∧
    u.logs 0 = false ∧ u.ready .always = true := by decide +kernel

/-- Two live handles, one of another generation, and a task that runs or none. -/
theorem witness_TaskMembers_depends : let h := taskHandle 0 0 0
    let s := withTasks (st 0xC5000000 (w64 h) (w64 (taskHandle 0 8191 0)) none none)
    free s = true ∧ s.handleOk 0 h = true ∧ s.handleOk 0 (taskHandle 0 8191 0) = true ∧ s.task? h = some task0 ∧
    taskHandle 0 8191 0 ≠ h ∧ task0.state = .held ∧ task0.preds ≠ 0 ∧ task0.succs.length < 16 ∧
    s.handleOk 0 (taskHandle 0 1 1) = true ∧ s.task? (taskHandle 0 1 1) = none ∧ s.myTurn false (some .package) = true ∧
    strandIs s (fun x => x.tcur == 0) = true := by decide +kernel

/-- The strand as no member, as the only one, and as one of two of its gang. -/
theorem witness_GangsLocksAndWaits : (∀ members ∈ [[], [0], [0, 2]],
      let s := (st 0xC8000000 (w64 0x4040) (w64 7) none none).setGang 0 255 { members := members, arrived := [], phase := 2 ^ 32 - 1, stamp := Stamp.zero }
      free s = true ∧ s.myTurn false (some .package) = true ∧ (s.gang 0 255).members = members ∧ (s.gang 0 255).arrived = []) ∧
    (let s := st 0xCB000000 (w64 0x4040) (w64 7) none none
     s.myTurn true (some .package) = true ∧ strandIs s (fun x => s.canIssue x
      { va := 0x4040, w := 64, op := .push 7 true, tag := .i64, vec := false, acq := true }) = true) ∧
    (let s := st 0xCD000000 (w64 9) none none none
     free s = true ∧ (optOwner s.fire.right).toOption = some 0 ∧ (s.die 0).wfhost = false ∧ freeKey 4096 (s.die 0).wft = some 0 ∧
      (s.ctx? 0).isSome = true) := by decide +kernel

/-- A buffer of one window and one register, in memory and of the strand's shape. -/
def buffered : State :=
  let s := withWin (st 0xD6000000 (w64 0x200000) (w64 (2 ^ 33 + 2)) none none) 1 (win 0 .f32 1 4 0)
  let full := withWin s 1 (win 0 .f32 1 4 1)
  { s with mem := s.mem.writeN 0x200000 (((full.strand? 0).map fun x => full.bufferImage 0 x (2 ^ 33 + 2)).getD []) }

theorem witness_SpliceMembers_buffer : let m := 2 ^ 33 + 2
    let s := buffered
    s.ready .always = true ∧ s.myTurn true none = true ∧ s.myTurn false none = true ∧ maskWins m = [1] ∧ maskRegs m = [1] ∧
    strandIs s (fun x =>
      let len := (s.bufferImage 0 x m).length + 160
      let hd := s.vpeek 0 0 0x200000 64
      let bs := s.vpeek 0 0 0x200000 (up64 len)
      s.readable x x.stamp 0x200000 64 && s.reachable x x.lead (x.seenIn (maskWins m)) 0x200000 len && fieldOf hd 0 8 == m &&
      fieldOf hd 12 4 == x.region.cTiles.length && (match s.imagesAt x 0x200000 (fieldOf hd 16 8) imageBytes 1 (64 + up64 16) with
        | .ok ([o], e, _) => decide (up64 e ≤ fieldOf hd 16 8) && s.readable x x.stamp 0x200000 (up64 e) &&
            (look 1 x.wins).any fun v => v.takes (bs.drop o)
        | _ => false)) = true := by decide +kernel

theorem witness_SpliceMembers : (st 0xD3000000 none none none none).lastExit .always false = true ∧
    (let s := st 0xD4000000 (w64 0x4000) (w64 1023) none none
     free s = true ∧ (spliceAddr 1 s.fire.left).toOption = some 0x4000 ∧ (wordOperand s.fire.right).toOption = some 1023) ∧
    (let s := st 0xD7000000 (some { Tok.i64 0x102 0 with tag := .mark }) none none none
     free s = true ∧ s.fire.left.any (·.tag == .mark) = true) ∧
    (let s := st 0xD8000000 (w64 0x4000) (w64 0x4400) none (w64 0)
     free s = true ∧ (spliceAddr 1 s.fire.third).toOption = some 0) := by decide +kernel

/-- Two strands of context 0, the second of which stands as given. -/
def two (w : Nat) (l r : Option Tok) (x : Strand) : State :=
  let s := st w l r none none
  { (s.modDie 0 fun y => { y with regions := y.regions ++ [x.region] }) with strands := put 2 x s.strands }

theorem walk_low (s : State) (hm : s.mem = table) (va : Nat) (h : va < 2 ^ 30) : s.walk 0x100000 va =
    some { pa := va, size := 2, place := 0, rd := true, wr := true, fx := true } := by
  have t0 : table.readNat 0x100000 8 = 0x101181 := by decide +kernel
  have t1 : table.readNat 0x101000 8 = 0x10F := by decide +kernel
  have h0 : s.entryAt 0x100000 = 0x101181 := by simp [State.entryAt, State.backing, hm, t0]
  have h1 : s.entryAt 0x101000 = 0x10F := by simp [State.entryAt, State.backing, hm, t1]
  have b1 : bits va 55 39 = 0 := by unfold bits; omega
  have b2 : bits va 38 30 = 0 := by unfold bits; omega
  have b3 : bits 0x101181 49 10 * 1024 = 0x101000 := by decide
  have b4 : bits 0x10F 49 10 * 1024 = 0 := by decide
  rw [State.walk, walkTable, b1, b2, walkLevel, Nat.mul_zero, Nat.add_zero, h0]
  rw [if_neg (by decide), if_pos (by decide)]
  simp only [b3]
  rw [if_pos (by decide), walkLevel, Nat.mul_zero, Nat.add_zero, h1]
  rw [if_neg (by decide), if_neg (by decide)]
  rw [if_pos (by decide), leafOf, b4, if_pos (by decide), Nat.mod_eq_of_lt h, Nat.zero_add]
  rfl

theorem page_low (s : State) (c : Ctx) (d a : Nat) (k : AccK) (hk : k = .rd ∨ k = .wr) (hc : s.ctx? 0 = some c) (hr : c.root = 0x100000)
    (hm : s.mem = table) (hf : s.frames = []) (hv : a < 2 ^ 30) :
    (match s.translate 0 d a k with
     | .ok _ _ => true
     | _ => false) = true := by
  have hp : s.leafOk { pa := a, size := 2, place := 0, rd := true, wr := true, fx := true } k = true := by
    have h44 : a < 2 ^ 44 := by omega
    rcases hk with h | h <;> subst h <;> simp [State.leafOk, State.paMapped, State.framePlace, hf, look] <;> exact Or.inl (by omega)
  simp only [State.translate, hc, hr, walk_low s hm _ hv, hp, if_true]

theorem pages_low (s : State) (c : Ctx) (d a n : Nat) (hc : s.ctx? 0 = some c) (hr : c.root = 0x100000) (hm : s.mem = table)
    (hf : s.frames = []) (h : a + n ≤ 2 ^ 30) : s.imageMapped 0 d a n = true ∧ s.imageReadable 0 d a n = true := by
  have hi : ∀ i ∈ List.range (n / 4096), a + 4096 * i < 2 ^ 30 := by
    intro i hi
    have hi := List.mem_range.mp hi
    omega
  refine ⟨List.all_eq_true.mpr fun i h => page_low s c d _ .wr (Or.inr rfl) hc hr hm hf (hi i h),
    List.all_eq_true.mpr fun i h => page_low s c d _ .rd (Or.inl rfl) hc hr hm hf (hi i h)⟩

/-- The privileged context of the witnesses. -/
def ctx0 : Ctx := { Ctx.start with ptroot := 0x100000, rgnq := 0x3FF, ctxpriv := 3 }

theorem witness_SystemMembers_save : let s := two 0xE0000000 (w64 0x1000000) (w64 (strandId 2)) second
    s.ready .always = true ∧ s.myTurn true none = true ∧ (s.named (strandId 2)).map (·.1) = some 2 ∧ second.lives = true ∧
    second.save = .running ∧ second.ctx = 0 ∧ s.pendsOf (· == .region) = [] ∧
    s.imageMapped 0 0 0x1000000 second.region.imageLen = true ∧ s.imageMapped 0 0 0x1000000 dieImageLen = true ∧
    (spliceAddr 4096 s.fire.left).toOption = some 0x1000000 :=
  ⟨by decide +kernel, by decide +kernel, by decide +kernel, by decide +kernel, by decide +kernel, by decide +kernel, by decide +kernel,
    (pages_low _ ctx0 0 _ _ (by decide +kernel) (by decide +kernel) (by decide +kernel) (by decide +kernel) (by decide +kernel)).1,
    (pages_low _ ctx0 0 _ _ (by decide +kernel) (by decide +kernel) (by decide +kernel) (by decide +kernel) (by decide +kernel)).1,
    by decide +kernel⟩

/-- The image that a save of a die or a strand leaves, whose header reads as zeros. -/
def image0 (die key : Option Nat) : Image :=
  { ctx := 0, addr := 0x1000000, head := List.replicate headBytes 0, key := key, snap := none, die := die, accs := [], opwins := [],
    streams := [], acct := [], trees := [], tickets := [], tasks := [], pool := [], deques := [], gangs := [] }

/-- Strand 2 saved to 0x1000000, CTXRS with handle 0 about to run. -/
def restoring (i : Image) : State :=
  { two 0xE1000000 (w64 0x1000000) (w64 0) { second with save := .saved 0x1000000 } with images := [i] }

theorem witness_SystemMembers_restore : (∀ i ∈ [image0 (some 3) none, image0 none (some 2)], let s := restoring i
      s.ready .always = true ∧ s.myTurn false none = true ∧ strandIs s (fun x => s.quiet x.stamp) = true ∧
      (s.imageHead 0 0 0x1000000).bind (s.imageAt 0 0x1000000) = some i ∧ (wordOperand s.fire.right).toOption = some 0 ∧
      s.pendsOf (· == .region) = []) ∧
    2 = strandKey second.die second.region.lead ∧ second.convertsOn second.region = true ∧ second.waits = [] ∧
    second.haltAsked = false ∧ second.susp = none ∧
    (∀ d ∈ [0, 1, 2, 3], ((base 0xE1000000).die d).armed = [] ∧ ((base 0xE1000000).die d).streams = []) := by decide +kernel

theorem witness_SystemMembers_restore_read (i : Image) : (restoring i).imageReadable 0 0 0x1000000 second.region.imageLen = true ∧
    (restoring i).imageReadable 0 0 0x1000000 dieImageLen = true :=
  ⟨(pages_low _ ctx0 0 _ _ rfl rfl rfl rfl (by decide +kernel)).2, (pages_low _ ctx0 0 _ _ rfl rfl rfl rfl (by decide +kernel)).2⟩

theorem witness_SystemMembers_maps : (let s := st 0xE2200000 (w64 0x4000) none none none
      free s = true ∧ s.drained = true ∧ s.fire.left.isSome = true) ∧
    (let s := (st 0xE3000000 (w64 (2 ^ 14 * 17)) (w64 65536) none none).modCtx 0 fun c => { c with frames := [(17, 65536)] }
     free s = true ∧ s.drained = true ∧ 2 ^ 14 * 17 % 2 ^ 14 = 0 ∧ (s.ctx? 0).any (fun c => c.allots 17 && c.allots (17 + 65535) &&
      !c.allots (17 + 65536)) = true ∧ s.frames = []) := by decide +kernel

/-- With placement 000 nothing is stored beside the frames themselves, whatever storage is free. -/
theorem witness_SystemMembers_mapset (d : Nat) : storageDelta [] d ≤ (Config.freeStorage d : Int) := by
  simp [storageDelta]

/-- PRMT.S of strand 1, whose pre-emption slot starts at the context's PSAVE of 0. -/
theorem witness_SystemMembers_preempt : let x : Strand := { second with lead := 1, region := { placedRegion with c := 1, strand := some 1 } }
    let s := { st 0xE4000000 (w64 (strandId 1)) none none none with strands := put 1 x (st 0xE4000000 (w64 (strandId 1)) none none none).strands }
    free s = true ∧ (s.named (strandId 1)).map (·.1) = some 1 ∧ s.pendsOf (· == .region) = [] ∧ s.psaveSlot 1 x = 0 ∧
    s.imageMapped 0 0 0 x.region.imageLen = true :=
  ⟨by decide +kernel, by decide +kernel, by decide +kernel, by decide +kernel,
    (pages_low _ ctx0 0 _ _ (by decide +kernel) (by decide +kernel) (by decide +kernel) (by decide +kernel) (by decide +kernel)).1⟩

theorem witness_SystemMembers_regions : (let s := two 0xE4000010 (w64 (strandId 2)) none second
      free s = true ∧ (s.named (strandId 2)).map (·.1) = some 2 ∧ second.shrinks 1 2 = true ∧ second.shrink = none ∧
      s.pendsOf (· == .region) = [] ∧
      s.psaveSlot 2 second = 2 ^ 30) ∧
    (let s := st 0xE5000000 (w64 (1 + 1 * 2 ^ 4 + 2 ^ 11)) (w64 0) none none
     free s = true ∧ s.heldFor s.queueNo = none ∧ strandIs s (fun x => x.eff == 0) = true ∧
      ((requestOf (1 + 1 * 2 ^ 4 + 2 ^ 11)).bind fun q => s.findRect s.queueNo 0 0 q allCount anyRect).isSome = true) ∧
    (let s := (st 0xE6000000 (w64 (({ placedRegion with r := 8, strand := none } : Region).handle 0)) none none none).modDie 0 fun y =>
       { y with regions := y.regions ++ [{ placedRegion with r := 8, strand := none }] }
     free s = true ∧ s.pendsOf (· == .region) = [] ∧ (s.regionOf (({ placedRegion with r := 8, strand := none } : Region).handle 0)).any (fun e =>
       e.2.ctx == 0 && e.2.strand.isNone) = true) := by decide +kernel

theorem witness_ControlRegisters : let s := st 0xE8000150 (w64 (2 ^ 64 - 1)) none none none
    free s = true ∧ (s.ctx? 0).isSome = true ∧ s.kcopying 0 = false := by decide +kernel

theorem witness_FleetMembers : (∀ e ∈ [(0, 2), (1, 2 ^ 2), (2, 2 ^ 2), (3, 64), (4, 4), (5, 23)],
      let s := st 0xEA000003 (w64 e.2) (w64 0x4000) none none
      free s = true ∧ (s.ctx? 0).any Ctx.super = true ∧ injRange e.1 e.2 = true) ∧
    (let s := st 0xEC000000 (w64 (255 * 4 + 3)) (w64 0x4000) none none
     free s = true ∧ s.myTurn false none = true ∧ (s.die 3).regions = [] ∧ strandIs s (fun x =>
      s.readable x x.stamp 0x4000 scanBytes) = true) ∧
    (let s := (st 0xED000003 (w64 0x4000) (w64 0) none none).modDie 0 fun y =>
       { y with logs := y.logs.set 3 { ErrLog.reset with next := 1, ents := [
           { addr := 0, syndrome := 0, array := 3, flags := 1, tile := 0, ctx := 0, seq := 0, cyc := 0 }] } }
     s.ready .always = true ∧ s.myTurn true none = true ∧ strandIs s (fun x => (s.ctx? 0).any fun c =>
      (s.elogUnits x c false 3 1 0 0).1 != [] && (s.elogUnits x c false 0 1 0 0).1 == [] &&
      s.reachable x x.lead x.stamp 0x4000 (s.elogUnits x c false 3 1 0 0).1.flatten.length) = true) ∧
    (let s := st 0xEE000000 (w64 0x4000) (w64 0x8000) none none
     s.ready .always = true ∧ s.myTurn true none = true ∧ strandIs s (fun x => s.readable x x.stamp 0x8000 64 &&
      s.reachable x x.lead (x.stamp.join s.depAll) 0x4000 (s.report (s.vpeek 0 0 0x8000 64)).length) = true) := by decide +kernel

theorem witness_DebugMembers : (∀ l ∈ [none, w64 (2 ^ 11), w64 (1 + 7 * 2 ^ 8), sc .i8 255], let s := st 0xF1000005 l none none none
      free s = true) ∧
    (let s := withWin (st 0xF3000004 (w64 0) none none none) 4 (win 0 .f32 1 4 1)
     free s = true ∧ (s.win? 0 4).any (fun u => decide (3 / u.rpe < u.cap) && decide (0 / u.rpe < u.extent) &&
      decide (u.extent ≤ 1 / u.rpe)) = true) ∧
    isMTile 1 = false ∧ isMTile 0 = true := by decide +kernel

theorem witness_ContextsAndRegisters : (base 0).boot = 4 ∧ (base 0).ctx? 63 = none ∧ ((base 0).ctx? 0).any (fun c => ringSize c.lring == 0) = true ∧
    (((base 0).modCtx 0 fun c => { c with lring := 5 }).ctx? 0).any (fun c => ringSize c.lring == 5) = true ∧
    ({ base 0 with strands := [] }).strands = [] ∧
    (let s := (base 0).modCtx 0 fun c => { c with ksegb := 0x4000, ksegl := 256 }
     let u := s.modDie 1 fun y => { y with ksegs := [(0, { (Die.reset.kpair 0) with wanted := true })] }
     ((u.die 1).kpair 0).wanted = true ∧ ((u.die 0).kpair 0).wanted = false ∧ u.kwaiters 0 = [] ∧
      u.kuses 1 0 (1 - ((u.die 1).kpair 0).cur) = false ∧ u.readable (engineStrand 0 1) Stamp.zero 0x4000 256 = true) ∧
    (base 0).recovery = false ∧ (base 0).backed 0x200000 1 = true := by
  decide +kernel

/-- A CSRWR of KSEGB that waits for its copy. -/
theorem witness_ContextsAndRegisters_waiter : let s := ((st 0xE9000148 (w64 0x4000) none none none).park .ksegment none [7]).modDie 1 fun y =>
      { y with ksegs := [(0, { (Die.reset.kpair 0) with wanted := true })] }
    (s.kwaiters 0).length = 1 ∧ s.kuses 1 0 1 = false ∧ s.readable (engineStrand 0 1) Stamp.zero 0 0 = true ∧
    ∀ p ∈ s.kwaiters 0, (s.held? p.fire.k p.fire.hand p.fire.copy p.fire.slot p.fire.iter).any (fun h =>
      h.2.2.1 == .csrwr .always 0x148 .none && h.2.2.2 == p && h.1.save.free && some h.2.1 == s.run? p.fire.k) = true := by
  decide +kernel

/-- A context with a launch ring of 32 records at physical 0x200000 whose doorbell has rung once. -/
def ringing (recd : List Byte) : State :=
  let s := (base 0).modCtx 0 fun c => { c with lring := 0x200005, ldoor := 1 }
  { s with mem := s.mem.writeN 0x200000 recd }

/-- A launch record for a region of 2 × 2 tiles of any die. -/
def launch0 : List Byte := leBytes 8 0x1000 ++ leBytes 8 (1 + 1 * 2 ^ 4 + 2 ^ 11)

theorem witness_LaunchesStartStrands_take : (∀ e ∈ [(launch0, true), (leBytes 8 1, false)], let s := ringing e.1
      s.boot = 4 ∧ (s.ctx? 0).any (fun x => ringSize x.lring != 0 && x.lhead.setWidth 32 != (x.ldoor.setWidth 32 : BitVec 32) &&
        ringBase x.lring == 0x200000) = true ∧ (launchOf (s.mem.readN 0x200000 320) 0).isSome = e.2) ∧
    (base 0).backed 0x200000 320 = true ∧ (base 0).backed (2 ^ 44 - 16) 320 = false ∧ (base 0).backed (2 ^ 44 - 16) 16 = true ∧
    (base 0).backed (2 ^ 44) 16 = false ∧ ({ base 0 with aperture := [(2 ^ 14, .pooled 3)] } : State).backed (2 ^ 44) 320 = true ∧
    (base 0).die 0 = { (base 0).die 0 with armed := [] } := by decide +kernel

theorem witness_LaunchesStartStrands_dispatch : ((launchOf (leBytes 320 (leNat launch0)) 0).any fun l =>
    let s := (base 0).modCtx 0 fun c => c.enqueue l
    decide (l.regs.length = 31) && ((s.ctx? 0).any fun x => (x.nextLaunch).isSome && x.queuePrio l.q == 0) && (requestOf l.req.toNat).any fun q =>
      (s.findRect (launchWho 0) 0 0 q allCount anyRect).isSome && (s.heldFor (launchWho 0)).isNone) = true ∧
    (requestOf (7 + 7 * 2 ^ 4)).any (fun q => ((((base 0).modDie 0 fun y => { y with retmap := #v[2 ^ 64 - 1, 2 ^ 64 - 1,
      2 ^ 64 - 1, 2 ^ 64 - 1] })).findRect (launchWho 0) 0 0 q allCount anyRect).isNone) = true := by decide +kernel

theorem witness_LaunchesStartStrands_others : (let s := (withWin (base 0x0A020C85) 3 (win 0 .f32 1 4 0)).modCtx 0 fun c =>
      { c with decls := [(0, [{ num := 3, row := 0, col := 0, index := 0, elem := 1, slots := 4, tag := .f32, base := 0,
                                init := some (0x4000, 1) }])] }
      strandIs s (fun x => (preloads (((s.ctx? x.ctx).bind fun c => look x.launch.entry c.decls).getD [])).any fun q =>
        (look q.1 x.wins).isSome && s.readable x x.stamp q.2.1 q.2.2.1) = true) ∧
    (let s := st 0xE5000000 (w64 (1 + 1 * 2 ^ 4 + 2 ^ 11)) (w64 0) none none
     let u := s.park .region none []
     (u.sysQueue 0).length = 1 ∧ ∀ p ∈ u.sysQueue 0, (u.held? p.fire.k p.fire.hand p.fire.copy p.fire.slot p.fire.iter).any (fun h =>
      h.2.2.1 == .rgnal .always .none && h.2.2.2 == p && h.1.save.free && some h.2.1 == u.run? p.fire.k) = true ∧
      let who := State.queueNo { u with fire := p.fire }
      u.heldFor who = none ∧ (wordOperand p.fire.right).toOption = some 0 ∧
      ((requestOf (1 + 1 * 2 ^ 4 + 2 ^ 11)).bind fun q => u.findRect who 0 0 q allCount anyRect).isSome = true) := by decide +kernel

/-- The block tour_main of the annotated tour, with its exit table. -/
def tour : List Byte :=
  leBytes 16 0x00E0000080000000C000000080000000 ++ [0x07020401, 0x0A020C85, 0x07040C00, 0x1E121185, 0x0A061987, 0x144A07FF, 0x01400000,
    0x01800001].flatMap (leBytes 4) ++ leBytes 8 0x5000 ++ leBytes 8 0x6000

/-- Strand 0 about to enter the block at 0x4000. -/
def entering (bs : List Byte) : State :=
  let s := (base 0x0A020C85).modStrand 0 fun x => { x with phase := .enter, run := none, bc := 0x4000 }
  { s with mem := s.mem.writeN 0x4000 bs }

/-- A block that passes every check of R50, and one whose header has htype 4. -/
theorem witness_BlocksBeginAndEnd_load : ∀ e ∈ [(tour, true), (leBytes 16 0x40E0000080000000C000000080000000 ++ tour.drop 16, false)],
    let s := entering e.1
    strandIs s (fun x => x.phase == .enter && !x.halted && x.save == .running && x.shrink.isNone && !x.shrunk && s.quiet x.stamp &&
      (s.die 0).armed == [] && s.untraced x && decide (x.bc.toNat % 16 = 0) && (s.fetched x 0x4000 16 == some (e.1.take 16)) &&
      (s.fetched x 0x4000 (blockBytes (leNat (e.1.take 16))) == some e.1) && (s.checkBlock x 0x4000 e.1).isNone == e.2 &&
      (x.breaksAt true (blockOf 0x4000 e.1).rsid).isNone) = true := by decide +kernel

/-- Strand 0 whose node at slot 0 holds an output. -/
def offering (w : Nat) (t : Tgt) (i : Item) : State :=
  (base w).modRun 0 fun r => r.modNode 0 (slotOf w) fun n =>
    { n with fired := 1, out := [{ iter := 0, tgt := t, b := false, item := i, reg := false }] }

theorem witness_BlocksBeginAndEnd_offer : (∀ t ∈ [Tgt.reg 31, .left 5], strandIs (offering 0x0A020C85 t (.tok (Tok.i64 7 0))) (fun x => x.working &&
      x.run.any fun r => !r.blk.isFabric && (r.node? 0 0).any (fun n => n.offers ==
        [{ iter := 0, tgt := t, b := false, item := .tok (Tok.i64 7 0), reg := false }] && n.copy == 0 && n.slot == 0) && (r.outLinks 0 0 false).all fun l =>
          r.links.all fun m => m.slot != l.slot || m.pos != l.pos || m.items == []) = true) ∧
    strandIs (offering 0x30022400 (.left 9) .skip) (fun x => x.working && x.run.any fun r => r.blk.isFabric &&
      !(r.blk.instr? 8).any isConst && (r.outLinks 0 8 false).all fun l => decide (l.items.length < 4)) = true := by decide +kernel

/-- A fabric node whose predicate has the other sense; a control block that has run to its end, with and without an exit; and a
fabric block whose one exit has fired. -/
theorem witness_BlocksBeginAndEnd_end : (let s := (base 0x30422400).modRun 0 fun r => { r with links := r.links.map fun l =>
        if l.pos = .pred then { l with const := some (.tok (Tok.pred false 0)) } else l }
      let u := s.modRun 0 fun r => { r with links := placedLink 8 .left (Tok.i64 0 0) :: r.links }
      ∀ e ∈ [(s, false), (u, true)], strandIs e.1 (fun x => x.run.any fun r => (r.node? 0 8).any (fun n =>
        r.ready 0 x.region n == .skip 0 e.2) && !r.mstop) = true) ∧
    (∀ es ∈ [[], [(0, 0, ExitAct.goto 0)]], let s := (base 0x01000000).modRun 0 fun r =>
        { r.modNode 0 0 (fun n => { n with fired := 1, done := 1 }) with exits := es }
      strandIs s (fun x => !x.halted && x.save.free && x.phase == .run && x.run.any fun r => !r.blk.isFabric && r.exits == es &&
        r.nodes.all fun n => n.pend == [] && n.out == [] && r.ready 0 x.region n == .no) = true) ∧
    (let s := (base 0x30022400).modRun 0 fun r =>
        { r.modNode 0 8 (fun n => { n with fired := 1, done := 1 }) with exits := [(4, 0, .goto 0)], links := [] }
     strandIs s (fun x => x.run.any fun r => r.blk.isFabric && r.complete x.region && r.nodes.all fun n => n.cfg && n.pend == [] &&
      n.out == [] && r.ready 0 x.region n == .no) = true) := by decide +kernel

/-- A fabric block that has run dry, one whose KSET was refused, and the block of a LOOPN that has fired. -/
theorem witness_BlocksBeginAndEnd_fabric : (∀ e ∈ [(0x30022400, false), (0x90300000, true)],
      let s := (base e.1).modRun 0 fun r => { r.modNode 0 (slotOf e.1) (fun n => { n with fired := 1, done := 1, stopped := e.2 }) with
        links := [] }
      strandIs s (fun x => x.phase == .run && x.save.free && !x.halted && x.run.any fun r => r.blk.isFabric && r.blk.htype != 2 &&
        r.ksetFailed == e.2 && (e.2 || !r.complete x.region) && r.nodes.all fun n => n.cfg && n.pend == [] && n.out == [] && r.ready 0 x.region n == .no) = true) ∧
    (let s := (State.reset.withFetchWord 256 0x98025201).modRun 0 fun r => r.modNode 0 0 fun n => { n with fired := 1, done := 1 }
     strandIs s (fun x => x.run.any fun r => r.blk.isFabric && r.blk.htype == 2 && r.complete x.region && r.nodes.all fun n => n.cfg &&
      n.pend == [] && n.out == [] && r.ready 0 x.region n == .no) = true) := by decide +kernel

/-- Strand 0 at the edge of a block that left through exit 0. -/
def atEdge (f : Strand → Strand) (g : Run → Run) : State :=
  ((base 0x01000000).modRun 0 fun r => g { r with exits := [(0, 0, .goto 0)] }).modStrand 0 fun x => f { x with phase := .edge }

/-- What R115 asks of an edge at its step 7. -/
def plainEdge (s : State) : Bool := strandIs s fun x => x.phase == .edge && x.save == .running && !x.halted && !x.crossed &&
  decide (bits x.dbgctl.toNat 1 0 = 0) && x.owed == [] && x.splpost.isNone && s.untraced x && x.run.any fun r => r.traps == [] && !r.mstop

/-- Strand 0 at an edge with a pending trap, its context with a handler. -/
def withTrap (h : Word) (b : Bool) : State :=
  (atEdge (fun x => { x with tstat := h }) fun r =>
    { r with traps := [{ cause := 0x05, origin := 7, extra := 9, atExit := b }] }).modCtx 0 fun c => { c with thnd := 0x8000 }

theorem witness_BlockEdges_exit : plainEdge (atEdge id id) = true ∧ strandIs (atEdge id id) (fun x => x.run.any fun r =>
    r.exits == [(0, 0, .goto 0)] && (x.breaksAt false (r.blk.exitAt 0)).isNone) = true ∧ 0 ≠ edgeSlot := by decide +kernel

/-- An edge for every exit, the link stack empty, with one entry and full, in and out of splice mode, attached and not. -/
theorem witness_BlockEdges_exits : (∀ e ∈ [ExitAct.goto 1, .addr 0x5000, .call 1 2, .ret, .trapi 5 1, .brks 5 1, .halts, .splack 0, .splack 6,
      .enterTask (taskHandle 0 0 0) 0 0, .tpop 1], ∀ l ∈ [[], [(7 : Word)], List.replicate 8 7], ∀ b ∈ [true, false],
      let s := withTasks (atEdge (fun x => { (x.setSmode b) with blink := l, splcur := 0x102, dbgctl := if b then 4 else 0 }) fun r =>
        { r with exits := [(3, 0, e)] })
      plainEdge s = true ∧ s.task? (taskHandle 0 0 0) = some task0 ∧ (s.ctx? 0).any (fun c => !c.playing && bits c.hamode.toNat 2 2 == 0) = true ∧
      strandIs s (fun x => x.attached == b && x.smode == b && x.shrink.isNone && x.run.any (fun r => r.exits == [(3, 0, e)] &&
        (State.takes (s.modStrand 0 fun _ => { x.edgeWrites r with owed := [], crossed := true }) 0 false).isEmpty &&
        [r.blk.exitAt 1, r.blk.exitAt 2, 0x5000, task0.entry.toNat].all fun a => (x.breaksAt false a).isNone)) = true) ∧
    bits 0x102 9 8 = 1 ∧ 3 ≠ edgeSlot := by decide +kernel

theorem witness_BlockEdges_owed : let t : Trap := { cause := 0x07, origin := 7, extra := 9, atExit := false }
    let s := (base 0x01000000).modStrand 0 fun x => { x with phase := .ending 0, run := none, owed := [t] }
    strandIs s (fun x => firstTrap x.owed == some t && s.untraced x) = true := by decide +kernel

theorem witness_BlockEdges_trap : ∀ b ∈ [true, false], strandIs (withTrap 0 b) (fun x => x.run.any (fun r =>
      (firstTrap (r.traps ++ x.owed)).isSome) && (withTrap 0 b).untraced x && (withTrap 0 b).canTrap x) = true ∧
    strandIs (withTrap 1 b) (fun x => x.run.any (fun r => (firstTrap (r.traps ++ x.owed)).isSome) && (withTrap 1 b).untraced x &&
      !(withTrap 1 b).canTrap x) = true := by decide +kernel

theorem witness_BlockEdges_end : (let s := (base 0x01000000).modStrand 0 fun x => { x with phase := .ending 0, run := none }
     strandIs s (fun x => x.copies == [] && x.colls == [] && s.accessesDone 0 && !s.streaming 0) = true) ∧
    ({ Strand.init with phase := .stopped } : Strand).attached = false ∧ ({ Strand.init with dbgctl := 16 } : Strand).halted = true := by
  decide +kernel

/-- Strand 0 at the edge of a block that left through TRAPRET. -/
def returning (t : Nat) (a : Option Nat) : State :=
  atEdge (fun x => { x with tstat := BitVec.ofNat 64 t, tres := 0x4000, susp := x.run }) fun r => { r with exits := [(0, 0, .trapret true a)] }

theorem witness_TrapReturn : ∀ t ∈ [1, 3], ∀ a ∈ [none, some 0, some 0x4000, some 0x5000], plainEdge (returning t a) = true ∧
    strandIs (returning t a) (fun x => x.suspBit == (t == 3) && x.susp.isSome && x.shrink.isNone && (x.breaksAt false (a.getD x.tres.toNat)).isNone) =
      true := by decide +kernel

/-- A read that waits at an element that has come since, and a fill that waits for room. -/
theorem witness_WindowWaitsAndChannels : (let s := withWin ((st 0x70022000 (w64 1) none none none).park (.winRead 0 0 1) none []) 0 (win 0 .f32 1 4 2)
      ((s.oldest? 0 0 0).any fun e => e.2.1 == .wrd .always 0 (.left 8) && e.2.2.why == .winRead 0 0 1 && e.2.2.fire.k == 0 &&
        !e.2.2.reg && match tryWrd 0 { s with fire := e.2.2.fire } with
          | .done _ _ _ => true
          | _ => false) = true ∧ (s.die 0).armed = []) ∧
    (let s := withWin ((st 0x72000001 (sc .f32 1) none none none).park (.winFill 0 1 4) none []) 1 (win 0 .f32 1 4 3)
     ((s.oldest? 0 0 0).any fun e => e.2.1 == .wfl .always 1 .none && e.2.2.prog == [] && strandIs s fun x =>
      x.run.any fun r => r.fillTurn x.region e.2.2.fire 1) = true) := by decide +kernel

/-- A window linked from strand 2, with a fill or an end of stream on its link, and one with an entry in its ring. -/
theorem witness_WindowWaitsAndChannels_links : (∀ m ∈ [true, false],
      let v := { win 0 .f32 1 4 1 with
        state := .linked
        link := [{ k := 2, hand := false, copy := 0, slot := if m then eosSlot else 0, marker := m, row := Row.zero, fits := true,
                   stamp := Stamp.zero }] }
      let s := withWin (two 0x0A020C85 none none second) 1 v
      v.admitsLink = true ∧ v.eos = false ∧ v.link.all (s.active ·) = true ∧ strandIs s (fun x => x.save.free) = true ∧ (s.win? 0 1) = some v ∧ 0 ≠ eosSlot) ∧
    (let v := { win 0 .f32 1 4 1 with state := .linked, spill := true, rbase := 0x4000, rsize := 4, rtail := 1 }
     let s := withWin (base 0x0A020C85) 1 v
     v.free ≠ 0 ∧ v.frow = 0 ∧ v.ring = 1 ∧ ((pieces (v.placeAt v.rhead.toNat 0) v.placeBytes).all fun q =>
      match s.translate 0 0 q.1 .rd with
      | .ok _ _ => true
      | _ => false) = true) := by decide +kernel

/-- A wait of strand 0 on a window that strand 2 fills. -/
def waiting : State :=
  (withWin ((st 0x70022000 (w64 1) none none none).park (.winRead 0 0 1) none []) 0
    { win 0 .f32 1 4 0 with filler := BitVec.ofNat 16 (strandId 2) }).modCtx 0 fun c => { c with thnd := 0x8000 }

/-- Entries of a cycle of strands 0 and 2. -/
def cycle : List (Nat × WfEnt) :=
  [(0, waitEntry (1, 0, 0, strandId 2) (.node 0 0 0) 0 5), (1, waitEntry (1, 8, 0, strandId 0) (.node 2 0 0) 0 0)]

theorem witness_WaitsRegisterAndCycles : (strandIs waiting (fun x => x.working && x.run.any fun r => (r.node? 0 0).any fun m =>
      (m.unregistered? waiting 0).any fun q => let e := waitEntry q.2 (.node 0 0 0) 0 q.1.fire.iter
        e.owner != e.waiter && waiting.entries == []) = true ∧ (waiting.die 0).wfhost = false ∧
      freeKey 4096 (waiting.die 0).wft = some 0) ∧
    (let s := waiting.modDie 0 fun y => { y with wft := cycle }
     let cycles := s.entries.filterMap fun f => (s.cycleOf (s.entries.length + 2) f.2.2).map fun c => (f, c)
     let e := waitEntry (1, 0, 0, strandId 2) (.node 0 0 0) 0 5
     (s.entries.head? == some (0, 0, e) && (cycles.head?.any fun c => c.1 == (0, 0, e) && c.2.length == 2 && c.2.any fun f => !f.told) &&
        (s.entries.drop 1).all fun f => decide ((s.sweepEntry 0 0).sweepEntry f.1 f.2.1 = s.sweepEntry 0 0)) = true ∧
      (cycles.all fun c => c.2.all fun f => !f.hmark) = true ∧ s.hostDetects 0 = false ∧ look 0 (s.die 0).wft = some e ∧ e.sw = false ∧
      strandIs s (fun x => x.phase == .run && x.run.isSome && s.canTrap x && s.untraced x && x.ctx == 0) = true) ∧
    idKey (strandId 0) = 0 ∧ strandId 0 / 2 ^ 13 = 1 := by decide +kernel

theorem witness_ObjectWaitsEnd_tasks : (∀ e ∈ [0, 8191], let s := (base 0).modDie 3 fun y =>
        { y with store := [(0, { task0 with state := .pending, preds := 0 }), (8191, { task0 with state := .pending, preds := 0 })] }
      s.task? (taskHandle 3 e 0) = some { task0 with state := .pending, preds := 0 } ∧ s.winReady 0 task0.win0 = true) ∧
    (let s := (withTasks ((st 0xC3000000 none none none none).park .idle none [])).modStrand 0 fun x =>
       { x with deque := [{ handle := taskHandle 0 0 0, lo := 0, hi := 0 }] }
     (s.oldest? 0 0 0).any (fun e => e.2.2.why == .idle) = true ∧ (s.take 0 true).isSome = true) := by decide +kernel

/-- The operation in flight of strand 0's slot 0, and a queue of one entry with its ring at 0x8000. -/
theorem witness_ObjectWaitsEnd_waits : (∀ e ∈ [(0xC8000000, Why.gang 255 1), (0x8E000000, .monitor 0x4000), (0xC9000000, .lock 0x4040)],
      let s := (st e.1 (w64 0x4040) none none none).park e.2 none []
      (s.held? 0 false 0 0 0).any (fun h => h.2.2.2.why == e.2 && h.2.2.2.fire.hand == h.2.1.hand && h.1.save.free && h.1.run.isSome) =
        true ∧ s.logs 0 = false) ∧
    (let s := (base 0).modDie 2 fun y => { y with locks := [(0x4040, [.node 0 false 0 0 0])], monitors := [(0, 0x100, true)] }
     look 0x4040 (s.die 2).locks = some [.node 0 false 0 0 0] ∧ look 0x4040 (s.die 1).locks = none ∧
      look 0 (s.die 2).monitors = some (0x100, true) ∧ bit (s.mem.readNat 0x4040 8) 63 = false ∧
      (s.die 0).resps = []) ∧
    (let c : Access := { va := 0x4040, w := 64, op := .push 7 false, tag := .i64, vec := false, acq := true }
     let s := (st 0xCB000000 (w64 0x4040) (w64 7) none none).park (.queue 0x4040) (some c) []
     let u := { s.modDie 1 fun y => { y with queues := [(0x4040, [.node 0 false 0 0 0])] } with
       mem := s.mem.writeN 0x4040 (leBytes 8 0x8000 ++ leBytes 8 4) }
     look 0x4040 (u.die 1).queues = some [.node 0 false 0 0 0] ∧ (u.held? 0 false 0 0 0).any (fun h => h.2.2.2.acc == some c) = true ∧ (u.queueAt 0x4040).any (fun q => queueLen q.2.2.1 q.2.2.2 != 2 ^ q.2.1 &&
      match u.translate 0 0 (q.1 + 8 * (q.2.2.2 % 2 ^ q.2.1)) .wr with
      | .ok _ _ => true
      | _ => false) = true) := by decide +kernel

/-- Messages at the head of a path: a write of two bytes at the end of the memory's address space, an atomic of eight bytes, a read and
MONA; and an empty path. -/
theorem witness_HomesServe : (∀ op ∈ [HomeOp.write (2 ^ 44 - 2) [0, 255], .amog .max 0x4000 8 1 0, .read 0x4000 128, .mona 0x4000 8],
      let m : Msg := { num := 1, stamp := Stamp.zero, op := op, req := .node 0 false 0 0 0 }
      let s := (base 0).modDie 3 fun y => { y.setPath 1 [m] with wcount := 1 }
      (s.die 3).path 1 = [m] ∧ s.covered 3 1 m = true ∧ s.inRing 0x4000 128 = false ∧
      (s.die 0).armed = [] ∧ s.logs m.req.strand = false ∧ (s.die 3).path 0 = []) := by
  decide +kernel

/-- An access in flight whose response, good or bad, or acknowledgement has come. -/
theorem witness_AnswersArrive : (∀ bad ∈ [0, 0x10], let a : Access := { va := 0x4040, w := 8, op := .load, tag := .i64, vec := false, acq := false }
      let q : Resp := { req := .node 0 false 0 0 0, bytes := leBytes 8 7, vec := Stamp.zero, home := 0, bad := bad }
      let s := ((st 0x80000004 (w64 0x4040) none none none).park .memory (some a) []).modDie 0 fun y => { y with resps := [q], acks := [q] }
      s.logs 0 = false ∧ (s.die 0).resps[0]? = some q ∧ (s.die 0).acks[0]? = some q ∧ (s.held? 0 false 0 0 0).any (fun h =>
        h.1.save.free && h.2.2.2.acc == some a && h.2.2.2.fire.k == 0 && h.2.2.2.why == .memory) = true) ∧
    (∀ page ∈ [1, 2 ^ 16],
      let w : Walk :=
        { ctx := 0, page := page, acc := 1, tile := 0, prio := 0, seq := none, declined := false, who := [.node 0 false 0 0 0]
          stamp := Stamp.zero }
      let s := ((base 0).modCtx 0 fun c => { c with fltring := 0x200005 }).modDie 0 fun y => { y with walks := [w] }
      (s.die 0).active[0]? = some w ∧ s.walkClear w = true ∧ (s.die 0).armed = [] ∧ s.recordOf 0 page = none ∧
      s.translate 0 0 0x200000 .wr = .ok 0x200000 (homeDie 0 0 0x200000) ∧ (s.ctx? 0).any (fun c => (s.walk c.root (page * 2 ^ 14)).isSome == (page == 1) &&
        bits c.fltring.toNat 4 0 != 0 && s.faultRoom 0 c) = true) := by decide +kernel

theorem witness_AnswersArrive_log : let a : Access := { va := 0x4040, w := 8, op := .load, tag := .i64, vec := false, acq := false }
    let s := ((st 0x80000004 (w64 0x4040) none none none).park .log (some a) (1 :: (leBytes 8 7).map (·.toNat))).modCtx 0 fun c =>
      { c with recctl := 1 + 12 * 4, recbuf := 0x200000 }
    s.logs 0 = true ∧ strandIs s (fun x => x.run.any fun r => (r.node? 0 0).any fun n => (n.pend.find? fun p => p.why == .log).any fun p =>
      p.acc == some a) = true ∧ (s.outcome 0 1 (logPayload false (leBytes 8 7))).isSome = true := by decide +kernel

/-- Bytes of a record or descriptor, given as fields of a size and a value. -/
def fields (l : List (Nat × Nat)) : List Byte := l.flatMap fun e => leBytes e.1 e.2

/-- A stream of strand 0 into its window 1: SGEN over two elements of 4 bytes, or SGRUN over one entry of two tokens. -/
def stream0 (run : Bool) (wait pos : Nat) : Stream :=
  { k := 0, w := 1, run := run, addr := 0x4000, pos := pos, tok := 0,
    recd := if run then fields [(8, 0x5000), (4, 1), (4, 4), (4, 2), (8, 0x9000), (1, 0), (1, 5), (2, 0)]
      else fields [(8, 0x6000), (8, 64), (8, 0), (8, 0), (4, 2), (4, 1), (4, 1), (4, 4), (1, 0), (1, 5), (14, 0)],
    ent := if run ∧ wait = 0 then fields [(8, 0x6000), (4, 2), (4, 0)] else [], captured := true, wait := wait, handle := 0,
    stamp := Stamp.zero, node := none, reg := false }

/-- Strand 0 with that stream on generator 0 of tile 0, and an entry of its run list. -/
def streaming (t : Stream) (f : Nat) : State :=
  let s := (withWin (base 0x0A020C85) 1 (win 0 .f32 1 4 f)).modDie 0 fun y => { y with streams := [(0, t)] }
  { s with mem := s.mem.writeN 0x5000 (fields [(8, 0x6000), (4, 2), (4, 0)]) }

theorem witness_StreamGeneratorEvents : (∀ run ∈ [true, false], let t := stream0 run 0 0
      let s := streaming t 3
      look 0 (s.die 0).streams = some t ∧ t.atEnd = false ∧ (t.run = true → t.ent ≠ []) ∧ (s.win? 0 1).any (fun w => !w.eos && w.free != 0) =
        true ∧ strandIs s (fun x => x.save.free && x.die == 0 && s.readable x t.stamp (if t.run then t.tokenAddr else t.genAddr)
          t.rowBytes && t.rowBytes == 4) = true) ∧
    (∀ run ∈ [true, false], let t := stream0 run 0 2
      t.atEnd = true ∧ bit t.flags 5 = false ∧ (streaming t 0).streamNode? 0 0 0 t = none) ∧
    (let s := streaming (stream0 true 1 0) 0
     (freeKey 8192 (s.die 0).store).isSome = true ∧ (s.ctx? 0).any (fun c => bit c.hamode.toNat 0) = false ∧
     ((s.modCtx 0 fun c => { c with hamode := 1 }).ctx? 0).any (fun c => bit c.hamode.toNat 0) = true) ∧
    (∀ wait ∈ [2, 5], let t := stream0 true wait 0
     let s := streaming t 0
     s.task? t.handle = none ∧ strandIs s (fun x => s.readable x (t.stamp.join s.depAll) t.entryAddr 16) = true ∧
      t.entryAddr = 0x5000 ∧ t.entryOk (s.vpeek 0 0 0x5000 16) = true ∧ bit (fieldOf (s.vpeek 0 0 0x5000 16) 12 1) 0 = false) := by
  decide +kernel

/-- A stream whose SGEN node waits for its end. -/
theorem witness_StreamGeneratorEvents_node : let t := { stream0 false 0 2 with node := some (0, 0) }
    let s := ((st 0x94000001 (w64 0x4000) none none none).park (.stream 0 0 0) none []).modDie 0 fun y => { y with streams := [(0, t)] }
    (s.streamNode? 0 0 0 t).isSome = true ∧ t.atEnd = true := by decide +kernel

/-- A copy record of two rows of 4 bytes from 0x6000 to 0x7000, or to window 1, with its flags. -/
def copy0 (kind fl dst : Nat) : List Byte :=
  fields [(8, 0), (8, 0x6000), (8, dst), (4, 4), (4, 2), (8, 64), (8, if fl = 64 then 0 else 64), (1, kind), (1, fl), (2, 5),
    (4, 9), (8, 0)]

/-- Strand 0 whose copy chain 127 stands as given, the record at 0x4000, n events in its queue. -/
def copying (c : CopyChain) (n : Nat) : State :=
  let s := (withWin (base 0x01000000) 1 (win 0 .f32 1 4 3)).modStrand 0 fun x =>
    { x with copies := [(127, c)], events := List.replicate n 0 }
  { s with mem := (s.mem.writeN 0x4000 (copy0 0 0 0x7000)).writeN 0x4800 (leBytes 8 0x4000) }

theorem witness_CopyChainEvents_capture : ∀ pos ∈ [0, 0x4800],
    let c := { CopyChain.zero with first := 0x4000, tail := 0x4000, pos := pos }
    let s := copying c 0
    (c.cstate = .idle ∧ c.tail ≠ c.pos) ∧ strandIs s (fun x => x.save.free && x.copy 127 == c && s.readable x c.stamp 0x4000 64 &&
      s.readable x (c.stamp.join s.depAll) 0x4000 64 && (pos == 0 || s.readable x c.stamp pos 8) &&
      (pos == 0 || leNat (s.vpeek 0 0 pos 8) == 0x4000)) = true ∧
    copyRecordOk (s.vpeek 0 0 0x4000 64) = true ∧ fieldOf (s.vpeek 0 0 0x4000 64) 48 1 = 0 ∧
    bit (fieldOf (s.vpeek 0 0 0x4000 64) 49 1) 6 = false := by decide +kernel

theorem witness_CopyChainEvents_row : (∀ kind ∈ [0, 2],
      let c := { CopyChain.zero with tail := 0x4000, pos := 0x4000, cstate := .running, recd := copy0 kind 0 0x7000, row := 1 }
      let s := copying c 0
      c.row < fieldOf c.recd 28 4 ∧ fieldOf c.recd 48 1 = kind ∧ strandIs s (fun x =>
        (match s.dread 0 0 ⟨0, .chain 0 127⟩ c.stamp .rd false 0x6040 4 with
          | .ok (bs, st, u) => bs.length == 4 && (match ((u.modCopy 0 127 fun c => { c with stamp := st, serv := false }).countRange 0 0 .rd 0x6040 4).dwrite 0 0
                ⟨0, .chain 0 127⟩ st (.chain 0 127) true 0x7040 bs with
            | .ok _ => true
            | _ => false)
          | _ => false) && x.engineWaits == []) = true) ∧
    (∀ f ∈ [3, 4], let c := { CopyChain.zero with tail := 0x4000, pos := 0x4000, cstate := .running, recd := copy0 0 64 1, win := some (0, 1) }
     let s := withWin (copying c 0) 1 (win 0 .f32 1 4 f)
     fieldOf c.recd 48 1 = 0 ∧ (s.win? 0 1).any (fun w => w.tag == Tag.ofCode (fieldOf c.recd 50 2) && !w.eos &&
      (w.free == 0) == (f == 4)) = true ∧ strandIs s (fun x => s.readable x c.stamp 0x6000 4 && x.engineWaits == []) = true) := by
  decide +kernel

theorem witness_CopyChainEvents_complete : ∀ e ∈ [(0, 0), (32, 63), (32, 64)],
    let c := { CopyChain.zero with tail := 0x4000, pos := 0x4000, cstate := .running, recd := copy0 0 e.1 0x7000, row := 2 }
    strandIs (copying c e.2) (fun x => x.copy 127 == c && x.engineWaits == [] && decide (fieldOf c.recd 28 4 ≤ c.row) &&
      bit c.flags 5 == (e.1 == 32) && x.events.length == e.2 && !c.aborting && c.cstat == 0 &&
      x.eventTurn 127 == decide (e.2 < 64)) = true := by decide +kernel

/-- A barrier record (kind 3) or an exchange (kind 2) of 4 values, and its group of two members of which this die is the first; the
second stands on a package and a die. -/
def coll0 (kind n : Nat) : List Byte :=
  fields [(8, 0), (8, 0x5000), (8, if kind = 2 then 0x6000 else 0), (8, if kind = 2 then 0x7000 else 0), (4, n),
    (4, if kind = 2 then 1 else 0), (1, kind), (1, 0), (1, 0), (1, 5), (4, 9), (16, 0)]

def group0 (pkg die : Nat) : List Byte :=
  fields [(4, 2), (4, 0), (8, 77), (8, 0x8000), (40, 0), (8, 0), (8, pkg + die * 2 ^ 18)]

/-- The step of that record. -/
def waitStep (kind n : Nat) (notice sent : Bool) : CollStep :=
  { key := 77, kind := kind, s := 0, n := n, p := 2, r := 0, q := 1, tag := .f32, flags := 0, seqv := 9,
    src := if kind = 2 then 0x6000 else 0, dst := if kind = 2 then 0x7000 else 0, scr := 0x8000, qpkg := 0, qdie := 1,
    notice := notice, sent := sent, got := false, kept := none }

/-- Strand 0 whose collective chain 15 stands as given, with messages under way. -/
def collective (c : CollChain) (kind n pkg : Nat) (net : List NetMsg) : State :=
  let s := (base 0x01000000).modStrand 0 fun x => { x with colls := [(15, c)] }
  { s with
    mem := (s.mem.writeN 0x4000 (coll0 kind n)).writeN 0x5000 (group0 pkg 1)
    net := net
    jobmap := [(0, Job.mk 0 []), (5, Job.mk 1 [2])] }

theorem witness_CollectiveEvents_start : ∀ pkg ∈ [0, 5],
    let c := { CollChain.zero with first := 0x4000, tail := 0x4000 }
    let s := collective c 3 0 pkg []
    let r := s.vpeek 0 0 0x4000 64
    strandIs s (fun x => x.save == .running && x.coll 15 == c && s.readable x c.stamp 0x4000 64 && fieldOf r 8 8 == 0x5000 &&
      s.readable x (c.stamp.join s.depAll) 0x5000 80 && fieldOf (s.vpeek 0 0 0x5000 64) 0 4 == 2) = true ∧
    (stepOf (s.jobmap.map (·.1)) r (s.vpeek 0 0 0x5000 80)).any (fun t => t == { waitStep 3 0 false false with qpkg := pkg }) = true ∧
    s.pkg = 0 ∧ (s.die 0).notices = [] := by decide +kernel

theorem witness_CollectiveEvents_silent : let c := { CollChain.zero with step := some (waitStep 3 0 false false), cstate := .waiting, wait := 100 }
    let s := (collective c 3 0 0 []).modCtx 0 fun z => { z with clbnd := 100 }
    strandIs s (fun x => x.coll 15 == c) = true ∧ bit (waitStep 3 0 false false).flags.toNat 5 = false ∧
    ((s.ctx? 0).map fun z => bits z.clbnd.toNat 47 0) = some 100 := by decide +kernel

/-- A notice, data and an abort from the partner, for the step of strand 0's chain and for none. -/
theorem witness_CollectiveEvents_messages : ∀ e ∈ [(3, 0, NetMsg.notice 0 0 77 3 0 0 .f32 1, false, false),
      (2, 4, .data 0 0 77 2 0 1 (leBytes 16 5), true, true), (2, 4, .abort 0 0 77 2 0 1, true, false)],
    let t := waitStep e.1 e.2.1 e.2.2.2.1 e.2.2.2.2
    let c := { CollChain.zero with step := some t, cstate := .waiting }
    let s := collective c e.1 e.2.1 0 [e.2.2.1]
    s.net[0]? = some e.2.2.1 ∧ s.pkg = 0 ∧ s.behind 0 = false ∧ s.stepsOf 0 true = [(0, 15, t)] ∧ s.stepsOf 0 false = [(0, 15, t)] ∧ t.matches 77 e.1 0 1 = true ∧
    (collective CollChain.zero 3 0 0 [e.2.2.1]).stepsOf 0 true = [] ∧
    strandIs s (fun x => x.save.free && s.reachable x x.lead c.stamp 0x7000 16 && !(x.coll 15).aborting) = true := by decide +kernel

/-- A Geode command of strand 0 in its first step, or past its last one, over tree 0 with a row of a window's first element. -/
def geode (w j : Nat) (g : Tree) (r : GNode) (rows : List (Nat × Row)) (tk : List (Nat × Ticket)) : State :=
  let s := withTree (st w (w64 1) none none none) g r
  let s := withWin (s.park (.geode 0 0 0 0 1) none [j, 0, 0]) 1
    { win 0 .i64 1 4 0 with
      rows := rows
      tail := BitVec.ofNat _ rows.length
      filler := BitVec.ofNat 16 (engineIdent 3 0 0)
      drainer := BitVec.ofNat 16 (engineIdent 3 0 0) }
  s.modDie 0 fun y => { y with tickets := tk }

/-- An element that names ticket 0 of tree 0, with the value 1.0 and one child of action 7, and the ticket of the root. -/
def elem0 : Row := { data := BitVec.ofNat 1024 (0x3F800000 * 2 ^ 64 + 2 ^ 96 + 7 * 2 ^ 128), side := 0, tag := .i64, valid := 0xFFFFFFFF, bad := false }

def ticket0 : Ticket := { serial := 0, ctx := 0, tree := 0, leaf := 0, issuer := 0, order := 0 }

/-- A tree with one record in use. -/
def tree1 : Tree := { tree0 with next := 1 }

/-- The root before its expansion. -/
def root1 : GNode := GNode.fresh 0 0 noIndex 1

theorem witness_GeodeSteps_ends : ∀ e ∈ [(0xB2000010, Instr.gtdesc .always 1 0 .none), (0xB3000010, .gtexp .always 1 0 .none),
      (0xB4000010, .gtback .always 1 0 .none), (0xB5000010, .gtvl .always 1 0 .none)], ∀ j ∈ [0, 1],
    let s := geode e.1 j tree1 root1 [] []
    (s.oldest? 0 0 0).any (fun q => q.2.1 == e.2 && q.2.2.fire.k == 0 && !q.2.2.reg && q.2.2.why == .geode 0 0 0 0 1 &&
      q.2.2.prog == [j, 0, 0] && stepCount q.2.2.fire == 1) = true ∧ s.logs 0 = false ∧
    (s.win? 0 1).any (fun v => v.filler == BitVec.ofNat 16 (engineIdent 3 0 0) && v.drainer == BitVec.ofNat 16 (engineIdent 3 0 0)) = true := by
  decide +kernel

theorem witness_GeodeSteps_steps : ∀ tk ∈ [[], [(0, ticket0)]], let s := geode 0xB3000010 0 tree1 root1 [(0, elem0)] tk
    s.tree? 0 0 0 = some tree1 ∧ (freeKey 64 (s.die 0).tickets).isSome = true ∧ tree1.root = true ∧ (s.die 0).armed = [] ∧
    (GNode.ofBytes (s.vpeek 0 0 (tree1.at 0) 32)).expanded = false ∧ tree1.queue = [] ∧ tree1.at 0 % 64 = 0 ∧
    strandIs s (fun x => let st := tree1.stamp.join x.stamp
      s.readable x st (tree1.at 0) 32 && s.writable x (tree1.at 0 + 14) 2 && s.writable x (tree1.at 0) 32 &&
      (elemOf elem0).any fun e => childrenAt elem0 e.k == some (.inl [7]) && (s.ticket? 0 0 0 e).isSome == (tk != []) && e.k == 1 &&
        (q32 e.v).isSome && (tree1.alloc e.k).any fun a => (expandWrites tree1 a.2 a.1 [7] 0
          (GNode.ofBytes (s.vpeek 0 0 (tree1.at 0) 32)) e.term).all fun r => s.writable x r.1 r.2.length) = true ∧
    (s.win? 0 1).any (fun v => !v.vmode && decide (0 < v.extent) && !(v.row 0 0).bad && v.row 0 0 == elem0) = true ∧
    s.translate 0 0 (tree1.at 0 + 14) .wr = .ok (tree1.at 0 + 14) 0 := by decide +kernel

theorem witness_HostEventsAndSaves_trees : (let g := { tree0 with queue := [(1, 2, 0)] }
      let s := withTree (base 0) g { root0 with expanded := false }
      let x : Strand := { Strand.init with ctx := 0, die := 0 }
      s.tree? 0 0 0 = some g ∧ s.readable x (g.stamp.join x.stamp) (g.at 1) 64 = true ∧
      ((headWrites g { g.freeRun 1 2 with queue := [] }).all fun r => s.writable x r.1 r.2.length) = true) ∧
    (let g := { tree0 with growing := true }
     (withTree (base 0) g root0).tree? 0 0 0 = some g ∧ g.cap < 8 ∧ 8 ≤ g.limit) ∧
    (let s := (base 0x01000000).modStrand 0 fun x => { x with phase := .edge, splpost := some 0x08 }
     strandIs s (fun x => x.phase == .edge && x.save.free && x.splpost == some 8) = true) ∧
    (let s := ((st 0x80000004 (w64 0x4040) none none none).park .log none []).modCtx 0 fun c => { c with recctl := 3 }
     (s.ctx? 0).any Ctx.playing = true ∧ strandIs s (fun y => y.ctx == 0) = true ∧ s.diverges 0 2 = true ∧ s.diverges 0 3 = false) := by
  decide +kernel

theorem witness_HostEventsAndSaves_saves : (∀ v ∈ [SaveSt.asked 0x1000000 true none, .running],
      let s := (base 0x01000000).modStrand 0 fun x => { x with save := v, dbgctl := 1, asked := 256, shrink := some (1, 2, none) }
      (∀ d ∈ [0, 1, 2, 3], (s.die d).wfover = []) ∧ strandIs s (fun x => x.quiescent && x.save == v && x.phase == .run && x.asked == 256 &&
        x.shrinks 1 2 && (x.unsettled (x.region.shrunk 1 2)).isEmpty && (x.run.all fun r => !r.blk.isFabric) && bit x.dbgctl.toNat 0 &&
        !x.halted) = true) ∧
    strandIs ((base 0).modStrand 0 fun x => { x with save := .saving 0x1000000 false none })
      (fun x => x.save == .saving 0x1000000 false none) = true := by decide +kernel

/-- Operands of which the right one is POISON, under the three predicates. -/
theorem witness_PoisonPasses : ∀ e ∈ [(PMode.always, (none : Option Tok)), (.onTrue, sc .pred 1), (.onFalse, sc .pred 0)],
    let s := st 0x10021485 (w64 5) (some (Tok.poisonOf 0x11 9 0)) e.2 (w64 3)
    s.here?.isSome = true ∧ s.fire.sense e.1 = true ∧ s.fire.poison? = some (Tok.poisonOf 0x11 9 0) := by decide +kernel

theorem witness_PoisonPasses_memory : ∀ e ∈ [(0x81000004, false, true), (0x30022400, true, false)],
    ((base e.1).run? 0).any (fun r => r.blk.isFabric == e.2.1 && (r.blk.instr? (slotOf e.1)).any fun i => Instr.memory i == e.2.2) = true := by
  decide +kernel

theorem witness_DataflowFrame : ∀ i ∈ [Instr.movt .always (.left 3) (.left 5), .exit .always 0, .add .always (.left 5) .none],
    Instr.dataflow i = true ∧ (match exec i (st 0x10021485 (w64 5) (w64 7) none none) with
      | .next _ => true
      | _ => false) = true := by decide +kernel

theorem witness_MemoryIssueFrame : ∀ i ∈ [Instr.ldg .always true .i64 .none, .stg .always true .i64 .none, .mwait .always .none],
    let s := st 0x86000134 (w64 0x4040) (w64 1) none none
    Instr.memory i = true ∧ s.logs 0 = false ∧ (match exec i s with
      | .next _ => true
      | _ => false) = true := by decide +kernel


/-! ### Forms that the statements take in beside the plain ones -/

/-- Masked members with every operand, and FSCALE with a vector of exponents. -/
theorem witness_FloatUnary_masked : (let s := floats (some (Tok.vectorOf .pred ((List.range 128).map (· % 2)) 0))
      s.fire.right.any (·.tag == .f32) = true ∧ s.fire.third.any (·.tag == .f32) = true ∧ s.fire.left.any (·.tag == .f32) = true) ∧
    (let s := st 0x30046400 (vec .f16) (vec (widthInt .f16)) none none
     s.ready .always = true ∧ s.fire.right.any (fun n => !n.scalar && n.tag == widthInt .f16) = true) := by decide +kernel

/-- A row of B comes in while the operand window holds one tile, claims apart. -/
theorem witness_MatrixRows_fill : let w := (operand .bf16).release 31
    let s := matrix 0x63122400 (vec .bf16) (vec .f16) (sc .i8 0) w
    s.ready .always = true ∧ (s.site?.map (·.2)) = some (0, 1) ∧ w.free ≠ 0 ∧ w.frow = 0 ∧ w.extent = 1 ∧
    s.fire.right.any (·.tag != .mark) = true ∧ matPair .bf16 (w.row 0 0).tag = true ∧ (w.row 0 63).bad = false := by decide +kernel

/-- A descent of two records, and a ticket of a child whose path climbs to the root. -/
theorem witness_GeodeSteps_paths : (let s := geode 0xB2000010 0 tree0 root0 [] []
      let node := fun (n : Nat) => GNode.ofBytes (s.vpeek 0 0 (tree0.at n) 32)
      let path := tree0.route (fun n => nodesOf n.count (s.vpeek 0 0 (tree0.at n.first) (32 * n.count))) tree0.cap [(0, node 0)]
      path.length = 2 ∧ strandIs s (fun x => (path.drop 1).all (fun e => s.readable x x.stamp (tree0.at e.2.first) (32 * e.2.count)) &&
        path.all fun e => s.writable x (tree0.at e.1 + 14) 2) = true) ∧
    (let s := geode 0xB4000010 0 tree0 root0 [(0, elem0)] [(0, { ticket0 with leaf := 1 })]
     let s := { s with mem := s.mem.writeN 0x10020 (GNode.fresh 5 7 0 1).bytes }
     let node := fun (n : Nat) => GNode.ofBytes (s.vpeek 0 0 (tree0.at n) 32)
     let path := climb node (tree0.cap + 1) 1
     path.map (·.1) = [1, 0] ∧ (elemOf elem0).any (fun e => (s.ticket? 0 0 0 e).any fun t => t.leaf == 1) = true ∧
      strandIs s (fun x => path.all fun m => s.readable x x.stamp (tree0.at m.1) 32 && s.writable x (tree0.at m.1) 32) = true) := by
  decide +kernel

/-- The wait of strand 0 closes a cycle with strand 2's, waits for a strand that waits in turn, or is on the strand itself. -/
theorem witness_WaitsRegisterAndCycles_register : ∀ c ∈ [(2, some 0, true), (2, some 5, false), (0, none, true)],
    let s := (withWin waiting 0 { win 0 .f32 1 4 0 with filler := BitVec.ofNat 16 (strandId c.1) }).modDie 0 fun y =>
      { y with wft := match c.2.1 with
          | some j => [(1, waitEntry (1, 8, 0, strandId j) (.node 2 0 0) 0 0)]
          | none => [] }
    strandIs s (fun x => x.phase == .run && s.canTrap x && s.untraced x && x.working && x.run.any fun r => (r.node? 0 0).any fun m =>
      (m.unregistered? s 0).any fun q =>
        let e := waitEntry q.2 (.node 0 0 0) x.ctx (s.waitIter q.1)
        let regd := fun (v : Pend) => if v = q.1 then { v with reg := true } else v
        let u := (s.modRun 0 fun r => r.modNode 0 0 fun m =>
          { m with pend := m.pend.map regd }).modDie 0 fun y =>
            { y with wft := put 0 e y.wft }
        !s.haltedId e.owner.toNat && (u.cycleOf 32 e).isSome == c.2.2 && (e.owner == e.waiter) == (c.1 == 0) &&
          ((u.cycleOf 32 e).getD []).all fun f => !f.hmark) = true ∧
    s.hostDetects 0 = false ∧ freeKey 4096 (s.die 0).wft = some 0 := by decide +kernel

/-- A row that has been read and waits with the chain, for memory and for a window with room or none. -/
theorem witness_CopyChainEvents_got : ∀ f ∈ [3, 4],
    let c := { CopyChain.zero with
      tail := 0x4000, pos := 0x4000, cstate := .running, recd := copy0 0 64 1, win := some (0, 1), got := some (leBytes 4 7) }
    let s := withWin (copying c 0) 1 (win 0 .f32 1 4 f)
    (s.win? 0 1).any (fun w => !w.eos && (w.free == 0) == (f == 4)) = true ∧ s.openTo 0 = true ∧ c.row < fieldOf c.recd 28 4 ∧
    strandIs s (fun x => x.engineWaits == [] && match s.dwrite 0 0 ⟨0, .chain 0 127⟩ c.stamp (.chain 0 127) true 0x7000 (leBytes 4 7) with
      | .ok _ => true
      | _ => false) = true := by decide +kernel

/-- A record of 320 bytes posted to a context that is not open. -/
theorem witness_ContextsAndRegisters_closed : (base 0).ctx? 5 = none ∧ (base 0).recovery = false ∧
    ((List.range 320).all fun i => (base 0).backed (0x200000 + i) 1 && (base 0).backing (0x200000 + i) == 0x200000 + i) = true ∧
    leNat (((leBytes 320 (0x4000 * 2 ^ 192)).drop 24).take 8) = 0x4000 := by decide +kernel

/-- A shrink that moves the lead tile, and one of a fabric block that has had no effect. -/
theorem witness_HostEventsAndSaves_shrinks : (let g : Region := { placedRegion with c := 1 }
      let x : Strand := { Strand.init with lead := g.lead, phase := .run, region := g, run := some (placedRun [0x0A020C85#32]) }
      let h := g.shrunk 2 1
      strandKey 0 g.lead = 2 ∧ strandKey 0 h.lead = 17 ∧ x.shrinks 2 1 = true ∧ x.unsettled h = []) ∧
    (let s := (base 0x30022400).modStrand 0 fun x => { x with asked := 256, shrink := some (1, 2, none) }
     strandIs s (fun x => x.quiescent && x.shrinks 1 2 && x.run.any fun r => (x.unsettled (x.region.shrunk 1 2)) == [r] && r.pristine &&
      match s.foldsOn x (x.region.shrunk 1 2) [r.blk.addr] with
      | .ok (true, u) => u.strands == s.strands
      | _ => false) = true ∧ strandKey 0 (placedRegion.shrunk 1 2).lead = 0) := by decide +kernel
end Sys2Proof.Tests
end

section
/-! SUPPORT. BUSTX where two strands stand under one key (R157): a state that the obligation about fabric control does not leave
out, and its refutation there. -/

namespace Sys2Proof.Machine

open Sys2Proof

/-- A fabric block of BUSTX at slot 0 and BUSRX of identifier 0 at slot 1. -/
def busBlock : Block :=
  { addr := 0x4000, htype := 1, ninst := 1, rows := 0, cols := 0, nchain := 0, nstore := 0, nexit := 0, rdmask := 0, wrmask := 0,
    nmseq := 0, nconv := 0, fold := 0, rsid := 0, words := [0x99000000, 0x9A000000], exits := [] }

/-- A node of that block that has begun a number of iterations. -/
def busNode (slot fired : Nat) : Node :=
  { copy := 0, slot := slot, cfg := true, fired := fired, done := fired, pend := [], out := [], carry := none, stopped := false }

/-- The link by which BUSTX reaches BUSRX (R157). -/
def busLink : Link := { copy := 0, src := 0, b := false, slot := 1, pos := .third, items := [], const := none }

/-- The block under way with its links: BUSRX is past iteration 0, BUSTX is not. -/
def busRun (links : List Link) : Run :=
  { blk := busBlock, nodes := [busNode 0 0, busNode 1 1], links := links, regw := [], stackOps := [], traps := [], exits := [],
    chains := [], mstop := false, head0 := 0, kstore := 0, hand := false }

/-- A strand that runs it. -/
def busStrand (links : List Link) : Strand := { Strand.init with phase := .run, run := some (busRun links) }

/-- Two strands under key 0, the second with the link that the first does not have. BUSTX fires with an I64 token and
identifier 0. -/
def busTwins : State :=
  { State.reset with
    strands := [(0, busStrand []), (0, busStrand [busLink])]
    fire := { Firing.zero with left := some (Tok.i64 7 0), right := some (Tok.i64 0 0) } }

/-- Items on the links of a state's running blocks. -/
def State.linkItems (s : State) : Nat :=
  (s.strands.map fun e => e.2.run.elim 0 fun r => (r.links.map fun l => l.items.length).sum).sum

theorem i64Operand_i64 (v : Nat) (m : BitVec 5) : i64Operand (some (Tok.i64 v m)) = .ok (Tok.i64 v m).word.toNat := by
  have hs : (Tok.i64 v m).scalar = true ∧ (Tok.i64 v m).tag = .i64 := ⟨rfl, rfl⟩
  simp only [i64Operand, if_pos hs]

theorem busTwins_names_zero : i64Operand busTwins.fire.right = .ok 0 := by
  have hw : (Tok.i64 0 0).word.toNat = 0 := by decide +kernel
  change i64Operand (some (Tok.i64 0 0)) = _
  rw [i64Operand_i64, hw]

/-- BUSTX reads the first strand's run, where the link's consumer has had its token of iteration 0: it sends nothing over the
second's link. -/
theorem bustx_busTwins_linkItems :
    ∃ t, exec (.bustx .always .none .none) busTwins = .next t ∧ t.linkItems = 0 :=
  ⟨_, rfl, by decide +kernel⟩

/-- Refutes O30, by its clause about BUSTX: an update of a running block reaches every strand under the key, and the clause
says that BUSTX sends to a receiver of the second strand too, which the model does not. That keys are distinct is no hypothesis. -/
theorem not_fabricControl : ¬ Obligations.FabricControl := by
  unfold Obligations.FabricControl
  rintro ⟨-, h⟩
  obtain ⟨bustx, -⟩ := h busTwins .always .none .none (busStrand []) (busRun []) (busNode 0 0) (Tok.i64 7 0)
    (by decide +kernel) (by decide +kernel) rfl
  have hsent := bustx 0 (by decide) busTwins_names_zero (by decide) (by decide +kernel)
  obtain ⟨t, ht, hnone⟩ := bustx_busTwins_linkItems
  rw [ht] at hsent
  injection hsent with hsent
  rw [hsent] at hnone
  exact absurd hnone (by decide +kernel)

end Sys2Proof.Machine
end

section
/-! SUPPORT. Launches and grants (R239, R309 to R311, R340 to R343): what the operations that they are made of leave alone, one
law for each outcome of an event, and the obligation about them. -/

namespace Sys2Proof.Machine

open Sys2Proof

/-! ### Bytes written and read back -/

@[simp] theorem leBytes_length (n v : Nat) : (leBytes n v).length = n := by
  induction n generalizing v with
  | zero => rfl
  | succ n ih => simp [leBytes, ih]

/-- A list of bytes written is the list read. -/
theorem Memory.readN_writeN (m : Memory) (a : Nat) (bs : List Byte) : (m.writeN a bs).readN a bs.length = bs := by
  refine List.ext_getElem (by simp [Memory.readN]) fun i _ h => ?_
  simp [Memory.readN, Memory.read_writeN_at m a i bs h]

@[simp] theorem Completion.bytes_length (r : Completion) : r.bytes.length = 16 := by simp [Completion.bytes]

/-! ### Updates that keep strands and regions -/

/-- Two states agree on what a grant changes: strands, the latch and every die's regions. -/
def State.sameGrants (s t : State) : Prop :=
  t.strands = s.strands ∧ t.fire = s.fire ∧ ∀ d, (t.die d).regions = (s.die d).regions

theorem State.sameGrants_refl (s : State) : s.sameGrants s := ⟨rfl, rfl, fun _ => rfl⟩

theorem State.sameGrants_trans {s t u : State} (h : s.sameGrants t) (g : t.sameGrants u) : s.sameGrants u :=
  ⟨g.1.trans h.1, g.2.1.trans h.2.1, fun d => (g.2.2 d).trans (h.2.2 d)⟩

theorem State.sameGrants_modDie (s : State) (d : Nat) {f : Die → Die} (h : ∀ y, (f y).regions = y.regions) :
    s.sameGrants (s.modDie d f) := by
  refine ⟨rfl, rfl, fun e => ?_⟩
  by_cases he : e % 4 = d % 4
  · have same : ∀ t : State, t.die e = t.die d := fun t => by simp only [State.die, he]
    rw [same, same, State.die_modDie_same, h]
  · rw [State.die_modDie_other s he]

theorem State.die_mapDies (s : State) (f : Die → Die) (d : Nat) :
    ({ s with dies := s.dies.map f } : State).die d = f (s.die d) := by
  simp [State.die]

theorem State.sameGrants_mapDies (s : State) {f : Die → Die} (h : ∀ y, (f y).regions = y.regions) :
    s.sameGrants { s with dies := s.dies.map f } :=
  ⟨rfl, rfl, fun d => by rw [State.die_mapDies, h]⟩

theorem State.sameGrants_unreserve (s : State) (who : Nat) : s.sameGrants (s.unreserve who) :=
  s.sameGrants_mapDies fun _ => rfl

theorem State.sameGrants_poke (s : State) (pa : Nat) (bs : List Byte) : s.sameGrants (s.poke pa bs) :=
  State.sameGrants_mapDies { s with mem := s.mem.writeN pa bs } fun _ => rfl

theorem State.sameGrants_ringRecord (s : State) (d : Nat) (e : WfEnt) (op : Nat) : s.sameGrants (s.ringRecord d e op) :=
  State.sameGrants_trans (s.sameGrants_poke _ _) (State.sameGrants_modDie _ d fun _ => rfl)

theorem Die.leaveHost_regions (y : Die) : y.leaveHost.regions = y.regions := by
  simp only [Die.leaveHost]
  split <;> rfl

theorem State.sameGrants_leaveWait (s : State) (who : WaiterRef) (kind obj it : Nat) :
    s.sameGrants (s.leaveWait who kind obj it) := by
  simp only [State.leaveWait]
  split
  · exact s.sameGrants_modDie _ fun _ => Die.leaveHost_regions _
  · split
    · exact s.sameGrants_refl
    · refine State.sameGrants_trans ?_ (State.sameGrants_modDie _ _ fun _ => ?_)
      · split
        · exact s.sameGrants_ringRecord ..
        · exact s.sameGrants_refl
      · exact Die.leaveHost_regions _

/-- The end of a wait touches the wait-for table alone. -/
theorem State.sameGrants_endWait (s : State) (p : Pend) : s.sameGrants (s.endWait p) := by
  simp only [State.endWait]
  split
  · split
    · exact s.sameGrants_leaveWait ..
    · exact s.sameGrants_refl
  · exact s.sameGrants_refl

/-! ### Requests that are granted -/

/-- What is found for a request is a rectangle of the requester's context (R309). -/
theorem State.findRect_ctx {s : State} {who p ctx : Nat} {q : Request} {counts fits : Nat → Region → Bool} {d : Nat}
    {g : Region} (h : s.findRect who p ctx q counts fits = some (d, g)) : g.ctx = ctx := by
  obtain ⟨e, -, he⟩ := List.exists_of_findSome?_eq_some h
  obtain ⟨o, -, ho⟩ := Option.map_eq_some_iff.mp he
  cases ho
  rfl

/-- The regions that count once a request of priority p has freed what it may (R311): those of other strands, and those
that no strand runs on. -/
def State.afterFreeing (s : State) (p : Nat) (_ : Nat) (g : Region) : Bool := !(g.strand.any (s.freeables p).contains)

section Allocate

variable {s : State} {who ctx p d : Nat} {q : Request} {fits : Nat → Region → Bool} {g : Region}

theorem State.allocate_found (hh : s.heldFor who = none) (hf : s.findRect who p ctx q allCount fits = some (d, g)) :
    s.allocate who ctx p q fits = .at_ d g := by
  simp [State.allocate, hh, hf]

theorem State.allocate_preempts (hh : s.heldFor who = none) (hf : s.findRect who p ctx q allCount fits = none)
    (hp : s.findRect who p ctx q (s.afterFreeing p) fits = some (d, g)) :
    s.allocate who ctx p q fits = .waits (s.preemptAt who d g (s.freeables p)) := by
  unfold State.afterFreeing at hp
  simp [State.allocate, hh, hf, hp]

theorem State.allocate_posts (hh : s.heldFor who = none) (hf : s.findRect who p ctx q allCount fits = none)
    (hp : s.findRect who p ctx q (s.afterFreeing p) fits = none) :
    ∃ code, s.allocate who ctx p q fits = .no (s.postRequest p q) code := by
  unfold State.afterFreeing at hp
  simp [State.allocate, hh, hf, hp]

end Allocate

/-! ### LAUNCH_TAKE and LAUNCH_COMPLETION -/

/-- LHEAD moved past the record at slot number `head` (R342). -/
def Ctx.pastHead (head : Nat) (x : Ctx) : Ctx := { x with lhead := BitVec.ofNat 64 ((head + 1) % 2 ^ 32) }

/-- Where the record at LHEAD stands in the launch ring (R340, R342). -/
def Ctx.headAt (x : Ctx) : Nat := ringBase x.lring + x.lhead.toNat % 2 ^ ringSize x.lring * 320

section Take

variable {s : State} {c : Nat} {x : Ctx} (hx : s.ctx? c = some x) (hb : s.boot = 4) (hr : ringSize x.lring ≠ 0)
  (hd : x.lhead.setWidth 32 ≠ (x.ldoor.setWidth 32 : BitVec 32))
include hx hb hr hd

theorem execLaunchTake_hole (h : s.backed x.headAt 320 = false) :
    exec (.launchTake c) s = .fault (.physicalHole x.headAt) := by
  change execLaunchTake c s = _
  unfold Ctx.headAt at h ⊢
  simp [execLaunchTake, hx, hb, hr, hd, launchBytes, h]

/-- The record is read whole; LHEAD moves past it, and it is queued, or refused where it asks for a completion. -/
theorem execLaunchTake_backed (h : s.backed x.headAt 320 = true) (ha : (s.die 0).armed = []) :
    let bs := s.mem.readN (s.backing x.headAt) 320
    let comp := leNat ((bs.drop 24).take 8)
    let t := s.modCtx c (Ctx.pastHead x.lhead.toNat)
    (∀ l, launchOf bs x.lhead.toNat = some l → exec (.launchTake c) s = .next (t.modCtx c fun y => y.enqueue l)) ∧
    (launchOf bs x.lhead.toNat = none → exec (.launchTake c) s =
      .next (if comp = 0 then t else { t with done := t.done ++ [refusal c comp x.lhead.toNat] })) := by
  change (∀ l, _ → execLaunchTake c s = _) ∧ (_ → execLaunchTake c s = _)
  unfold Ctx.headAt at h ⊢
  refine ⟨fun l hl => ?_, fun hl => ?_⟩
  all_goals
    simp only [execLaunchTake, hx, hb, hr, hd, launchBytes, h, State.sensePieces_none ha, hl, ne_eq, not_true_eq_false,
      or_self, if_false, Option.isSome_none, Bool.false_eq_true]
    rfl

end Take

theorem execLaunchCompletion_hole {s : State} {c j : Nat} {r : Completion} (hj : s.done[j]? = some r) (hc : r.ctx = c)
    (hb : s.backed r.comp 16 = false) : exec (.launchCompletion c j) s = .fault (.physicalHole r.comp) := by
  change execLaunchCompletion c j s = _
  simp [execLaunchCompletion, hj, hc, hb]

theorem execLaunchCompletion_written {s : State} {c j : Nat} {r : Completion} (hj : s.done[j]? = some r) (hc : r.ctx = c)
    (hb : s.backed r.comp 16 = true) : exec (.launchCompletion c j) s = .next
      { s.poke (s.backing r.comp) r.bytes with done := s.done.eraseIdx j, signals := s.signals ++ [r.comp] } := by
  change execLaunchCompletion c j s = _
  simp [execLaunchCompletion, hj, hc, hb]

/-! ### LAUNCH_DISPATCH -/

/-- The registers that a launch gives its strand: those from s(n + 1) on hold the words of a list, those below stand as they
did. -/
theorem Strand.readReg_writeRegs (l : List Word) (x : Strand) (n : Nat) (h : n + l.length ≤ 31) :
    let z := (l.zipIdx n).foldl (fun (x : Strand) v => x.writeReg (v.2 + 1) v.1 .i64) x
    (∀ i v, l[i]? = some v → z.readReg (n + i + 1) = (v, .i64)) ∧ ∀ m, m ≤ n → z.readReg m = x.readReg m := by
  induction l generalizing x n with
  | nil => simp
  | cons w l ih =>
    simp only [List.length_cons] at h
    obtain ⟨above, below⟩ := ih (x.writeReg (n + 1) w .i64) (n + 1) (by omega)
    simp only [List.zipIdx_cons, List.foldl_cons]
    refine ⟨fun i v hv => ?_, fun m hm => ?_⟩
    · cases i with
      | zero =>
        cases hv
        rw [Nat.add_zero, below _ (Nat.le_refl _), Strand.readReg_writeReg_same _ _ _ _ (by omega)]
      | succ i =>
        rw [← above i v (by simpa using hv)]
        congr 1
        omega
    · rw [below m (by omega), Strand.readReg_writeReg_other _ _ _ (by omega)]

theorem launchStrand_readReg (l : Launch) (prio : Nat) (st : Stamp) (decls : List WinDecl) (g : Region) (k : Nat)
    (h : l.regs.length = 31) (i : Nat) (v : Word) (hv : l.regs[i]? = some v) :
    (launchStrand l prio st decls g k).readReg (i + 1) = (v, .i64) := by
  have := (Strand.readReg_writeRegs l.regs Strand.init 0 (by omega)).1 i v hv
  rwa [Nat.zero_add] at this

/-- A strand placed on a region stands under the key of its lead tile, and its region is its die's (R15). -/
theorem State.place_strand (s : State) (d : Nat) (g : Region) (x : Strand) :
    (s.place d g x).2.strand? (strandKey d g.lead) = some { x with
      ctx := g.ctx, die := d, lead := g.lead, region := { g with strand := some (strandKey d g.lead) } } :=
  look_put_same _ _ _

theorem State.place_region (s : State) (d : Nat) (g : Region) (x : Strand) :
    { g with strand := some (strandKey d g.lead) } ∈ ((s.place d g x).2.die d).regions := by
  have hd : (s.place d g x).2.die d = ((s.grantRegion d { g with strand := some (strandKey d g.lead) }).modDie d fun y =>
      { y with opwins := y.opwins.filter fun e => !g.holds e.1 }).die d := rfl
  rw [hd, State.die_modDie_same, State.grantRegion, State.die_modDie_same]
  exact List.mem_append_right _ List.mem_cons_self

theorem State.place_ctx (s : State) (d : Nat) (g : Region) (x : Strand) (c : Nat) :
    (s.place d g x).2.ctx? c = s.ctx? c := rfl

/-- A launch that has started blocks nothing (R239). -/
theorem Ctx.markStarted_blocked (x : Ctx) (l : Launch) : (x.markStarted l).blocked.contains l.q = false := by
  simp [Ctx.markStarted]

/-- A launch whose rectangle is found starts its strand there (R239). -/
theorem execLaunchDispatch_found {s : State} {c d : Nat} {x : Ctx} {l : Launch} {q : Request} {g : Region}
    (hx : s.ctx? c = some x) (hl : x.nextLaunch = some l) (hq : requestOf l.req.toNat = some q)
    (ha : s.allocate (launchWho c) c (x.queuePrio l.q) q anyRect = .at_ d g) :
    exec (.launchDispatch c) s = .next ((((s.unreserve (launchWho c)).place d g
      (launchStrand l (x.queuePrio l.q) s.depAll ((look l.entry x.decls).getD []) g (strandKey d g.lead))).2).modCtx c
        fun y => y.markStarted l) := by
  change execLaunchDispatch c s = _
  simp only [execLaunchDispatch, hx, hl, hq, ha]

/-- A queue of a context joins those whose next launch could not be granted its region (R239). -/
def State.blockQueue (s : State) (c q : Nat) : State :=
  s.modCtx c fun x => { x with blocked := if x.blocked.contains q then x.blocked else x.blocked ++ [q] }

/-- A launch that must wait for saves, or for which nothing fits, has its queue blocked (R239, R311). -/
theorem execLaunchDispatch_blocks {s u : State} {c : Nat} {x : Ctx} {l : Launch} {q : Request}
    (hx : s.ctx? c = some x) (hl : x.nextLaunch = some l) (hq : requestOf l.req.toNat = some q)
    (ha : s.allocate (launchWho c) c (x.queuePrio l.q) q anyRect = .waits u ∨
      ∃ code, s.allocate (launchWho c) c (x.queuePrio l.q) q anyRect = .no u code) :
    exec (.launchDispatch c) s = .next (u.blockQueue c l.q) := by
  change execLaunchDispatch c s = _
  obtain ha | ⟨code, ha⟩ := ha
  all_goals
    simp only [execLaunchDispatch, hx, hl, hq, ha]
    rfl

/-! ### WINDOW_PRELOAD -/

@[simp] theorem Stamp.at_join (a b : Stamp) (d : Nat) : (a.join b).at d = max (a.at d) (b.at d) := by
  simp [Stamp.at, Stamp.join]

/-- A window with other stamps of its slots. -/
def Win.restamp (w : Win) (st : List (Nat × Stamp)) : Win := { w with stamps := st }

/-- A row goes into a window whatever the stamps of its slots. -/
theorem Win.putRow_restamp (w : Win) (r : Row) (st : List (Nat × Stamp)) :
    (w.restamp st).putRow r = (w.putRow r).restamp st := by
  change (if w.frow + 1 = w.rpe then _ else _) = Win.restamp (if w.frow + 1 = w.rpe then _ else _) st
  split <;> rfl

theorem Win.putRow_stamps (w : Win) (r : Row) : (w.putRow r).stamps = w.stamps := by
  change ((w.restamp w.stamps).putRow r).stamps = w.stamps
  rw [w.putRow_restamp]
  rfl

theorem Win.putRows_stamps (l : List Row) (w : Win) : (l.foldl Win.putRow w).stamps = w.stamps := by
  induction l generalizing w with
  | nil => rfl
  | cons r l ih => rw [List.foldl_cons, ih, w.putRow_stamps]

/-- The window at entry e of strand k is w but for the stamps of its slots; the strand has seen what t covers, and memory is m. -/
def State.fillsTo (s : State) (m : Memory) (k e : Nat) (t : Stamp) (w : Win) : Prop :=
  s.mem = m ∧ ∃ y v, s.strand? k = some y ∧ look e y.wins = some v ∧ v.restamp w.stamps = w ∧
    ∀ d, t.at d ≤ y.stamp.at d

section Fills

variable {s : State} {m : Memory} {k e : Nat} {t : Stamp} {w : Win}

/-- A change of a strand that keeps its windows and makes it see no less. -/
theorem State.fillsTo_modStrand (h : s.fillsTo m k e t w) (j : Nat) {f : Strand → Strand} (hw : ∀ y, (f y).wins = y.wins)
    (hs : ∀ y d, y.stamp.at d ≤ (f y).stamp.at d) : (s.modStrand j f).fillsTo m k e t w := by
  obtain ⟨hm, y, v, hy, hv, hvw, ht⟩ := h
  by_cases hj : k = j
  · subst hj
    exact ⟨hm, f y, v, by rw [State.strand_modStrand_same, hy]; rfl, by rw [hw]; exact hv, hvw,
      fun d => Nat.le_trans (ht d) (hs y d)⟩
  · exact ⟨hm, y, v, by rw [State.strand_modStrand_other _ hj]; exact hy, hv, hvw, ht⟩

theorem State.fillsTo_soil (h : s.fillsTo m k e t w) (j tile kind i : Nat) : (s.soil j tile kind i).fillsTo m k e t w :=
  State.fillsTo_modStrand h j (fun y => by split <;> rfl) fun y d => by split <;> exact Nat.le_refl _

theorem State.fillsTo_foldl {α : Type} {f : State → α → State} (hf : ∀ u a, u.fillsTo m k e t w → (f u a).fillsTo m k e t w)
    (l : List α) (h : s.fillsTo m k e t w) : (l.foldl f s).fillsTo m k e t w := by
  induction l generalizing s with
  | nil => exact h
  | cons a l ih => exact ih (hf s a h)

theorem State.fillsTo_soilElem (h : s.fillsTo m k e t w) (j : Nat) (v : Win) (c : BitVec 32) :
    (s.soilElem j v c).fillsTo m k e t w :=
  State.fillsTo_foldl (fun _ _ hu => State.fillsTo_soil hu ..) _ h

theorem State.fillsTo_modWin (h : s.fillsTo m k e t w) {f : Win → Win} {z : Win}
    (hf : ∀ v, v.restamp w.stamps = w → (f v).restamp z.stamps = z) : (s.modWin k e f).fillsTo m k e t z := by
  obtain ⟨hm, y, v, hy, hv, hvw, ht⟩ := h
  exact ⟨hm, { y with wins := modAt e f y.wins }, f v, by rw [State.modWin, State.strand_modStrand_same, hy]; rfl,
    by rw [look_modAt_same, hv]; rfl, hf v hvw, ht⟩

/-- A fill of the window by its own strand, where the fill does not look at the stamps of slots. -/
theorem State.fillsTo_fillBy (h : s.fillsTo m k e t w) {f : Win → Win} (hf : ∀ v st, f (v.restamp st) = (f v).restamp st) :
    (s.fillBy k k e f).fillsTo m k e t (f w) := by
  have hsees : ∀ st, (s.sees k st).fillsTo m k e t w := fun st =>
    State.fillsTo_modStrand h k (fun _ => rfl) fun y d => by
      rw [Stamp.at_join]
      exact Nat.le_max_left _ _
  obtain ⟨-, y, v, hy, hv, -, -⟩ := h
  have hwin : s.win? k e = some v := by simp [State.win?, hy, hv]
  have hwin' : ∀ st, (s.sees k st).win? k e = some v := fun st => by
    simp [State.win?, State.sees, State.strand_modStrand_same, hy, hv]
  simp only [State.fillBy, hwin, State.fillWin, hwin']
  refine State.fillsTo_foldl (fun _ _ hu => State.fillsTo_soil hu ..) _
    (State.fillsTo_foldl (fun _ _ hu => State.fillsTo_soilElem hu ..) _ (State.fillsTo_modWin (hsees _) fun u hu => ?_))
  have hfu : f w = (f u).restamp w.stamps := by rw [← hf, hu]
  have hst : (f w).stamps = w.stamps := by rw [hfu]; rfl
  rw [hst, hfu]
  rfl

end Fills

theorem State.fillsTo_putRows {s : State} {m : Memory} {k e : Nat} {t : Stamp} (l : List Row) {w : Win}
    (h : s.fillsTo m k e t w) :
    (l.foldl (fun u r => u.fillBy k k e fun w => w.putRow r) s).fillsTo m k e t (l.foldl Win.putRow w) := by
  induction l generalizing s w with
  | nil => exact h
  | cons r l ih => exact ih (State.fillsTo_fillBy h fun v st => v.putRow_restamp r st)

/-- The lines that a preload counts are no part of any window (R58, R218). -/
theorem State.fillsTo_countPreload {s : State} {m : Memory} {k e : Nat} {t : Stamp} {w : Win} (h : s.fillsTo m k e t w)
    (x : Strand) (va n : Nat) (first : Bool) : (s.countPreload x va n first).fillsTo m k e t w := by
  simp only [State.countPreload]
  split
  · next qs _ =>
    obtain ⟨ds, hds⟩ := s.countPieces_dies x.die qs
    rw [hds]
    exact h
  · exact h

/-- What the declarations of a strand's launch preload (R35). -/
def State.preloadsOf (s : State) (x : Strand) : List (Nat × Nat × Nat × Bool) :=
  preloads (((s.ctx? x.ctx).bind fun c => look x.launch.entry c.decls).getD [])

section Preload

variable {s : State} {k n : Nat} {x : Strand} (hx : s.strand? k = some x) (hp : x.phase = .preload n)
include hx hp

theorem execWindowPreload_last (hn : (s.preloadsOf x)[n]? = none) :
    exec (.windowPreload k) s = .next (s.modStrand k fun y => { y with phase := .enter }) := by
  change execWindowPreload k s = _
  unfold State.preloadsOf at hn
  simp only [execWindowPreload, hx, hp, hn]

theorem execWindowPreload_fills {e va len : Nat} {first : Bool} {w : Win}
    (hn : (s.preloadsOf x)[n]? = some (e, va, len, first)) (hw : look e x.wins = some w)
    (hr : s.readable x x.stamp va len = true) :
    ∃ u : State, u.fillsTo s.mem k e (x.stamp.join s.depAll)
        ((w.rowsFrom w.tag (s.vpeek x.ctx x.die va len)).foldl Win.putRow w) ∧
      exec (.windowPreload k) s = .next (u.modStrand k fun y => { y with phase := .preload (n + 1) }) := by
  obtain ⟨u, hu, hus, -⟩ := State.dread_readable hr false x.asker
  have hlen : ¬ 2 ^ 56 < va + len := by
    simp only [State.readable, Bool.and_eq_true, decide_eq_true_eq] at hr
    omega
  have hux : u.strand? k = some x := by rw [← hx, ← hus]; rfl
  have huw : (u.modStrand k fun y => { y with stamp := x.stamp.join s.depAll }).win? k e = some w := by
    simp [State.win?, State.strand_modStrand_same, hux, hw]
  have hfill : (u.modStrand k fun y => { y with stamp := x.stamp.join s.depAll }).fillsTo s.mem k e
      (x.stamp.join s.depAll) w :=
    ⟨by rw [← hus]; rfl, { x with stamp := x.stamp.join s.depAll }, w, by rw [State.strand_modStrand_same, hux]; rfl, hw, rfl, fun _ => Nat.le_refl _⟩
  refine ⟨_, State.fillsTo_putRows _ (State.fillsTo_countPreload hfill x va len first), ?_⟩
  change execWindowPreload k s = _
  unfold State.preloadsOf at hn
  simp only [execWindowPreload, hx, hp, hn, hlen, hu, huw, if_false]

end Preload

/-! ### REGION_GRANT -/

/-- The first change is made where it changes something, the latch apart. -/
theorem State.firstChange_cons {s : State} {f : State → State} (fs : List (State → State))
    (h : ({ f s with fire := s.fire } : State) ≠ s) : s.firstChange (f :: fs) = { f s with fire := s.fire } := by
  simp only [State.firstChange, h, if_false]

theorem State.run_modRun_same (s : State) (k : Nat) (f : Run → Run) : (s.modRun k f).run? k = (s.run? k).map f := by
  rw [State.run?, State.modRun, State.strand_modStrand_same, State.run?]
  cases s.strand? k <;> rfl

/-- An operation in flight is one of its strand's. -/
theorem State.held_strand {s : State} {k copy slot iter : Nat} {hand : Bool} {x : Strand} {r : Run} {i : Instr} {p : Pend}
    (h : s.held? k hand copy slot iter = some (x, r, i, p)) : s.strand? k = some x := by
  unfold State.held? at h
  cases hs : s.strand? k with
  | none => simp [hs] at h
  | some y =>
    simp only [hs] at h
    obtain ⟨o, -, ho⟩ := List.exists_of_findSome?_eq_some h
    obtain ⟨r', -, hr'⟩ := Option.bind_eq_some_iff.mp ho
    split at hr'
    · cases hr'
    · split at hr'
      · obtain ⟨p', -, hp'⟩ := Option.map_eq_some_iff.mp hr'
        cases hp'
        rfl
      · cases hr'

theorem tgtA_rgnal (p : PMode) (a : Tgt) : tgtA (.rgnal p a) = a := targetOf_toNat a

/-- No item goes to a target B that is not named. -/
theorem Run.settle_none (r : Run) (f : Firing) (a : Tgt) (i j : Option Item) :
    r.settle f a .none i j = r.settle f a .none i none := by
  cases j <;> simp [Run.settle, outsOf]

/-- A queued RGNAL of its own context whose rectangle is found answers with its handle (R310, R321). -/
theorem tryRgnal_found {s : State} {x : Strand} {v d : Nat} {q : Request} {g : Region} (hx : s.strand? s.fire.k = some x)
    (hc : (s.ctx? x.ctx).isSome = true) (hl : wordOperand s.fire.left = .ok v) (hr : wordOperand s.fire.right = .ok x.ctx)
    (hq : requestOf v = some q) (hn : x.ctx ≤ 63) (ha : s.allocate s.queueNo x.ctx x.eff q anyRect = .at_ d g) :
    tryRgnal s = Try.status ((s.unreserve s.queueNo).grantRegion d g) (g.handle d) := by
  obtain ⟨y, hy⟩ := Option.isSome_iff_exists.mp hc
  simp [tryRgnal, State.issuer, hx, hy, hl, hr, hq, Nat.not_lt.mpr hn, ha]

/-- An operation in flight that is tried again and gives its token is settled with it, and the latch is as before. -/
theorem State.again_tok {s u : State} {p : Pend} {t : State → Try} {k : Tok} (sink : Bool) (a : Tgt)
    (h : t { s with fire := p.fire } = Try.tok u k) : s.again p sink a .none t =
      { (u.endWait p).settle a .none (some (.tok k)) (some (.tok k)) with fire := s.fire } := by
  simp only [State.again, h, Try.tok]

theorem State.grantRegion_regions (s : State) (d : Nat) (g : Region) :
    ((s.grantRegion d g).die d).regions = (s.die d).regions ++ [g] := by
  rw [State.grantRegion, State.die_modDie_same]

/-- The queued request that is served first answers, where its operation gives a token and a region joins a die's (R320). -/
theorem execRegionGrant_first {s : State} {c d : Nat} {g : Region} {p : Pend} {rest : List Pend} {x : Strand} {r : Run}
    {i : Instr} {t : State → Try} {u : State} {k : Tok} (hq : s.sysQueue c = p :: rest) (hh : s.holds p x r i)
    (hi : sysTry i = some t) (ht : t { s with fire := p.fire } = Try.tok u k) (hs : u.strands = s.strands)
    (hf : u.fire = p.fire) (hg : (u.die d).regions = (s.die d).regions ++ [g]) :
    ∃ z : State, exec (.regionGrant c) s = .next z ∧ g ∈ (z.die d).regions ∧
      z.run? p.fire.k = some (r.settle p.fire (tgtA i) .none (some (.tok k)) none) := by
  obtain ⟨hheld, hrun, -⟩ := hh
  obtain ⟨es, ef, eg⟩ := u.sameGrants_endWait p
  have hag := State.again_tok (s := s) true (tgtA i) ht
  generalize hz : ({ (u.endWait p).settle (tgtA i) .none (some (.tok k)) (some (.tok k)) with fire := s.fire } : State) = z
    at hag
  have hreg : (z.die d).regions = (s.die d).regions ++ [g] := by rw [← hg, ← eg d, ← hz]; rfl
  have hne : z ≠ s := fun e => by
    rw [e] at hreg
    simp at hreg
  refine ⟨z, ?_, by simp [hreg], ?_⟩
  · change execRegionGrant c s = _
    have hfire : ({ z with fire := s.fire } : State) = z := by rw [← hz]
    rw [execRegionGrant, hq, List.map_cons, State.firstChange_cons]
    · simp only [hheld, hi, hag, hfire]
    · simpa only [hheld, hi, hag, hfire] using hne
  · have hrun' : (u.endWait p).run? p.fire.k = some r := by rw [← hrun]; simp only [State.run?, State.strand?, es, hs]
    have hset : z.run? p.fire.k = ((u.endWait p).settle (tgtA i) .none (some (.tok k)) (some (.tok k))).run? p.fire.k := by
      rw [← hz]; rfl
    rw [hset, State.settle, ef, hf, State.run_modRun_same, hrun']
    exact congrArg some (Run.settle_none ..)

/-! ### The obligation -/

/-- Settles O44. LAUNCH_TAKE and LAUNCH_COMPLETION are their laws above; LAUNCH_DISPATCH follows the three outcomes of
`allocate`; WINDOW_PRELOAD keeps, row by row, what `fillsTo` says; and REGION_GRANT tries the request that is first served. -/
theorem launchesStartStrands : Obligations.LaunchesStartStrands := by
  unfold Obligations.LaunchesStartStrands
  intro s
  refine ⟨?take, ?dispatch, ?preload, ?completion, ?grant⟩
  case take =>
    intro c x hx hb hr hd
    refine ⟨execLaunchTake_hole hx hb hr hd, fun hk ha => ?_⟩
    obtain ⟨queues, refuses⟩ := execLaunchTake_backed hx hb hr hd hk ha
    have hpast : (s.modCtx c (Ctx.pastHead x.lhead.toNat)).ctx? c = some (x.pastHead x.lhead.toNat) := by
      rw [State.ctx_modCtx_same, hx]; rfl
    cases hl : launchOf (s.mem.readN (s.backing x.headAt) 320) x.lhead.toNat with
    | some l =>
      refine ⟨_, queues l hl, fun l' hl' => ⟨?_, rfl⟩, fun hn => ?_⟩
      · cases hl.symm.trans hl'
        rw [State.ctx_modCtx_same, hpast]; rfl
      · cases hl.symm.trans hn
    | none =>
      refine ⟨_, refuses hl, fun l' hl' => ?_, fun _ => ?_⟩
      · cases hl.symm.trans hl'
      · unfold Ctx.headAt at hpast ⊢
        split
        · exact ⟨hpast, (List.append_nil _).symm⟩
        · exact ⟨hpast, rfl⟩
  case dispatch =>
    intro c x l q hx hl hq hh prio freed block
    refine ⟨fun hf => ⟨fun d g hp => ?_, fun hp => ?_⟩, fun d g hf hlen => ?_⟩
    · exact execLaunchDispatch_blocks hx hl hq (.inl (State.allocate_preempts hh hf hp))
    · exact execLaunchDispatch_blocks hx hl hq (.inr (State.allocate_posts hh hf hp))
    · have hregs := launchStrand_readReg l prio s.depAll ((look l.entry x.decls).getD []) g (strandKey d g.lead) hlen
      refine ⟨_, _, execLaunchDispatch_found hx hl hq (State.allocate_found hh hf), State.place_strand .., ?_, rfl, rfl, rfl,
        rfl, rfl, rfl, ?_, fun z hz => ?_, hregs⟩
      · exact State.findRect_ctx hf
      · rw [State.die_modCtx]
        exact State.place_region ..
      · rw [State.ctx_modCtx_same, State.place_ctx] at hz
        obtain ⟨y, -, rfl⟩ := Option.map_eq_some_iff.mp hz
        exact y.markStarted_blocked l
  case preload =>
    intro k n x hx hp
    refine ⟨execWindowPreload_last hx hp, fun e va len first w hn hw hr => ?_⟩
    obtain ⟨u, ⟨hm, y, v, hy, hv, hvw, ht⟩, hu⟩ := execWindowPreload_fills hx hp hn hw hr
    refine ⟨_, { y with phase := .preload (n + 1) }, v, hu, hm, ?_, rfl, ht, ?_, ?_⟩
    · rw [State.strand_modStrand_same, hy]; rfl
    · rw [State.win?, State.strand_modStrand_same, hy]; exact hv
    · rwa [Win.putRows_stamps] at hvw
  case completion =>
    intro c j r hj hc
    refine ⟨execLaunchCompletion_hole hj hc, fun hb => ⟨_, execLaunchCompletion_written hj hc hb, rfl, rfl, ?_, fun a ha => ?_⟩⟩
    · have := s.mem.readN_writeN (s.backing r.comp) r.bytes
      rwa [Completion.bytes_length] at this
    · exact s.mem.read_writeN_other _ _ _ (by rwa [Completion.bytes_length])
  case grant =>
    intro c p rest x r pm a v q d g hq hh hxc hc hl hr hv hn who hw hf
    subst hxc
    have hx := State.held_strand hh.1
    obtain ⟨es, ef, eg⟩ := State.sameGrants_unreserve { s with fire := p.fire } who
    have ht := tryRgnal_found (s := { s with fire := p.fire }) hx hc hl hr hv hn (State.allocate_found hw hf)
    have := execRegionGrant_first (d := d) (g := g) hq hh rfl ht es ef ((State.grantRegion_regions ..).trans
      (congrArg (· ++ [g]) (eg d)))
    rwa [tgtA_rgnal] at this

end Sys2Proof.Machine
end

section
/-! SUPPORT. Encodings, registers and blocks: the spec's worked encodings (R42, R123, R139, R160, R178, R183), and what a
constant of a fabric block sends to a register before the block's chains are configured (R133, R138). -/

namespace Sys2Proof.Machine

open Sys2Proof

/-! ### Worked encodings -/

/-- Settles O1: the decoder evaluates to the instruction on each of the twenty encodings. -/
theorem workedEncodingsDecode : Obligations.WorkedEncodingsDecode := by
  unfold Obligations.WorkedEncodingsDecode
  exact ⟨rfl, rfl, rfl, rfl, rfl, rfl, rfl, rfl, rfl, rfl, rfl, rfl, rfl, rfl, rfl, rfl, rfl, rfl, rfl, rfl⟩

/-! ### A register output of a constant before the chains are configured -/

/-- Until the chains are configured, what a constant of a fabric block offers to a register is not taken: it belongs to
iteration 0, which has not begun (R133, R138). -/
theorem State.offer_reg_unchained {s : State} {x : Strand} {r : Run} {n : Node} {o : Out} {m : BitVec 5}
    (hb : r.blk.isFabric = true) (hi : (r.blk.instr? n.slot).any isConst = true) (hc : r.chained = false)
    (ht : o.tgt = .reg m) : ∃ f, s.offer x r n o = { s with fire := f } := by
  simp only [State.offer, ht, hb, hi, hc, Bool.not_false, Bool.and_self, if_true]
  exact ⟨_, rfl⟩

/-- Changes of the latch alone are no change. -/
theorem State.firstChange_latch {s : State} {g : State → State} {f : Firing} (h : g s = { s with fire := f }) :
    s.firstChange [g] = s := by
  simp only [State.firstChange, h, if_true]

/-- SLOT_RESULT_OFFER of such an output, where the node offers no other, has no effect. -/
theorem execSlotResultOffer_reg_unchained {s : State} {k copy slot : Nat} {x : Strand} {r : Run} {n : Node} {o : Out}
    {m : BitVec 5} (hx : s.strand? k = some x) (hr : x.run = some r) (hw : x.working = true)
    (hn : r.node? copy slot = some n) (ho : n.offers = [o]) (hb : r.blk.isFabric = true)
    (hi : (r.blk.instr? n.slot).any isConst = true) (hc : r.chained = false) (ht : o.tgt = .reg m) :
    exec (.slotResultOffer k copy slot) s = .next s := by
  obtain ⟨f, hf⟩ := State.offer_reg_unchained (s := { s with fire := { s.fire with k := k } }) (x := x) hb hi hc ht
  change execSlotResultOffer k copy slot s = _
  simp only [execSlotResultOffer, hx, hr, hw, hn, ho, if_true, List.map_cons, List.map_nil]
  exact congrArg _ (State.firstChange_latch hf)

/-- A block that has no write held holds one once a register has been written. -/
theorem Run.hold_regw_ne_nil {r : Run} (h : r.regw = []) (w : RegWrite) : (r.hold w).regw ≠ [] := by
  simp [Run.hold, h]

/-! ### The counterexample -/

/-- A fabric block with one chain, whose only level KSET at slot 0 configures: LIT of 7 to register 1 at slot 1, and EXIT at
slot 4 with the LIT that feeds it. -/
def litBlock : Block :=
  { addr := 0x4000, htype := 1, ninst := 6, rows := 0, cols := 0, nchain := 1, nstore := 0, nexit := 1, rdmask := 0,
    wrmask := 2, nmseq := 0, nconv := 0, fold := 0, rsid := 0,
    words := [Instr.kset .always .plus true 2, .lit .always .z 7 (.reg 1), .nop, .exit .always 0,
      .lit .always .z 0 (.left 4)].flatMap encode
    exits := [0x5000] }

/-- A region of one tile, on which the block has one copy. -/
def litRegion : Region := { Region.zero with rows := 1, cols := 1 }

/-- Load admits the block there (R50). -/
theorem litBlock_loads : blockErr [] litBlock litRegion false false = none := by decide +kernel

/-- The block begun: the LIT at slot 1 is configured and has fired, KSET has not. -/
def litRun : Run :=
  ((Run.start litBlock litRegion 0 0 false).modNode 0 1 fun n => { n with cfg := true }).finish { Firing.zero with slot := 1 }
    (.reg 1) .none (some (.tok (Tok.i64 7 0))) none

/-- A strand that runs it. -/
def litStrand : Strand := { Strand.init with region := litRegion, phase := .run, run := some litRun }

/-- The package with that strand. -/
def litState : State := { State.reset with strands := [(0, litStrand)] }

/-- What the LIT at slot 1 offers. -/
def litOut : Out := { iter := 0, tgt := .reg 1, b := false, item := .tok (Tok.i64 7 0), reg := false }

/-- That LIT's node. -/
def litNode : Node :=
  { copy := 0, slot := 1, cfg := true, fired := 1, done := 1, pend := [], out := [litOut], carry := none, stopped := false }

theorem litRun_node : litRun.node? 0 1 = some litNode := by decide +kernel

theorem litNode_offers : litNode.offers = [litOut] := by decide +kernel

/-- SLOT_RESULT_OFFER leaves no register write held, whichever write a statement asks for. -/
theorem slotResultOffer_litState_holds_nothing (w : RegWrite) (f : Node → Node) :
    ¬ ∃ t : State, exec (.slotResultOffer 0 0 1) litState = .next t ∧ t.run? 0 = some ((litRun.hold w).modNode 0 1 f) := by
  rintro ⟨t, ht, hrun⟩
  have hsame : exec (.slotResultOffer 0 0 1) litState = .next litState :=
    execSlotResultOffer_reg_unchained (x := litStrand) rfl rfl rfl litRun_node litNode_offers rfl (by decide +kernel)
      (by decide +kernel) rfl
  cases hsame.symm.trans ht
  have hheld : litRun = (litRun.hold w).modNode 0 1 f := Option.some.inj hrun
  exact Run.hold_regw_ne_nil rfl w (congrArg Run.regw hheld).symm

/-- Refutes O7, by its clause about a token delivered to a register: in a fabric block the output of a LIT or READS is not taken
before the chains are configured (R133, R138), and the clause does not ask that they are. -/
theorem not_registerReadsAndWrites : ¬ Obligations.RegisterReadsAndWrites := by
  unfold Obligations.RegisterReadsAndWrites
  rintro ⟨-, -, delivery, -⟩
  obtain ⟨held, -⟩ := delivery litState 0 0 1 litStrand litRun litNode litOut 1 (Tok.i64 7 0) rfl rfl rfl litRun_node rfl rfl
    litNode_offers rfl rfl
  exact slotResultOffer_litState_holds_nothing _ _ (held (by decide))

/-- Refutes O45, by its clause about an output to a register, which does not ask either that the chains of a fabric block are
configured before a constant's token is taken (R133, R138). -/
theorem not_blocksBeginAndEnd : ¬ Obligations.BlocksBeginAndEnd := by
  unfold Obligations.BlocksBeginAndEnd
  intro h
  obtain ⟨-, underWay⟩ := h litState 0 litStrand rfl
  obtain ⟨-, offers, -⟩ := underWay litRun rfl
  obtain ⟨delivery, -⟩ := offers rfl 0 1 litNode litOut litRun_node litNode_offers
  exact slotResultOffer_litState_holds_nothing _ _ (delivery 1 (Tok.i64 7 0) rfl rfl (by decide) rfl rfl)

end Sys2Proof.Machine
end
